-- ==== Sys2Proof/Word.lean ====
section
/-! DEFINITION. The word types of the TB-8840 model. -/

namespace Sys2Proof

/-- One byte, the smallest unit of every structure the device defines (R13). -/
abbrev Byte := BitVec 8

/-- A dictionary key: 256 times the 16-bit index plus the 8-bit subindex (the notation 0x3120:05). -/
abbrev Key := Nat

/-- A byte string. -/
abbrev Bytes := List Byte

end Sys2Proof
end

