-- ==== Sys2Proof/Syntax.lean ====
section
/-! DEFINITION. The commands of the block: one constructor of `Instr` for each row of
spec/opcode_table.json, with the row's operands. Unit numbers are `Fin` of the counts of R21. Errors of the
physical world (flipped bits, lost packets, a failed training) are operands of the command that meets them. -/

namespace Sys2Proof

/-- The ten number formats of R79 and the device-only INT32 partials of R113. -/
inductive Fmt where
  | int4 | int8 | int16 | e4m3 | e5m2 | fp16 | bf16 | fp32 | fp6 | fp4 | int32
  deriving DecidableEq, Repr

/-- A unit of the compute fabric (R21, R397). -/
inductive UnitRef where
  | ox (b : Fin 32) | vec (v : Fin 8) | mule (m : Fin 16) | goose (r : Fin 4)
  deriving DecidableEq, Repr

/-- The source of a dictionary request: receiving port (0 ETH-A, 1 ETH-S, 2 ETH-M, 3 to 6 CAN0 to CAN3),
source IP address and UDP port, SRC_NODE, TXN and VLAN tag (R445, R447, R452, R475). -/
structure Req where
  port : Fin 7
  ip   : Nat := 0
  udp  : BitVec 16 := 0
  mac  : BitVec 48 := 0
  node : BitVec 14 := 0
  txn  : BitVec 16 := 0
  tag  : Option (BitVec 16) := none
  deriving DecidableEq, Repr

/-- How a Diale frame arrived (R447 and the CAN FD identifier table). `canId` is the 29-bit identifier on CAN. -/
structure Carrier where
  port  : Fin 7
  ip    : Nat := 0
  udp   : BitVec 16 := 0
  mac   : BitVec 48 := 0
  tag   : Option (BitVec 16) := none
  canId : BitVec 29 := 0
  deriving DecidableEq, Repr

/-- Body of a received Ethernet frame, as far as R474 dispatches on it. -/
inductive EthBody where
  | udp (srcIp dstIp : Nat) (v6 frag : Bool) (srcPort dstPort : BitVec 16) (data : Bytes)
  | arp (target : Nat)
  | neighbour (target : Nat)
  | echo (dstIp : Nat) (v6 : Bool) (data : Bytes)
  | gptp
  | other
  deriving DecidableEq, Repr

/-- A received Ethernet frame; `size` is its length in bytes (R474), `tag` its TCI (R479, R481). -/
structure EthFrame where
  port : Fin 3
  dst  : BitVec 48
  src  : BitVec 48
  tag  : Option (BitVec 16)
  size : Nat
  body : EthBody
  deriving DecidableEq, Repr

/-- The kind of the token a staggering register holds (R59). -/
inductive Token where
  | weights | initial | load
  deriving DecidableEq, Repr

/-- The parity-protected registers of a lane row (R52, R59, R65, R74). -/
inductive RegName where
  | weightLatch (cell : Fin 64) | broadcastLatch (cell : Fin 64) | stagger | staggerScales | stationary | stationaryScales
  deriving DecidableEq, Repr

/-- A defect that one beat of a block meets: bits flipped on the adder output of a cell (R72), or in one byte of a
register as it is read, bit 8 being the byte's parity bit (R74). Rows are logical rows of the block, and of the whole
chain for the beat of a fused chain. -/
inductive BeatFlip where
  | adder (row : Fin 128) (cell : Fin 64) (bits : BitVec 32)
  | reg (row : Fin 128) (name : RegName) (byte : Fin 512) (bits : BitVec 9)
  deriving DecidableEq, Repr

/-- Where a vector block's operand of one beat comes from: values of the program, the lanes' own values, or group `k` of
512 elements of input `n`'s fetched tiles (of the expanded tile when there is one), in canonical order (R186). -/
inductive LaneSrc where
  | given (v : List (BitVec 32)) | lanes | operand (n : Fin 4) (k : Nat)
  deriving DecidableEq, Repr

/-- The operations of a vector block's lanes (R100), on FP32 (`int` false) or INT32 (`int` true). -/
inductive VOp where
  | load | add | sub | mul | fma | min | max | cmp | scale (n : Int) | store
  deriving DecidableEq, Repr

/-- What a read of a protected word meets: bits in error since the word was last written (R204, R229). -/
inductive ReadErr where
  | none | single | double | more (n : Nat)
  deriving DecidableEq, Repr

/-- What a scratchpad row holds, which decides whether it can be rewritten (R230). -/
inductive RowUse where
  | resident | activation | buffer | window | other
  deriving DecidableEq, Repr

/-- The words of the other on-chip memories (R232). -/
inductive OnchipWord where
  | ispLine (p : Fin 4) (memLane : Bool)
  | ispParams (p : Fin 4) (memLane : Bool)
  | ctrlData (pair : Fin 4)
  | supData (core : Fin 3)
  | descriptor (g : Fin 64) (station frame tile : Nat)
  | arbiter (a : Fin 5)
  | compositor (d : Fin 4)
  deriving DecidableEq, Repr

/-- The memories of R228, as the scrubber visits them. -/
inductive ScrubWord where
  | scratch (b : Fin 32) (row word : Nat)
  | regionData (r : Fin 4) (addr : Nat)
  | regionTag (r : Fin 4) (set way : Nat)
  | other (w : OnchipWord)
  deriving DecidableEq, Repr

/-- The watched places of R37. -/
inductive StallPlace where
  | regionArbiter (r : Fin 4) | chipArbiter | bridge (d : Fin 40) | window (b : Fin 32)
  deriving DecidableEq, Repr

/-- What a boot meets (R518): capacity of each channel in GiB (0: training failed), results of the
self-tests, each pace monitor's gate-window readings over the last 10 ms (2 ms on a wake) of the full-load pattern
(R45, R47), the hottest junction meanwhile, units that fail step 12. -/
structure BootInputs where
  density    : List Nat
  memoryOk   : Bool
  injectOk   : Bool
  initOk     : Bool
  readings   : List (List Nat)
  junction   : Int
  failedUnits : List UnitRef
  linksUp    : List (Fin 3)
  deriving DecidableEq, Repr

/-- An error pattern of one DRAM burst: symbol number 0 to 39 (0 to 3 virtual, 4 to 35 data, 36 to 39 check)
and the bits wrong in it (R242). -/
abbrev BurstErr := List (Fin 40 × Byte)

/-- A reference to one tile of a graph: graph slot, station, frame, index. -/
structure TileRef where
  g       : Fin 64
  station : Nat
  frame   : Nat
  index   : Nat
  deriving DecidableEq, Repr

/-- What a Mule moves for a tile (R121, R155, R158, R160): source tile `j` of input `n`, or the weights, for a unit; the
activation operand of the whole frame for a unit (REUSE 3); the tile itself from memory to memory. -/
inductive Move where
  | fetch (u : UnitRef) (n : Fin 4) (j : Nat)
  | weights (u : UnitRef)
  | resident (u : UnitRef)
  | copy
  deriving DecidableEq, Repr

/-- A window of a block, and which flush markers arrive at it: of the region arbiter, of the chip arbiter (R221). -/
structure CloseMarks where
  win    : Fin 16
  region : Bool
  chip   : Bool
  deriving DecidableEq, Repr

/-- The unit that reads a scratchpad row, and what the row holds (R205, R230). -/
structure RowRead where
  reader  : UnitRef
  content : RowUse
  deriving DecidableEq, Repr

/-- A place in a window: the frame, which picks the half, and the byte from the half's start (R219). -/
structure HalfPlace where
  frame : Nat
  off   : Nat
  deriving DecidableEq, Repr

/-- The element codes and scale bytes of an output (R108). -/
structure TileCodes where
  codes  : List Nat
  scales : List Nat
  deriving DecidableEq, Repr

/-- The header of a packet whose data type its command fixes: virtual channel, and whether the ECC corrected it (R265, R266). -/
structure PacketHeader where
  vc        : Fin 16
  corrected : Bool
  deriving DecidableEq, Repr

/-- The header of a packet with its data type (R265, R266). -/
structure TypedHeader where
  vc        : Fin 16
  dataType  : Fin 64
  corrected : Bool
  deriving DecidableEq, Repr

/-- A camera port whose LINE_TIMEOUT is looked at, and whether a packet of its virtual channel is arriving (R268). -/
structure Silence where
  port     : Fin 24
  arriving : Bool
  deriving DecidableEq, Repr

/-- The commands: one constructor per row of spec/opcode_table.json. -/
inductive Instr where
  | dialeFrameReceive (c : Carrier) (bytes : Bytes)
  | read (q : Req) (idx : BitVec 16) (sub : BitVec 8) (all : Bool)
  | write (q : Req) (idx : BitVec 16) (sub : BitVec 8) (all : Bool) (payload : Bytes)
  | segmentedRead (q : Req) (idx : BitVec 16) (sub : BitVec 8) (off : BitVec 32)
  | segmentedWrite (q : Req) (idx : BitVec 16) (sub : BitVec 8) (off : BitVec 32) (last : Bool) (payload : Bytes)
  | cancel (q : Req) (idx : BitVec 16) (sub : BitVec 8)
  | transferTimeout (n : Nat)
  | packageWrite (q : Req) (g : Fin 64) (image : Bytes)
  | activate (q : Req) (g : Fin 64)
  | deactivate (q : Req) (g : Fin 64)
  | unload (q : Req) (g : Fin 64)
  | graphSetupComplete (g : Fin 64)
  | deactivationComplete (g : Fin 64)
  | windowCloseAck (b : Fin 32) (w : CloseMarks)
  | tileFetch (u : UnitRef) (g : Fin 64) (station : Nat)
  | expandTile (m : Fin 16) (u : UnitRef) (t : TileRef) (flips : List (Nat × Byte))
  | verificationTile (m : Fin 16) (t : TileRef) (flips : List (Nat × Byte))
  | accumulate (b : Fin 32) (flips : List BeatFlip)
  | accumulatorDrain (b : Fin 32) (row : Fin 16) (entry : Fin 32)
  | tileComplete (u : UnitRef) (t : TileRef)
  | muleTransfer (m : Fin 16) (t : TileRef) (move : Move) (flips : List (Nat × Byte))
  | scratchpadRead (b : Fin 32) (row : Fin 8192) (word : Fin 64) (use : RowRead) (err : ReadErr)
  | regionCacheRead (r : Fin 4) (g : Fin 64) (addr : Nat) (sectors : List (Fin 4)) (unit : Option UnitRef) (err : List (Fin 4 × ReadErr)) (tag : ReadErr)
  | dramRead (addr : Nat) (g : Option (Fin 64)) (cls : Fin 5) (unit : Option UnitRef) (err : BurstErr)
  | dramPartialWrite (addr : Nat) (bytes : Bytes) (g : Option (Fin 64)) (cls : Fin 5) (err : BurstErr)
  | onchipMemoryRead (w : OnchipWord) (err : ReadErr)
  | dramWriteInvalidate (addr : Nat) (bytes : Bytes) (cls : Fin 5)
  | windowWrite (b : Fin 32) (w : Fin 16) (g : Fin 64) (station : Nat) (place : HalfPlace) (data : Bytes)
  | handshakeStall (p : StallPlace) (waited : Nat)
  | bridgeOverflow (d : Fin 40) (port : Option (Fin 24))
  | paceGateWindow (m : Fin 5) (beats : Nat)
  | pairCompare (u : UnitRef)
  | blockResetComplete (u : UnitRef)
  | gooseCompare (r : Fin 4) (flips : TileCodes)
  | taskBudgetExpiry (m : Fin 256) (frame : Nat)
  | taskAliveExpiry (m : Fin 256)
  | gateRelease (g : Fin 64) (station frame : Nat)
  | gateWithholdTimeout (g : Fin 64) (station frame : Nat)
  | recordTxStart (s : Fin 32)
  | ctrlWindowCompare (p : Fin 4) (sigA sigB : BitVec 64) (stores : List (Nat × Byte))
  | vote (t0 t1 t2 : Option Nat) (circuitsDiffer : Bool)
  | dissentTimeout (core : Fin 3)
  | resyncComplete
  | healthFuseWriteDone
  | faultReset (b : BootInputs)
  | pendingClear (q : Req) (word : Fin 2) (value : BitVec 64) (raised : List Nat)
  | latchClear (q : Req) (value : BitVec 8) (raised : List Nat)
  | reactionWrite (q : Req) (source : BitVec 8) (value : BitVec 8)
  | suspectTimerExpiry (u : UnitRef)
  | iftDue (u : UnitRef)
  | iftOverdue (u : UnitRef)
  | iftSlotStart (u : UnitRef)
  | iftSlotEnd (u : UnitRef) (signatures : List (UnitRef × List (BitVec 64))) (ownChecksFailed : List UnitRef)
  | gooseTest (r : Fin 4) (signatures : List (BitVec 64))
  | testPackageWrite (q : Req) (image : Bytes)
  | goldenSliceComplete (p : Fin 4) (pipeFlips sliceWord : BitVec 32)
  | portEnable (q : Req) (p : Fin 24)
  | portDisable (q : Req) (p : Fin 24)
  | portGearWrite (q : Req) (p : Fin 24) (value : BitVec 8)
  | portRateWrite (q : Req) (p : Fin 24) (sub : BitVec 8) (value : Bytes)
  | portBind (q : Req) (ctx : Fin 36) (value : BitVec 8)
  | linkTrainingComplete (p : Fin 24) (fsyncLatency : BitVec 32)
  | aphyLinkLoss (p : Fin 24)
  | aphyRetransmission (p : Fin 24)
  | aphyPacketLost (p : Fin 24)
  | frameStart (p : Fin 24) (hdr : PacketHeader)
  | frameEnd (p : Fin 24) (hdr : PacketHeader)
  | pixelLine (p : Fin 24) (bytes : Bytes) (crcOk : Bool) (hdr : TypedHeader)
  | embeddedLine (p : Fin 24) (bytes : Bytes) (crcOk : Bool) (hdr : PacketHeader)
  | headerUncorrectable (p : Fin 24) (couldBeLong : Bool)
  | otherPacket (p : Fin 24) (hdr : TypedHeader) (crcOk : Bool)
  | lineTimeout (p : Silence)
  | i2cReq (q : Req) (p : Fin 24) (bytes : Bytes)
  | i2cDone (p : Fin 24) (status : Fin 6) (data : Bytes)
  | pclPacket (eth : Fin 2) (udp : BitVec 16) (payload : Bytes)
  | scanTimeout (s : Fin 16)
  | ispLineProcess (p : Fin 4) (memLane : Bool) (overflow : Bool)
  | memoryLaneTakeFrame (p : Fin 4)
  | ispFrameDone (p : Fin 4) (memLane : Bool)
  | paramHoldWrite (q : Req) (ctx : Fin 36) (value : BitVec 8)
  | ringFreeze (q : Req)
  | ringRelease (q : Req)
  | ringDataRead (q : Req)
  | ringCursorWrite (q : Req) (value : BitVec 64)
  | ringSizeWrite (q : Req) (value : BitVec 16)
  | dramScrub (burst : Nat) (err : BurstErr)
  | onchipScrub (w : ScrubWord) (err : ReadErr)
  | dramRefresh (channel : Fin 32) (bank : Nat)
  | timeCommit (q : Req) (value : BitVec 8)
  | timeCommitApply
  | stagedTimeWrite (q : Req) (idx : BitVec 16) (sub : BitVec 8) (value : Bytes)
  | triggerFire (t : Fin 32)
  | ppsEdge (falling : Bool)
  | ppsMissedSecond
  | gptpSyncReceive (eth : Fin 2) (gmTime : Nat)
  | gptpPdelayExchange (eth : Fin 2) (completed : Bool) (delay : BitVec 32)
  | gptpPdelayTransmit (eth : Fin 2)
  | gptpSyncTransmit (eth : Fin 2)
  | gptpAnnounceReceive (eth : Fin 2)
  | gptpSyncTimeout (eth : Fin 2)
  | captureEvent (source : BitVec 8)
  | ethFrameReceive (f : EthFrame)
  | arpRequest (eth : Fin 3) (target : Nat) (mac : BitVec 48) (senderIp : Nat)
  | neighbourSolicitation (eth : Fin 3) (target : Nat) (mac : BitVec 48) (senderIp : Nat)
  | echoRequest (eth : Fin 3) (dstIp : Nat) (v6 : Bool) (mac : BitVec 48) (senderIp : Nat) (data : Bytes)
  | ethLinkLoss (eth : Fin 3)
  | ethLinkUp (eth : Fin 3)
  | canBusOff (c : Fin 4)
  | canBusRecovery (c : Fin 4)
  | lwTemplateRebuild
  | frerWrite (q : Req) (s : Fin 32) (sub : BitVec 8) (value : Bytes)
  | dspEnable (q : Req) (d : Fin 4) (value : BitVec 8)
  | dspTimingWrite (q : Req) (d : Fin 4) (sub : BitVec 8) (value : Bytes)
  | dspFrameStart (d : Fin 4)
  | dspLineFetch (d : Fin 4)
  | dspLineScan (d : Fin 4)
  | dspFrameEnd (d : Fin 4)
  | dspLinkLoss (d : Fin 4)
  | planeSourceWrite (q : Req) (d : Fin 4) (p : Fin 4) (value : BitVec 8)
  | coldBoot (b : BootInputs)
  | pinReset (b : BootInputs)
  | resetCmd (q : Req) (value : BitVec 16) (b : BootInputs)
  | ready
  | fwImageWrite (q : Req) (image : Bytes)
  | fwFlashWriteDone (ok : Bool)
  | customerKeyWrite (q : Req) (value : Bytes)
  | attestNonceWrite (q : Req) (value : Bytes)
  | attestReportReady
  | standbyCmd (q : Req) (value : BitVec 8)
  | standbyEntryComplete
  | wakeEvent (source : Fin 8) (b : BootInputs)
  | avsLoopStep (avsOk : Bool) (volts amps : BitVec 16)
  | temperatureRead (celsius : List Int)
  | vectorLaneOperation (v : Fin 8) (op : VOp) (int : Bool) (fmt : Fmt) (a b c : LaneSrc) (flips : List (Nat × BitVec 32))
  | resetNDeasserted
  | powerDown
  | dspLinkUp (d : Fin 4)
  | keyValidFuseBlown
  deriving DecidableEq, Repr

end Sys2Proof
end

