-- ==== Sys2Proof/Decode.lean ====
section
/-! DEFINITION. The host's probe of the opcode table. The table gives its rows no bits (every row's "fields" is
empty): commands reach the block as Diale frames, events and pins, which carry their operands whole. -/

namespace Sys2Proof

/-- The command that a table word spells: none, since no row of the table has bits. -/
def decodeTableWord (_nbits _w : Nat) : Option Instr := none

end Sys2Proof
end

