-- ==== Sys2Proof/Config.lean ====
section
/-! DEFINITION. The free values: constants without a body for what the spec leaves open
(notes/assumptions/2.md). Nothing can be proved of their values. -/

namespace Sys2Proof

/-- R322, R325: the rate a servo chooses after an accepted edge or Sync, before the ±500 ppm limit is
applied. The argument is the model's counter `free`. -/
opaque Config.servoRate : Nat → Int

/-- R316: whether the advance of a cycle at this RATE_ADJ, where it is no multiple of 2^-32 ns, is rounded up. -/
opaque Config.rateUp : Int → Bool

/-- R346: whether the Goose draws this completed tile as a further sample, given GOOSE_SHIFT. -/
opaque Config.gooseDraw : Nat → Nat → Bool

/-- R100: the 32-bit value a lane's compare operation leaves for a true and for a false comparison. -/
opaque Config.compareCode : Bool → BitVec 32

/-- R534: the signature by the identity key (its private key and its per-signature number are not given). -/
opaque Config.identitySign : Bytes → Bytes

/-- A host parameter as section 0x06 declares it (R149): type and access codes, the maximum of a DOMAIN or VISIBLE_STRING, and
the default as a number or as bytes. -/
structure HostDecl where
  ty : Nat
  access : Nat
  size : Nat
  number : Nat
  bytes : Bytes
  deriving DecidableEq, Repr

/-- R149: the host parameters that section 0x06 declares; the layout of that section is not given. -/
opaque Config.hostParams : Bytes → List HostDecl

/-- R204, R228: on three or more wrong bits of one SEC-DED word the read's verdict is not given:
0 delivered as it stands, 1 corrected, otherwise uncorrectable. -/
opaque Config.secDedBeyondTwo : Nat → Nat

/-- R513: the reset content of MARKER_BITMAP, the Criwyn pictogram. -/
opaque Config.pictogram : Nat → Byte

/-- R264, R279: bytes the far end's bus returns, or any byte the spec leaves open. -/
opaque Config.freeByte : Nat → Byte

/-- R90: the sign of a zero sum whose terms have different signs, from the signs of the terms. -/
opaque Config.zeroSumSign : List Bool → Bool

/-- R101: a 32-bit lane value for which the spec states no result. -/
opaque Config.freeWord : Nat → BitVec 32

/-- R393: the entries of the test context that the data of a KIND 5 pattern gives (CFA, STAGE_EN, BLACK_LEVEL, DPC_THRESH,
WB_GAIN, EDGE_THRESH, OUT_MODE, OUT_FORMAT, GROUP, DATA_TYPE, WIDTH in this order); the layout of that data is not given. -/
opaque Config.goldenFields : Bytes → List Nat

/-- R393: the DPC_LIST, LSC_GRID, CCM, TONE_LUT and CSC of the test context in that data. -/
opaque Config.goldenTables : Bytes → List Bytes

/-- R393: the pixel lines of the golden input image in that data. -/
opaque Config.goldenLines : Bytes → List Bytes

end Sys2Proof
end

