-- ==== Sys2Proof/Machine/State.lean ====
section
/-! DEFINITION. The state of the TB-8840 as plain data, the ways a step can stop, and the state after reset.
INVENTORY.md lists every piece with the rule that names it; notes/assumptions/3.md and 4.md give the reset
values the spec does not state. -/

namespace Sys2Proof.Machine

open Sys2Proof

/-- Why a step stops with a fault. -/
inductive Fault where
  /-- R237: a DRAM access outside device addresses 0 to the capacity minus 1. Raised by DRAM_READ,
  DRAM_PARTIAL_WRITE, DRAM_WRITE_INVALIDATE, REGION_CACHE_READ and DRAM_SCRUB. Safe: the model stops. -/
  | dramAddress
  deriving DecidableEq, Repr

/-- Why a step is refused. -/
inductive Refusal where
  /-- A command whose meaning is not modelled yet. Raised by exec's arms only. Safe. -/
  | notModelled (mnemonic : String)
  deriving DecidableEq, Repr

/-- A sparse map: strictly rising keys; a key that is not listed reads as the map's default. -/
abbrev SMap (α : Type) := List (Nat × α)

/-! ## Packages (05 R136 to R138, R557 to R559; 06 R150; 07; 08 R210; 13 R357; 18 R482; 19 R506) -/

structure Tiling where
  order : Nat := 0
  reuse : Nat := 0
  stripes : Nat := 1
  resident : Nat := 0
  deriving DecidableEq, Repr

structure ExpandRec where
  kh : Nat
  kw : Nat
  sh : Nat
  sw : Nat
  dh : Nat
  dw : Nat
  replicate : Bool
  pt : Nat
  pb : Nat
  pl : Nat
  pw : Nat
  tilePos : Nat
  layout : Nat
  step : Nat
  ct : Nat
  ke : Nat
  deriving DecidableEq, Repr

structure MatmulRec where
  weightOff : Nat
  wscaleOff : Nat
  initOff : Nat
  mOff : Nat
  fOff : Nat
  shift : Nat
  zeroPoint : BitVec 32
  lo : BitVec 32
  hi : BitVec 32
  k : Nat
  deriving DecidableEq, Repr

structure PoolRec where
  average : Bool
  includePad : Bool
  tilePos : Nat
  nTaps : Nat
  table : List (BitVec 32)
  deriving DecidableEq, Repr

structure ResampleRec where
  mode : Nat
  fy : Nat
  fx : Nat
  out1 : Nat
  out2 : Nat
  tilePos : Nat
  table : List (BitVec 32)
  deriving DecidableEq, Repr

structure OverlayRec where
  mode : Nat
  line : Nat
  shift : Nat
  fields : Nat
  colour : Nat
  palette : List Nat
  deriving DecidableEq, Repr

structure PublishRec where
  overlayTarget : Bool
  safety : Bool
  recordType : Nat
  stream : Nat
  overlay : Option OverlayRec
  deriving DecidableEq, Repr

/-- A station's kind with its parameters (R110). -/
inductive Params where
  | source (pointCloud : Bool) (number : Nat)
  | expand (r : ExpandRec)
  | matmul (r : MatmulRec)
  | pool (r : PoolRec)
  | resample (r : ResampleRec)
  | vector (program : Bytes)
  | publish (r : PublishRec)
  deriving DecidableEq, Repr

structure Station where
  number : Nat
  params : Params
  shape : Nat
  fmtIn : Nat
  fmtW : Nat
  fmtOut : Nat
  paired : Bool
  crossRegion : Bool
  hostParams : Bool
  blocks : Nat
  vblocks : Nat
  split : Nat
  groups : Nat
  monitor : Nat
  inQ : List Nat
  outQ : List Nat
  outTensor : Nat
  tiles : Nat
  worst : Nat
  tiling : Tiling
  deriving DecidableEq, Repr

structure Queue where
  producer : Nat
  consumers : List Nat
  depth : Nat
  region : Nat
  isPartial : Bool
  deriving DecidableEq, Repr

structure Tensor where
  format : Nat
  zc : Bool
  dim0 : Nat
  dim1 : Nat
  dim2 : Nat
  stride1 : Nat
  stride2 : Nat
  deriving DecidableEq, Repr

structure Budget where
  budget : Nat
  aliveEn : Bool
  aliveMin : Nat
  aliveMax : Nat
  deriving DecidableEq, Repr

/-- A resource claim (R210 and the claim types 0x10 to 0x12). -/
inductive Claim where
  | segments (station block mask : Nat)
  | window (station block win base limit w0 w1 : Nat)
  | weights (station block name first count : Nat)
  | tick (station trigger : Nat)
  | stream (station stream : Nat)
  | plane (station dsp plane : Nat)
  deriving DecidableEq, Repr

structure Package where
  pkgId : Nat
  safety : Bool
  residency : Bool
  stations : List Station
  queues : List Queue
  tensors : List Tensor
  budgets : List Budget
  claims : List Claim
  constants : Bytes
  hostParams : Bytes
  deriving DecidableEq, Repr

/-! ## Whom a fault names (16 R431) -/

/-- What a raised source names besides itself: the identity that reaches the supervisor trio (R431). Units are numbered
as the test-age entries number them (R391). -/
inductive Ident where
  /-- The source names nothing. -/
  | none
  /-- A unit (R400, R401, R562). -/
  | unit (u : Nat)
  /-- Block, logical row and cell (R72). -/
  | cell (b row cell : Nat)
  /-- Block, logical row and register (R74). -/
  | register (b row : Nat) (name : RegName)
  /-- Block, row and word of a scratchpad (R229, R230). -/
  | word (b row word : Nat)
  /-- Both copies, the station, the frame and the window (R372). -/
  | pair (a b : Nat) (t : Option TileRef) (window : Nat)
  /-- The block of a sampled tile (R347). -/
  | sample (b : Nat) (t : TileRef)
  /-- A tile: station and index (R121). -/
  | tile (t : TileRef)
  /-- A tensor: graph slot, station, frame (R117). -/
  | tensor (g st f : Nat)
  /-- A window's block, and graph slot and number of the writing station (R220). -/
  | writer (b g st : Nat)
  /-- A named weight region of a graph slot (R216). -/
  | weights (g name : Nat)
  /-- A region cache (R229, R231). -/
  | cache (r : Nat)
  /-- A memory channel, and the address within it for an uncorrectable burst (R243). -/
  | channel (ch : Nat) | dram (ch addr : Nat)
  /-- A memory and its word (R229, R232). -/
  | memory (w : OnchipWord)
  /-- A watched place (R37). -/
  | place (p : StallPlace)
  /-- A domain (R40). -/
  | domain (d : Nat)
  /-- A control pair (R384), a supervisor core (R386). -/
  | control (p : Nat) | core (c : Nat)
  /-- A task monitor (R360, R361). -/
  | monitor (m : Nat)
  /-- A camera port (R263, R271, R275), a context (R301, R410), a pipe (R415). -/
  | port (p : Nat) | ctx (c : Nat) | pipe (p : Nat)
  /-- A time base (R323), an Ethernet port, a CAN controller, a display port. -/
  | base (n : Nat) | link (e : Nat) | can (c : Nat) | display (d : Nat)
  deriving DecidableEq, Repr

/-- The Ox or vector block that an identity names (R562). -/
def Ident.unit? : Ident → Option Nat
  | .unit u => if u < 40 then some u else Option.none
  | .cell b _ _ => some b
  | .register b _ _ => some b
  | .word b _ _ => some b
  | .pair a _ _ _ => some a
  | .sample b _ => some b
  | _ => Option.none

/-! ## Graphs at run time (05 R111 to R149) -/

/-- What takes DRAM space besides the history ring (R237): a package, the output tensor of a station of an active graph,
an open transfer, raw buffer `n` of a port, output buffer `n` of a context (three for each enabling of the port), one of the two
buffers of a stream's tensor. -/
inductive SpaceOwner where
  | package (g : Nat) | tensor (g st : Nat) | transfer (src : Nat × Nat × Nat) (key : Key)
  | raw (port n : Nat) | context (c n : Nat) | scan (n buf : Nat)
  deriving DecidableEq, Repr

/-- Allocated DRAM space: device addresses base to base + size - 1 (R237). -/
structure Space where
  owner : SpaceOwner
  base : Nat
  size : Nat
  deriving DecidableEq, Repr

/-- A tile descriptor (R122). -/
structure Desc where
  index : Nat
  o0 : Nat
  o1 : Nat
  o2 : Nat
  e0 : Nat
  e1 : Nat
  e2 : Nat
  kind : Nat
  replay : Bool
  last : Bool
  shape : Nat
  check : Nat
  deriving DecidableEq, Repr

/-- One station's work on one frame: its counter slot (R129), its output header (R114) as far as it changes,
the device address of that header, the tensor it describes, its descriptors, those that wait for a free queue slot (R127), and
the state of its record at the gate for a publish station (R349). -/
structure StFrame where
  station : Nat
  frame : Nat
  next : Nat := 0
  limit : Nat := 0
  skipped : Nat := 0
  issued : List Nat := []
  done : List Nat := []
  lastSent : Bool := false
  slotOpen : Bool := true
  abandoned : Bool := false
  stalled : Bool := false
  handed : Bool := false
  released : Bool := false
  word : BitVec 32 := 0
  markAt : Option Nat := none
  act0 : Nat := 0
  act1 : Nat := 0
  act2 : Nat := 0
  final : Bool := false
  timestamp : Nat := 0
  srcFrame : Option Nat := none
  base : Nat := 0
  tensor : Tensor := ⟨0, false, 0, 0, 0, 0, 0⟩
  descs : List Desc := []
  held : List Desc := []
  ended : Bool := false
  deriving DecidableEq, Repr

/-- A graph slot: package, setup and open frames (R140 to R145); its retained weight regions as first segment, name and
CRC-32C word (R216); whether the close handshake of its windows runs (R145). Its state is dictionary entry 0x3012. -/
structure GraphSlot where
  image : Bytes := []
  pkg : Option Package := none
  setupStart : Nat := 0
  setupDone : Bool := false
  hwQueues : List Nat := []
  monitors : List Nat := []
  frames : List StFrame := []
  retained : List (Nat × Nat × Nat) := []
  closing : Bool := false
  admitAfter : Nat := 0
  tickT0 : Nat := 0
  deriving DecidableEq, Repr

/-! ## Units of the fabric -/

inductive Status where
  | inService | withdrawn | inTest | slice | drained
  deriving DecidableEq, Repr

/-- A checkpoint log entry (R375): the tile and the input tiles it reads (queue, producer's index); besides, how many of
the tile's tokens the datapath has taken (of the pass's, for the first tile of a fused pass; 1 for a vector block's tile
that has run), how many weight and activation tokens its multicast source has released (R63), and the indices of its pass, in
order, which are handed out and run together (R153). -/
structure LogEntry where
  ref : TileRef
  pass : List Nat := []
  inputs : List (Nat × Nat)
  hasInit : Bool
  replay : Bool
  fed : Nat := 0
  sentW : Nat := 0
  sentA : Nat := 0
  deriving DecidableEq, Repr

/-- Bytes with one even-parity bit each (R52, R59, R65). -/
abbrev Prot := List (Byte × Bool)

/-- A token in a staggering register (R59): its kind, tile and reduction step, whether it is the last of its tile (of its
load wave), its format, the weight slice (the initial values; the operand of one row) and its scales under parity, the
broadcast operand and scale that each row's feeder delivers with it (R61), the chunk of the stationary register it meets in
the fused chain (R65), and which of its elements lie inside the actual length (R93). -/
structure StagTok where
  kind : Token
  ref : TileRef
  step : Nat
  last : Bool
  fmt : Fmt
  data : Prot
  scales : Prot
  acts : List (Bytes × Nat) := []
  chunk : Option Nat := none
  live : Nat := 0
  deriving DecidableEq, Repr

/-- The operand latches of a cell and its mask bit (R52). -/
structure CellRegs where
  weight : Prot := []
  bcast : Prot := []
  mask : Bool := false
  deriving DecidableEq, Repr

/-- The registers of a lane row: staggering, stationary and stationary scale register, and its cells' latches. -/
structure RowRegs where
  tok : Option StagTok := none
  stat : Prot := []
  statScale : Prot := []
  cells : List CellRegs := []
  deriving DecidableEq, Repr

/-- One token of a skew buffer (R63): a weight slice with its scales, or the 16 rows' operands of one step. -/
structure SkewTok where
  ref : TileRef
  slice : Bytes := []
  scales : Bytes := []
  acts : List (Bytes × Nat) := []
  deriving DecidableEq, Repr

/-- A source tile that a Mule has brought into an operand buffer: input, the producer's index, origin and extents, codes and
scale bytes in canonical order (R120). -/
structure SrcTile where
  input : Nat
  index : Nat
  o : Nat × Nat × Nat
  e : Nat × Nat × Nat
  codes : List Nat
  scales : List Nat
  deriving DecidableEq, Repr

/-- An operand buffer (R561): what Mules have written for one tile (for one pass, in a fused chain): activations in the
layout of R181, source tiles in the order of their arrival, weight slices, scales and initial values. -/
structure OpBuf where
  ref : TileRef
  acts : Bytes := []
  got : List (Nat × Nat) := []
  expanded : Bool := false
  srcs : List SrcTile := []
  weights : Option (Bytes × Bytes × Bytes) := none
  deriving DecidableEq, Repr

/-- One drained row of a tile in a block's output buffer: the beat in which its last value left, the codes of its unmasked
cells in channel order and the scale bytes of their blocks. -/
structure OutRow where
  ref : TileRef
  row : Nat
  beat : Nat
  codes : List Nat
  scales : List Nat
  deriving DecidableEq, Repr

/-- A unit's working state: tiles held, checkpoint log, replay set, signature unit (R371, R372), residue checks that fail
when they complete (beat, row, cell, R55), values of the drain port with their beat (R371) and the next beat of each row's
port, operand buffers, those of tiles that have taken all their tokens (kept for the Goose, R346), skew buffers of weights and activations (R63), resident activation operands (R158), outputs. -/
structure UnitState where
  status : Status := .inService
  log : List LogEntry := []
  replay : List LogEntry := []
  resetting : Bool := false
  failedOnce : List (TileRef × Ident) := []
  sig : BitVec 64 := 0
  beat : Nat := 0
  closed : List (Nat × BitVec 64) := []
  compared : Nat := 0
  checks : List (Nat × Nat × Nat) := []
  port : List (Nat × BitVec 64) := []
  portNext : SMap Nat := []
  opBuf : List OpBuf := []
  usedBuf : List OpBuf := []
  skewW : List SkewTok := []
  skewA : List SkewTok := []
  resident : List (Fin 64 × Nat × Nat) := []
  outBuf : List OutRow := []
  sampled : List (Nat × Nat × Nat) := []
  retired : Nat := 0
  deriving DecidableEq, Repr

inductive EntryState where
  | free | accumulating | closed | draining
  deriving DecidableEq, Repr

/-- One accumulator entry of a lane row: state, owning tile, the 64 cells' value and residue, the beat that closed it, the
cells masked, and how many quarters of its 64 values have left (R52, R55). -/
structure AccEntry where
  state : EntryState := .free
  owner : Option TileRef := none
  float : Bool := false
  cells : List (BitVec 32 × Nat) := []
  closedAt : Nat := 0
  masked : List Bool := []
  quarter : Nat := 0
  deriving DecidableEq, Repr

/-- A sampled tile (R346): its block, the codes and scale bytes of the block's output (R108), and what is retained for the
recomputation: the tokens the tile took, with the operands they met, and the mask bits of the block's 16 rows. -/
structure Sample where
  ref : TileRef
  block : Fin 32
  codes : List Nat
  scales : List Nat
  toks : List StagTok := []
  masks : List (List Bool) := []
  deriving DecidableEq, Repr

/-- A Goose: its queue of samples (R346). -/
structure Goose where
  samples : List Sample := []
  deriving DecidableEq, Repr

/-- One line of a region cache (R223): tag (address div 128), slot, four sectors. -/
structure CacheLine where
  tag : Nat
  slot : Nat
  valid : List Bool
  dirty : List Bool
  poison : List Bool
  data : List Bytes
  deriving DecidableEq, Repr

inductive WinState where
  | closed | isOpen | closing
  deriving DecidableEq, Repr

/-- A window (R218 to R221), with the arrival of the flush markers of the region and of the chip arbiter. -/
structure Win where
  state : WinState := .closed
  owner : Nat := 0
  station : Nat := 0
  base : Nat := 0
  limit : Nat := 0
  writers : List Nat := []
  regionMark : Bool := false
  chipMark : Bool := false
  deriving DecidableEq, Repr

/-- A segment's owner (R212, R466 kind 1): slot 1 to 64, station, retained. -/
structure SegOwner where
  slot : Nat
  station : Nat
  retained : Bool
  deriving DecidableEq, Repr

/-! ## Sensors and the image pipeline -/

/-- A frame's parameter set (R302): the context's and the port's values latched at its frame start. -/
structure ParamSet where
  cfa : Nat := 0
  stageEn : Nat := 0x1FF
  black : Nat := 0
  dpcThresh : Nat := 4096
  dpcList : Bytes := []
  lsc : Bytes := []
  wb : Nat := 0x1000100010001000
  edge : Nat := 256
  ccm : Bytes := []
  tone : Bytes := []
  csc : Bytes := []
  outMode : Nat := 1
  outFormat : Nat := 2
  group : Nat := 16
  statsEn : Bool := true
  freezeMode : Nat := 3
  dataType : Nat := 0x2C
  width : Nat := 3840
  lines : Nat := 2160
  embLines : Nat := 0
  deriving DecidableEq, Repr

/-- A camera frame in ingest, in a raw buffer or in a lane (R268 to R276): `rawSlot` is its raw buffer among the three that the
enabling `epoch` of its port allocated (R274). -/
structure CamFrame where
  port : Nat
  ctx : Nat
  params : ParamSet
  sof : Nat
  bases : List Nat := []
  emb : List Bytes := []
  pix : List Bytes := []
  excess : Nat := 0
  dataCrc : BitVec 32 := 0xFFFFFFFF
  truncated : Bool := false
  linkErr : Bool := false
  late : Bool := false
  fc : Nat := 0xFFFFFFFF
  word : BitVec 32 := 0
  isClosed : Bool := false
  inRing : Option Nat := none
  toRaw : Bool := false
  toInline : Bool := false
  epoch : Nat := 0
  rawSlot : Nat := 0
  deriving DecidableEq, Repr

/-- A camera port's working state; its link state is entry 0x2200. The frame in progress; start of the previous opened
frame in T3 (R271) and in T0 (R273); discarding after a refused start (R271); raw buffers in use (R274); a commit has
moved the frame sync, and the last instant fired for the port with its base (R273); T3 of the last packet (R268); the
set of raw buffers in use (each enabling allocates a new one, R274); T3 at which the I2C transaction started. -/
structure CamPort where
  cur : Option CamFrame := none
  prevStart : Option Nat := none
  prevTs : Option Nat := none
  discarding : Bool := false
  rawUsed : List Nat := []
  syncMoved : Bool := false
  trigInstant : Option (Nat × Nat) := none
  lastPkt : Nat := 0
  epoch : Nat := 0
  i2cAt : Nat := 0
  deriving DecidableEq, Repr

/-- An output buffer of a context: its number, the frame, how many rows are written, the check word of the tile being written as
far as it has come, those of the tiles written (R299), the takers, the verdicts (R410, R414). -/
structure OutFrame where
  no : Nat
  frameNo : Nat
  frame : CamFrame
  buf : Nat := 0
  rows : Nat := 0
  crc : BitVec 32 := 0xFFFFFFFF
  checks : List Nat := []
  isDone : Bool := false
  takers : List (Nat × Nat × Nat) := []
  frozenClosed : Bool := false
  goldenClosed : Bool := false
  covered : Option Nat := none
  freed : Bool := false
  deriving DecidableEq, Repr

/-- A context: number of the next processed frame since reset and of the first one since its port was enabled (their
difference is FRAME_NO, R298), output buffers, freeze history, newest frame whose processing has ended, how often its port has
been enabled (each time allocates three output buffers, R300). -/
structure Ctx where
  nextNo : Nat := 0
  base : Nat := 0
  bufs : List OutFrame := []
  history : List (BitVec 64 × Nat) := []
  newest : Option OutFrame := none
  epoch : Nat := 0
  deriving DecidableEq, Repr

/-- A lane of a pipe: the frame it processes with its number, input lines done as pixels, whether it stores no further
row (R301), whether it holds the golden input, whether the freeze detector has compared the frame (R291, R409). -/
structure Lane where
  frame : Option CamFrame := none
  no : Nat := 0
  img : List (List Nat) := []
  stopped : Bool := false
  golden : Bool := false
  checked : Bool := false
  deriving DecidableEq, Repr

/-- A golden slice of a pipe (R411 to R416): the context golden at its presentation, whether it is presented or
still queued (R416), whether the memory lane has taken its input, whether the input has left the pipe, whether its
deadline has decided it incomplete, and of its package (R396) the EXPECT and the data, of which the pipe forms the pipe word. -/
structure Slice where
  ctx : Nat
  seqNo : Nat
  expect : Nat
  presentedAt : Nat := 0
  presented : Bool := true
  taken : Bool := false
  inDone : Bool := false
  decided : Bool := false
  input : Bytes := []
  pipeWord : BitVec 32 := 0
  deriving DecidableEq, Repr

/-- A pipe: both lanes, ready memory frames, slices presented, verdict of the last slice. -/
structure Pipe where
  inl : Lane := {}
  mem : Lane := {}
  ready : List CamFrame := []
  slices : List Slice := []
  sliceSeq : Nat := 0
  lastIncomplete : Bool := false
  lastPipeWordBad : Bool := false
  deriving DecidableEq, Repr

/-- A point-cloud stream's open scan (R283, R284); `turn` says which of its two buffers the scan is written to. -/
structure Scan where
  isOpen : Bool := false
  seq : Nat := 0
  lastSeq : Option Nat := none
  pkts : List Nat := []
  points : List Bytes := []
  dropped : Bool := false
  sawLast : Bool := false
  ts : Nat := 0
  prevTs : Option Nat := none
  late : Bool := false
  lastPkt : Nat := 0
  turn : Nat := 0
  takers : List (Nat × Nat × Nat) := []
  deriving DecidableEq, Repr

/-- A history ring record (R252). -/
structure RingRec where
  seq : Nat
  offset : Nat
  length : Nat
  port : Nat
  complete : Bool
  deriving DecidableEq, Repr

structure Ring where
  size : Nat := 0
  writeOff : Nat := 0
  nextSeq : Nat := 0
  recs : List RingRec := []
  deriving DecidableEq, Repr

/-! ## Time -/

/-- A servo's progress (R321 to R323, R325): whether its first edge or Sync has stepped the base, consecutive good ones,
consecutive missed seconds, the next second to be missed (T0) or T3 of the last Sync (T1, T2), completed Pdelay exchanges
in a row, and T3 of the last Sync and of the last Pdelay request sent (R324). -/
structure Servo where
  first : Bool := false
  good : Nat := 0
  missed : Nat := 0
  nextSecond : Nat := 0
  asRun : Nat := 0
  syncSent : Option Nat := none
  pdelaySent : Option Nat := none
  deriving DecidableEq, Repr

/-- A trigger's working state: the number of its next instant (R329, R331). -/
structure Trig where
  k : Nat := 0
  deriving DecidableEq, Repr

structure Rooster where
  ns : SMap Nat := []
  frac : SMap Nat := []
  servo : SMap Servo := []
  trig : SMap Trig := []
  commitAt : Option Nat := none
  deriving DecidableEq, Repr

/-! ## Safety, network, display, boot -/

/-- A hardware task monitor (R357 to R361): frames running with their T3 start, last completion. -/
structure Mon where
  running : List (Nat × Nat) := []
  lastDone : Option Nat := none
  since : Nat := 0
  deriving DecidableEq, Repr

/-- One entry of a test package (R393). -/
structure Pattern where
  kind : Nat
  pipe : Nat
  format : Nat
  beats : Nat
  dataOff : Nat
  dataSize : Nat
  expect : Nat
  pipeBeats : Nat
  deriving DecidableEq, Repr

/-- A running test slot: the units of its withdrawal group and the patterns it started with (R396, R403). -/
structure IftSlot where
  units : List Nat
  patterns : List Pattern
  deriving DecidableEq, Repr

/-- In-field test (R401 to R405): start times, due units in order, overdue ones, running slots. -/
structure Ift where
  start : SMap Nat := []
  due : List Nat := []
  overdue : List Nat := []
  slots : List IftSlot := []
  deriving DecidableEq, Repr

/-- Supervisor trio and control pairs (R383 to R388, R421). -/
structure Sup where
  interrupts : List (Nat × Ident) := []
  traps : List (Nat × Ident) := []
  resync : Option Nat := none
  dissentAt : SMap Nat := []
  issued : List Nat := []
  heldStores : SMap (List (Nat × Byte)) := []
  ctrlMem : List (Nat × Byte) := []
  rollback : SMap Bool := []
  deriving DecidableEq, Repr

/-- A result record released by the gate (R486), with the actual lengths of its payload. -/
structure Rec where
  stream : Nat
  graph : Nat
  kind : Nat
  seq : Nat
  word : BitVec 32
  timestamp : Nat
  frameNo : Nat
  recordType : Nat
  payload : Bytes
  act : Nat × Nat × Nat := (0, 0, 0)
  deriving DecidableEq, Repr

/-- The last-word template (R493). -/
structure LwTemplate where
  mac : Nat := 0xFFFFFFFFFFFF
  ip : Bytes := [0xFF, 0xFF, 0xFF, 0xFF]
  udp : Nat := 0x43684368
  vlan1 : Nat := 0xFFFF
  vlan2 : Nat := 0xFFFF
  canId : Nat := 0
  deriving DecidableEq, Repr

/-- The credit of a shaped transmit queue (R479), in units of 10^-6 bit, as it stands at an instant of T3; an instant ahead is
the end of the transmission in progress. -/
structure Credit where
  value : Int := 0
  time : Nat := 0
  deriving DecidableEq, Repr

/-- The network's working state: waiting records (R490), the last-word template and what holds of it (R493), meters (R481),
credits by port and queue, 8 to a port (R479), records on overlays (R508). -/
structure Net where
  waiting : SMap (List Rec) := []
  lw : LwTemplate := {}
  lwDue : Bool := false
  heldLwEth : Option (LwTemplate × Bytes) := none
  heldLwCan : Option (LwTemplate × Bytes) := none
  bucket : SMap (Nat × Nat) := []
  credit : SMap Credit := []
  overlayRec : SMap Rec := []
  deriving DecidableEq, Repr

/-- What the compositor sampled of one plane at an output frame's start (R500): its entries, whether FILL stands in for
its source (R504), the frame a camera plane without FOLLOW shows (R503), an overlay's record and parameters (R508). -/
structure PlaneShot where
  enable : Bool
  source : Nat
  rect : Nat
  pos : Nat
  mode : Nat
  alpha : Nat
  fill : Nat
  showFill : Bool
  cam : Option OutFrame
  shown : Option Rec
  overlaid : Option OverlayRec
  deriving DecidableEq, Repr

/-- A display port's output frame (R498 to R511): whether one is in progress, active lines sent, next line to fetch, lines
fetched and not yet sent, planes sampled, CRC of the pixels sent so far, what each plane shows in this and in the previous
output frame, repeats since the last DSP_FREEZE, whether a frame has been sent before. -/
structure Disp where
  active : Bool := false
  line : Nat := 0
  fetchNext : Nat := 0
  fetched : List (Nat × List (Nat × Nat × Nat)) := []
  planes : List PlaneShot := []
  crc : BitVec 32 := 0xFFFFFFFF
  shown : List (Option Nat × Option Rec) := []
  prevShown : List (Option Nat × Option Rec) := []
  repeats : Nat := 0
  anyFrame : Bool := false
  deriving DecidableEq, Repr

/-- An open transfer (R450 to R452). -/
structure Transfer where
  src : Nat × Nat × Nat
  key : Key
  isWrite : Bool
  off : Nat
  buf : Bytes
  lastT3 : Nat
  deriving DecidableEq, Repr

/-- A kept response (R454). -/
structure Kept where
  src : Nat × Nat × Nat
  idx : Nat
  sub : Nat
  op : Nat
  txn : Nat
  response : Bytes
  deriving DecidableEq, Repr

structure Diale where
  opened : List Transfer := []
  timedOut : List ((Nat × Nat × Nat) × Key) := []
  kept : List Kept := []
  deriving DecidableEq, Repr

structure KeyBank where
  used : Bool := false
  valid : Bool := false
  key : Bytes := []
  deriving DecidableEq, Repr

structure Fuses where
  orderingLE : Bool := false
  serial : Nat := 1
  dieStep : Nat := 0
  repair : SMap Nat := []
  lifecycle : Nat := 1
  secFuses : Nat := 0
  keyRevoked : Nat := 0
  fwKeyHash : SMap Bytes := []
  bank0 : KeyBank := {}
  bank1 : KeyBank := {}
  health2 : Bool := false
  drainCause : Nat := 0
  mac : Nat := 0
  identityKey : Bytes := []
  deriving DecidableEq, Repr

structure TestPkg where
  image : Bytes := []
  version : Nat := 0
  patterns : List Pattern := []
  deriving DecidableEq, Repr

/-- What the device knows of a firmware image in flash (R525). -/
structure FwImage where
  version : Nat := 0
  secVersion : Nat := 0
  keySlot : Nat := 0
  revoke : Nat := 0
  signer : Bytes := []
  digest : Bytes := []
  baseline : TestPkg := {}
  deriving DecidableEq, Repr

structure StoreCopy where
  seq : Nat
  vals : SMap Nat
  blobs : SMap Bytes
  deriving DecidableEq, Repr

structure Flash where
  fw : FwImage := {}
  fwIntact : Bool := true
  testPkg : Option TestPkg := none
  storeA : Option StoreCopy := none
  storeB : Option StoreCopy := none
  writingCopy : Option Bool := none
  cert : Bytes := []
  deriving DecidableEq, Repr

/-- Always-powered safety-island memory (R381, R424, R439, R536). -/
structure Aon where
  suspect : SMap Nat := []
  dissent : SMap Nat := []
  lastFaultReset : Option Nat := none
  health1 : Bool := false
  drainCause : Nat := 0
  deriving DecidableEq, Repr

inductive Phase where
  | off | heldInReset | booting | ready | failed | recovery | enteringStandby | standby | waking
  deriving DecidableEq, Repr

structure Sys where
  phase : Phase := .booting
  errLow : Bool := true
  handover : Bool := false
  faultReset : Option Nat := none
  standbyGraphs : List Nat := []
  depotEn : Bool := false
  testEn : Bool := false
  resetN : Bool := true
  coreEn : Bool := true
  corePg : Bool := true
  supplies : Bool := true
  wakePending : Bool := false
  attestBusy : Option Nat := none
  attestNonce : Bytes := []
  enrolling : Bool := false
  bootIn : Option BootInputs := none
  bootStart : Nat := 0
  standbyAt : Nat := 0
  running : FwImage := {}
  fwPending : Option FwImage := none
  testPkg : TestPkg := {}
  selfRefresh : Bool := false
  deriving DecidableEq, Repr

/-- What leaves the device, as the world outside sees it. -/
inductive Out where
  | diale (q : Req) (srcUdp canId : Nat) (frame : Bytes)
  | record (port mac vlan : Nat) (rtag : Option Nat) (ip : Bytes) (srcUdp dstUdp : Nat) (frame : Bytes)
  | lastWord (port mac vlan : Nat) (ip : Bytes) (srcUdp dstUdp : Nat) (frame : Bytes)
  | canRecord (can id : Nat) (frame : Bytes)
  | canLastWord (can id : Nat) (frame : Bytes)
  | fsyncPin (pin instant width : Nat) (activeLow : Bool)
  | uplinkSync (port instant : Nat)
  | i2c (port : Nat) (request : Bytes)
  | reply (port : Nat) (mac : Nat) (kind : Nat) (body : Bytes)
  | gptp (port domain kind : Nat) (time : Nat)
  | displayLine (port line : Nat) (pixels : List (Nat × Nat × Nat))
  | avs (millivolts : Nat)
  deriving DecidableEq, Repr

/-- The whole device, and the queue of waiting commands. -/
structure State where
  regs : SMap Nat := []
  staged : SMap Nat := []
  blobs : SMap Bytes := []
  stagedBlobs : SMap Bytes := []
  mem : List Host.Cell := []
  dramErr : SMap BurstErr := []
  space : List Space := []
  sram : SMap Nat := []
  pad : SMap Byte := []
  fuses : Fuses := {}
  flash : Flash := {}
  aon : Aon := {}
  sys : Sys := {}
  rooster : Rooster := {}
  ring : Ring := {}
  ports : SMap CamPort := []
  ctxs : SMap Ctx := []
  pipes : SMap Pipe := []
  scans : SMap Scan := []
  slots : SMap GraphSlot := []
  units : SMap UnitState := []
  acc : SMap AccEntry := []
  rows : SMap RowRegs := []
  lanes : SMap (List (BitVec 32)) := []
  gooses : SMap Goose := []
  lines : SMap (List CacheLine) := []
  plru : SMap Nat := []
  wins : SMap Win := []
  segs : SMap SegOwner := []
  mons : SMap Mon := []
  pace : SMap Nat := []
  ift : Ift := {}
  sup : Sup := {}
  net : Net := {}
  disp : SMap Disp := []
  diale : Diale := {}
  wire : List Out := []
  free : Nat := 0
  pending : List Instr := []
  deriving DecidableEq, Repr

/-- What the boot in progress in `State.reset` meets: 16 GiB on every channel, every self-test passed, 1,450 beats per µs,
no failed unit, every link up (DESIGN CHOICE, notes/assumptions/3.md). -/
def firstBoot : BootInputs :=
  { density := List.replicate 32 16, memoryOk := true, injectOk := true, initOk := true, readings := List.replicate 5 [1450]
    junction := 25, failedUnits := [], linksUp := [0, 1, 2] }

/-- The machine right after reset: a cold boot in progress (BOOT_STATUS 0x0001, ERR_N low), every
dictionary value at its default, every store empty (R432, R464, R516). -/
def State.reset : State := { sys := { bootIn := some firstBoot } }

end Sys2Proof.Machine
end

