-- ==== Sys2Proof/Machine/Store.lean ====
section
/-! DEFINITION. Sparse maps in one canonical form (strictly rising keys, no entry equal to what an unlisted key
reads as), and the small list helpers the meanings share. -/

namespace Sys2Proof.Machine

open Sys2Proof

/-- The value listed for a key. -/
def sfind {α : Type} (k : Nat) : SMap α → Option α
  | [] => none
  | (k', v) :: t => if k = k' then some v else sfind k t

/-- Lists a value for a key, in key order. -/
def sinsert {α : Type} (k : Nat) (v : α) : SMap α → SMap α
  | [] => [(k, v)]
  | (k', w) :: t =>
    if k < k' then (k, v) :: (k', w) :: t
    else if k = k' then (k, v) :: t
    else (k', w) :: sinsert k v t

/-- Removes a key. -/
def sdel {α : Type} (k : Nat) : SMap α → SMap α
  | [] => []
  | (k', v) :: t => if k = k' then sdel k t else (k', v) :: sdel k t

/-- What a key reads as: its listed value, or the default. -/
def sget {α : Type} (d : Nat → α) (m : SMap α) (k : Nat) : α :=
  match sfind k m with
  | some v => v
  | none => d k

/-- Writes a key, keeping the canonical form: writing the default removes the entry. -/
def sset {α : Type} [DecidableEq α] (d : Nat → α) (m : SMap α) (k : Nat) (v : α) : SMap α :=
  if v = d k then sdel k m else sinsert k v m

/-- Whether every key of a map is above `k`, in order. -/
def sascFrom {α : Type} : Nat → SMap α → Bool
  | _, [] => true
  | n, (k, _) :: t => decide (n ≤ k) && sascFrom (k + 1) t

/-- The canonical form: strictly rising keys and no listed default. -/
def swf {α : Type} [DecidableEq α] (d : Nat → α) (m : SMap α) : Bool :=
  sascFrom 0 m && m.all fun p => decide (p.2 ≠ d p.1)

/-- The canonical form of a map without a default: strictly rising keys. -/
def sasc {α : Type} (m : SMap α) : Bool := sascFrom 0 m

/-- The default of a map of numbers. -/
def dflt0 : Nat → Nat := fun _ => 0

/-- Replaces element `n` of a list, padding with `d` as far as needed. -/
def setAt {α : Type} (d : α) : Nat → α → List α → List α
  | 0, v, [] => [v]
  | 0, v, _ :: t => v :: t
  | n + 1, v, [] => d :: setAt d n v []
  | n + 1, v, h :: t => h :: setAt d n v t

/-- Element `n` of a list, or `d`. -/
def nth {α : Type} (d : α) (l : List α) (n : Nat) : α := (l[n]?).getD d

/-- Adds an element to an ordered list of distinct numbers. -/
def addNat (n : Nat) (l : List Nat) : List Nat := if l.contains n then l else l ++ [n]

/-- Applies `f` to the first element that satisfies `p`. -/
def updateFirst {α : Type} (p : α → Bool) (f : α → α) : List α → List α
  | [] => []
  | h :: t => if p h then f h :: t else h :: updateFirst p f t

/-- Folds a step over a list, the state last. -/
def forEach {α σ : Type} (l : List α) (f : α → σ → σ) (s : σ) : σ := l.foldl (fun s a => f a s) s

end Sys2Proof.Machine
end

