-- ==== Sys2Proof/Machine/Bits.lean ====
section
/-! DEFINITION. Byte order, bit tests, CRC-32C and the signature register: the bit-level helpers that the
chapters share (R13, R119, R371). -/

namespace Sys2Proof.Machine

open Sys2Proof

/-- The little-endian value of a byte string (R13). -/
def leVal : Bytes → Nat
  | [] => 0
  | b :: t => b.toNat + 256 * leVal t

/-- The `n` little-endian bytes of a value (R13). -/
def leBytes : Nat → Nat → Bytes
  | 0, _ => []
  | n + 1, v => BitVec.ofNat 8 v :: leBytes n (v / 256)

/-- The big-endian value of a byte string (R13: keys, signatures, digests). -/
def beVal (b : Bytes) : Nat := b.foldl (fun a x => a * 256 + x.toNat) 0

/-- The `n` big-endian bytes of a value. -/
def beBytes (n v : Nat) : Bytes := (leBytes n v).reverse

/-- `n` bytes of a string from an offset. -/
def slice (b : Bytes) (off n : Nat) : Bytes := (b.drop off).take n

/-- The little-endian field of `n` bytes at an offset. -/
def field (b : Bytes) (off n : Nat) : Nat := leVal (slice b off n)

/-- Bit `i` of a number. -/
def bit (v i : Nat) : Bool := v / 2 ^ i % 2 = 1

/-- Bits `hi` down to `lo` of a number. -/
def bitsOf (v hi lo : Nat) : Nat := v / 2 ^ lo % 2 ^ (hi + 1 - lo)

/-- The mask of one bit. -/
def mask (i : Nat) : Nat := 2 ^ i

/-- Sets a bit. -/
def setBit (v i : Nat) : Nat := v ||| 2 ^ i

/-- Clears a bit. -/
def clearBit (v i : Nat) : Nat := if bit v i then v - 2 ^ i else v

/-- The bit numbers below `n` set in a mask, rising. -/
def bitList (v n : Nat) : List Nat := (List.range n).filter (bit v)

/-- How many bits below `n` are set. -/
def popCount (v n : Nat) : Nat := (bitList v n).length

/-- The value of a `w`-bit code as a signed number. -/
def signed (w v : Nat) : Int :=
  let u := v % 2 ^ w
  if u < 2 ^ (w - 1) then u else (u : Int) - 2 ^ w

/-- The `w`-bit code of a signed number. -/
def unsigned (w : Nat) (v : Int) : Nat := (v % 2 ^ w).toNat

/-- The smallest integer at or above `a / b`. -/
def ceilDiv (a b : Nat) : Nat := (a + b - 1) / b

/-- One bit of the reflected CRC-32C division (R119). -/
def crcBit (c : BitVec 32) : BitVec 32 :=
  if c.getLsbD 0 then (c >>> 1) ^^^ 0x82F63B78#32 else c >>> 1

/-- Eight bits of the reflected CRC-32C division. -/
def crcByte (c : BitVec 32) (b : Byte) : BitVec 32 :=
  (List.range 8).foldl (fun c _ => crcBit c) (c ^^^ b.setWidth 32)

/-- CRC-32C of a byte string (R119). -/
def crc32c (b : Bytes) : Nat := ((b.foldl crcByte 0xFFFFFFFF#32) ^^^ 0xFFFFFFFF#32).toNat

/-- One step of the 64-bit signature register (R371): a shift towards the higher bits with the polynomial
x^64 + x^4 + x^3 + x + 1 fed back, and the beat's word XORed in (DEDUCED, notes/assumptions/9.md). -/
def misr (sig word : BitVec 64) : BitVec 64 :=
  (if sig.getLsbD 63 then (sig <<< 1) ^^^ 0x1B#64 else sig <<< 1) ^^^ word

end Sys2Proof.Machine
end

