-- ==== Sys2Proof/Machine/Registry.lean ====
section
/-! DEFINITION. The dictionary's entries, from the chapters' entry tables (R17, R471): index range, subindex
range, type, access of classes A, S and M, default, apply point; and the fault sources of R419. -/

namespace Sys2Proof.Machine

open Sys2Proof

/-- The types of R455; `str` and `dom` carry the entry's maximum length. -/
inductive Ty where
  | u8 | u16 | u32 | u64 | i8 | i16 | i32 | i64 | bool | f32 | str (max : Nat) | dom (max : Nat)
  deriving DecidableEq, Repr

/-- Whether a type is VISIBLE_STRING. -/
def Ty.isText : Ty → Bool
  | .str _ => true
  | _ => false

/-- The access codes of R456. -/
inductive Acc where
  | rw | r | w | no
  deriving DecidableEq, Repr

/-- The apply points of R18; `live` for an entry with none. -/
inductive Apply where
  | live | write | frameStart | frameTick | activation | timeCommit | reset | coldBoot
  deriving DecidableEq, Repr

/-- One row of an entry table. -/
structure DictRow where
  lo : Nat
  hi : Nat
  slo : Nat
  shi : Nat
  ty : Ty
  a : Acc
  s : Acc
  m : Acc
  dflt : Nat
  app : Apply
  deriving DecidableEq, Repr

/-- Entries of indices 0x1000 to 0x17FF. -/
def dictRows1000 : List DictRow := [
  ⟨0x1000, 0x1000, 0x00, 0x00, .u8, .r, .r, .r, 5, .live⟩,  -- highest subindex
  ⟨0x1000, 0x1000, 0x01, 0x01, .str 6, .r, .r, .r, 0, .live⟩,  -- VENDOR
  ⟨0x1000, 0x1000, 0x02, 0x02, .str 10, .r, .r, .r, 0, .live⟩,  -- ORDERING_CODE
  ⟨0x1000, 0x1000, 0x03, 0x03, .u64, .r, .r, .r, 0, .live⟩,  -- SERIAL
  ⟨0x1000, 0x1000, 0x04, 0x04, .u16, .r, .r, .r, 0, .live⟩,  -- DIE_STEP
  ⟨0x1000, 0x1000, 0x05, 0x05, .u16, .r, .r, .r, 1, .live⟩,  -- DICT_VERSION
  ⟨0x1010, 0x1010, 0x00, 0x00, .u8, .r, .r, .r, 3, .live⟩,  -- highest subindex
  ⟨0x1010, 0x1010, 0x01, 0x01, .u16, .rw, .no, .rw, 1, .reset⟩,  -- NODE_ID
  ⟨0x1010, 0x1010, 0x02, 0x02, .u16, .rw, .no, .rw, 0x4367, .reset⟩,  -- UDP_PORT
  ⟨0x1010, 0x1010, 0x03, 0x03, .u8, .rw, .no, .rw, 0xf, .reset⟩,  -- CAN_DIALE
  ⟨0x1011, 0x1011, 0x00, 0x00, .u8, .r, .r, .r, 8, .live⟩,  -- highest subindex
  ⟨0x1011, 0x1011, 0x01, 0x01, .u8, .r, .r, .r, 0, .live⟩,  -- PORT_CLASS
  ⟨0x1011, 0x1011, 0x02, 0x02, .u8, .r, .r, .r, 1, .live⟩,  -- PORT_CLASS
  ⟨0x1011, 0x1011, 0x03, 0x03, .u8, .r, .r, .r, 2, .live⟩,  -- PORT_CLASS
  ⟨0x1011, 0x1011, 0x04, 0x04, .u8, .r, .r, .r, 0, .live⟩,  -- PORT_CLASS
  ⟨0x1011, 0x1011, 0x05, 0x05, .u8, .r, .r, .r, 1, .live⟩,  -- PORT_CLASS
  ⟨0x1011, 0x1011, 0x06, 0x06, .u8, .r, .r, .r, 1, .live⟩,  -- PORT_CLASS
  ⟨0x1011, 0x1011, 0x07, 0x07, .u8, .r, .r, .r, 1, .live⟩,  -- PORT_CLASS
  ⟨0x1011, 0x1011, 0x08, 0x08, .bool, .r, .r, .r, 0, .live⟩,  -- DEPOT_EN
  ⟨0x1020, 0x1020, 0x00, 0x00, .u8, .r, .r, .r, 0xa, .live⟩,  -- highest subindex
  ⟨0x1020, 0x1020, 0x01, 0x03, .u32, .r, .r, .r, 0, .live⟩,  -- REQUESTS class A, S, M
  ⟨0x1020, 0x1020, 0x04, 0x06, .u32, .r, .r, .r, 0, .live⟩,  -- ABORTS class A, S, M
  ⟨0x1020, 0x1020, 0x07, 0x07, .u32, .r, .r, .r, 0, .live⟩,  -- DISCARDED
  ⟨0x1020, 0x1020, 0x08, 0x08, .u32, .r, .r, .r, 0, .live⟩,  -- M_DISCARDED
  ⟨0x1020, 0x1020, 0x09, 0x09, .u32, .r, .r, .r, 0, .live⟩,  -- TIMEOUTS
  ⟨0x1020, 0x1020, 0x0A, 0x0A, .u32, .r, .r, .r, 0, .live⟩,  -- BROADCAST_DROP
  ⟨0x1030, 0x1030, 0x00, 0x00, .u8, .r, .r, .r, 1, .live⟩,  -- highest subindex
  ⟨0x1030, 0x1030, 0x01, 0x01, .u16, .w, .no, .w, 0, .write⟩,  -- RESET_CMD
  ⟨0x1040, 0x1040, 0x00, 0x00, .u8, .r, .r, .r, 0xb, .live⟩,  -- highest subindex
  ⟨0x1040, 0x1040, 0x01, 0x0B, .dom 8192, .r, .r, .r, 0, .live⟩]  -- OWNERS kind k

/-- Entries of indices 0x2000 to 0x27FF, part 0. -/
def dictRows2000_0 : List DictRow := [
  ⟨0x2000, 0x2000, 0x00, 0x00, .u8, .r, .r, .r, 1, .live⟩,  -- highest subindex
  ⟨0x2000, 0x2000, 0x01, 0x01, .u32, .r, .r, .r, 0, .live⟩,  -- PIXEL_RATE_SUM
  ⟨0x2100, 0x2117, 0x00, 0x00, .u8, .r, .r, .r, 0xd, .live⟩,  -- highest subindex
  ⟨0x2100, 0x2117, 0x01, 0x01, .bool, .rw, .rw, .rw, 0, .write⟩,  -- ENABLE
  ⟨0x2100, 0x2117, 0x02, 0x02, .u8, .rw, .rw, .rw, 2, .write⟩,  -- GEAR
  ⟨0x2100, 0x2117, 0x03, 0x03, .u8, .rw, .rw, .rw, 0, .frameStart⟩,  -- VC
  ⟨0x2100, 0x2117, 0x04, 0x04, .u8, .rw, .rw, .rw, 0x2c, .frameStart⟩,  -- DATA_TYPE
  ⟨0x2100, 0x2117, 0x05, 0x05, .u16, .rw, .rw, .rw, 0xf00, .frameStart⟩,  -- WIDTH
  ⟨0x2100, 0x2117, 0x06, 0x06, .u16, .rw, .rw, .rw, 0x870, .frameStart⟩,  -- LINES
  ⟨0x2100, 0x2117, 0x07, 0x07, .u8, .rw, .rw, .rw, 0, .frameStart⟩,  -- EMB_LINES
  ⟨0x2100, 0x2117, 0x08, 0x08, .u32, .rw, .rw, .rw, 0x8235, .frameStart⟩,  -- FRAME_PERIOD
  ⟨0x2100, 0x2117, 0x09, 0x09, .u32, .rw, .rw, .rw, 0, .frameStart⟩,  -- SOF_DELAY
  ⟨0x2100, 0x2117, 0x0A, 0x0A, .u32, .rw, .rw, .rw, 0, .frameStart⟩,  -- SOF_TOL
  ⟨0x2100, 0x2117, 0x0B, 0x0B, .u16, .rw, .rw, .rw, 0x3e8, .frameStart⟩,  -- LINE_TIMEOUT
  ⟨0x2100, 0x2117, 0x0C, 0x0C, .u16, .rw, .rw, .rw, 0, .frameStart⟩,  -- FC_OFFSET
  ⟨0x2100, 0x2117, 0x0D, 0x0D, .u8, .rw, .rw, .rw, 0, .frameStart⟩,  -- FC_BYTES
  ⟨0x2200, 0x2217, 0x00, 0x00, .u8, .r, .r, .r, 0x11, .live⟩,  -- highest subindex
  ⟨0x2200, 0x2217, 0x01, 0x01, .u8, .r, .r, .r, 0, .live⟩,  -- LINK_STATE
  ⟨0x2200, 0x2217, 0x02, 0x02, .u32, .r, .r, .r, 0, .live⟩,  -- FRAMES
  ⟨0x2200, 0x2217, 0x03, 0x06, .u32, .r, .r, .r, 0, .live⟩,  -- SHORT, LONG, LATE, LINK_ERR
  ⟨0x2200, 0x2217, 0x07, 0x09, .u32, .r, .r, .r, 0, .live⟩,  -- HDR_CORR, HDR_UNCORR, CRC_ERR
  ⟨0x2200, 0x2217, 0x0A, 0x0A, .u32, .r, .r, .r, 0, .live⟩,  -- LINES_DROPPED
  ⟨0x2200, 0x2217, 0x0B, 0x0B, .u32, .r, .r, .r, 0, .live⟩,  -- LINES_LOST
  ⟨0x2200, 0x2217, 0x0C, 0x0C, .u32, .r, .r, .r, 0, .live⟩,  -- WIDTH_ERR
  ⟨0x2200, 0x2217, 0x0D, 0x0D, .u32, .r, .r, .r, 0, .live⟩,  -- RATE_DROP
  ⟨0x2200, 0x2217, 0x0E, 0x0E, .u32, .r, .r, .r, 0, .live⟩,  -- OTHER_DROP
  ⟨0x2200, 0x2217, 0x0F, 0x0F, .u32, .r, .r, .r, 0, .live⟩,  -- RETX
  ⟨0x2200, 0x2217, 0x10, 0x10, .u32, .r, .r, .r, 0, .live⟩,  -- LINK_LOSS
  ⟨0x2200, 0x2217, 0x11, 0x11, .u32, .r, .r, .r, 0, .live⟩,  -- BUF_DROP
  ⟨0x2300, 0x2317, 0x00, 0x00, .u8, .r, .r, .r, 4, .live⟩,  -- highest subindex
  ⟨0x2300, 0x2317, 0x01, 0x01, .u8, .rw, .rw, .rw, 1, .write⟩,  -- I2C_SPEED
  ⟨0x2300, 0x2317, 0x02, 0x02, .dom 38, .w, .w, .w, 0, .write⟩,  -- I2C_REQ
  ⟨0x2300, 0x2317, 0x03, 0x03, .dom 34, .r, .r, .r, 0, .live⟩,  -- I2C_RESP
  ⟨0x2300, 0x2317, 0x04, 0x04, .u32, .r, .r, .r, 0, .live⟩,  -- FSYNC_LATENCY
  ⟨0x2500, 0x250F, 0x00, 0x00, .u8, .r, .r, .r, 7, .live⟩,  -- highest subindex
  ⟨0x2500, 0x250F, 0x01, 0x01, .bool, .rw, .rw, .rw, 0, .write⟩,  -- PCL_ENABLE
  ⟨0x2500, 0x250F, 0x02, 0x02, .u8, .rw, .rw, .rw, 1, .write⟩,  -- PCL_PORT
  ⟨0x2500, 0x250F, 0x03, 0x03, .u16, .rw, .rw, .rw, 0, .write⟩,  -- PCL_UDP
  ⟨0x2500, 0x250F, 0x04, 0x04, .u32, .rw, .rw, .rw, 0x20000, .frameStart⟩,  -- MAX_POINTS
  ⟨0x2500, 0x250F, 0x05, 0x05, .u32, .rw, .rw, .rw, 0x186a0, .frameStart⟩]  -- SCAN_PERIOD

/-- Entries of indices 0x2000 to 0x27FF, part 1. -/
def dictRows2000_1 : List DictRow := [
  ⟨0x2500, 0x250F, 0x06, 0x06, .u32, .rw, .rw, .rw, 0, .frameStart⟩,  -- SCAN_TOL
  ⟨0x2500, 0x250F, 0x07, 0x07, .u32, .rw, .rw, .rw, 0x2710, .frameStart⟩,  -- SCAN_TIMEOUT
  ⟨0x2600, 0x260F, 0x00, 0x00, .u8, .r, .r, .r, 7, .live⟩,  -- highest subindex
  ⟨0x2600, 0x260F, 0x01, 0x01, .u32, .r, .r, .r, 0, .live⟩,  -- SCANS
  ⟨0x2600, 0x260F, 0x02, 0x06, .u32, .r, .r, .r, 0, .live⟩,  -- PKT_BAD, PKT_CHECK_ERR, PKT_STALE, PKT_LOST, POINTS_DROPPED
  ⟨0x2600, 0x260F, 0x07, 0x07, .u32, .r, .r, .r, 0, .live⟩]  -- SCAN_LATE

def dictRows2000 : List DictRow := dictRows2000_0 ++ dictRows2000_1

/-- Entries of indices 0x2800 to 0x2FFF. -/
def dictRows2800 : List DictRow := [
  ⟨0x2800, 0x2823, 0x00, 0x00, .u8, .r, .r, .r, 0x11, .live⟩,  -- highest subindex
  ⟨0x2800, 0x2823, 0x01, 0x01, .u8, .rw, .rw, .rw, 0xff, .write⟩,  -- PORT
  ⟨0x2800, 0x2823, 0x02, 0x02, .u8, .rw, .rw, .rw, 0, .frameStart⟩,  -- CFA
  ⟨0x2800, 0x2823, 0x03, 0x03, .u16, .rw, .rw, .rw, 0x1ff, .frameStart⟩,  -- STAGE_EN
  ⟨0x2800, 0x2823, 0x04, 0x04, .u64, .rw, .rw, .rw, 0, .frameStart⟩,  -- BLACK_LEVEL
  ⟨0x2800, 0x2823, 0x05, 0x05, .u16, .rw, .rw, .rw, 0x1000, .frameStart⟩,  -- DPC_THRESH
  ⟨0x2800, 0x2823, 0x06, 0x06, .dom 4294967295, .rw, .rw, .rw, 0, .frameStart⟩,  -- DPC_LIST
  ⟨0x2800, 0x2823, 0x07, 0x07, .dom 8712, .rw, .rw, .rw, 0, .frameStart⟩,  -- LSC_GRID
  ⟨0x2800, 0x2823, 0x08, 0x08, .u64, .rw, .rw, .rw, 0x1000100010001000, .frameStart⟩,  -- WB_GAIN
  ⟨0x2800, 0x2823, 0x09, 0x09, .u16, .rw, .rw, .rw, 0x100, .frameStart⟩,  -- EDGE_THRESH
  ⟨0x2800, 0x2823, 0x0A, 0x0A, .dom 24, .rw, .rw, .rw, 0, .frameStart⟩,  -- CCM
  ⟨0x2800, 0x2823, 0x0B, 0x0B, .dom 514, .rw, .rw, .rw, 0, .frameStart⟩,  -- TONE_LUT
  ⟨0x2800, 0x2823, 0x0C, 0x0C, .dom 24, .rw, .rw, .rw, 0, .frameStart⟩,  -- CSC
  ⟨0x2800, 0x2823, 0x0D, 0x0D, .u8, .rw, .rw, .rw, 1, .frameStart⟩,  -- OUT_MODE
  ⟨0x2800, 0x2823, 0x0E, 0x0E, .u8, .rw, .rw, .rw, 2, .frameStart⟩,  -- OUT_FORMAT
  ⟨0x2800, 0x2823, 0x0F, 0x0F, .u8, .rw, .rw, .rw, 0x10, .frameStart⟩,  -- GROUP
  ⟨0x2800, 0x2823, 0x10, 0x10, .bool, .rw, .rw, .rw, 0, .write⟩,  -- PARAM_HOLD
  ⟨0x2800, 0x2823, 0x11, 0x11, .bool, .rw, .rw, .rw, 1, .frameStart⟩,  -- STATS_EN
  ⟨0x2A00, 0x2A23, 0x00, 0x00, .u8, .r, .r, .r, 1, .live⟩,  -- highest subindex
  ⟨0x2A00, 0x2A23, 0x01, 0x01, .dom 10304, .r, .r, .r, 0, .live⟩,  -- STATS
  ⟨0x2B00, 0x2B23, 0x00, 0x00, .u8, .r, .r, .r, 4, .live⟩,  -- highest subindex
  ⟨0x2B00, 0x2B23, 0x01, 0x01, .u32, .r, .r, .r, 0, .live⟩,  -- FRAMES_DONE
  ⟨0x2B00, 0x2B23, 0x02, 0x02, .u32, .r, .r, .r, 0, .live⟩,  -- OUT_DROP
  ⟨0x2B00, 0x2B23, 0x03, 0x03, .u32, .r, .r, .r, 0, .live⟩,  -- OVERRUN
  ⟨0x2B00, 0x2B23, 0x04, 0x04, .u32, .r, .r, .r, 0, .live⟩,  -- DPC_DYNAMIC
  ⟨0x2C00, 0x2C03, 0x00, 0x00, .u8, .r, .r, .r, 3, .live⟩,  -- highest subindex
  ⟨0x2C00, 0x2C03, 0x01, 0x01, .u32, .r, .r, .r, 0, .live⟩,  -- PIPE_RATE
  ⟨0x2C00, 0x2C03, 0x02, 0x02, .u8, .r, .r, .r, 0, .live⟩,  -- MEM_WAITING
  ⟨0x2C00, 0x2C03, 0x03, 0x03, .u32, .r, .r, .r, 0, .live⟩]  -- GOLDEN_DONE

/-- Entries of indices 0x3000 to 0x37FF. -/
def dictRows3000 : List DictRow := [
  ⟨0x3010, 0x3010, 0x00, 0x00, .u8, .r, .r, .no, 0x40, .live⟩,  -- PACKAGE count
  ⟨0x3010, 0x3010, 0x01, 0x40, .dom 2147483648, .rw, .rw, .no, 0, .write⟩,  -- PACKAGE graph g
  ⟨0x3011, 0x3011, 0x00, 0x00, .u8, .r, .r, .no, 0x40, .live⟩,  -- LOAD_STATUS count
  ⟨0x3011, 0x3011, 0x01, 0x40, .u16, .r, .r, .no, 0, .live⟩,  -- LOAD_STATUS graph g
  ⟨0x3012, 0x3012, 0x00, 0x00, .u8, .r, .r, .r, 0x40, .live⟩,  -- GRAPH_STATE count
  ⟨0x3012, 0x3012, 0x01, 0x40, .u8, .r, .r, .r, 0, .live⟩,  -- GRAPH_STATE graph g
  ⟨0x3013, 0x3013, 0x00, 0x00, .u8, .r, .no, .no, 0x40, .live⟩,  -- GRAPH_CMD count
  ⟨0x3013, 0x3013, 0x01, 0x40, .u8, .w, .no, .no, 0, .write⟩,  -- GRAPH_CMD graph g
  ⟨0x3014, 0x3014, 0x00, 0x00, .u8, .r, .r, .r, 0x40, .live⟩,  -- PKG_ID count
  ⟨0x3014, 0x3014, 0x01, 0x40, .u32, .r, .r, .r, 0, .live⟩,  -- PKG_ID graph g
  ⟨0x3015, 0x3015, 0x00, 0x00, .u8, .r, .r, .r, 0x40, .live⟩,  -- FRAME_NO count
  ⟨0x3015, 0x3015, 0x01, 0x40, .u32, .r, .r, .r, 0, .live⟩,  -- FRAME_NO graph g
  ⟨0x3016, 0x3016, 0x00, 0x00, .u8, .r, .r, .r, 0x40, .live⟩,  -- TICK_SKIP count
  ⟨0x3016, 0x3016, 0x01, 0x40, .u32, .r, .r, .r, 0, .live⟩,  -- TICK_SKIP graph g
  ⟨0x3017, 0x3017, 0x00, 0x00, .u8, .r, .r, .r, 0x40, .live⟩,  -- TILES_SKIPPED count
  ⟨0x3017, 0x3017, 0x01, 0x40, .u64, .r, .r, .r, 0, .live⟩,  -- TILES_SKIPPED graph g
  ⟨0x3018, 0x3018, 0x00, 0x00, .u8, .r, .r, .r, 4, .live⟩,  -- QUEUE_SLOTS count
  ⟨0x3018, 0x3018, 0x01, 0x04, .u16, .r, .r, .r, 0, .live⟩,  -- QUEUE_SLOTS region n
  ⟨0x3080, 0x3080, 0x00, 0x00, .u8, .r, .r, .r, 0x20, .live⟩,  -- REPAIR_MAP count
  ⟨0x3080, 0x3080, 0x01, 0x20, .u8, .r, .r, .r, 0, .reset⟩,  -- REPAIR_MAP block n
  ⟨0x3081, 0x3081, 0x00, 0x00, .u8, .r, .r, .r, 0x20, .live⟩,  -- BLOCK_MODE count
  ⟨0x3081, 0x3081, 0x01, 0x20, .u8, .r, .r, .r, 0, .live⟩,  -- BLOCK_MODE block n
  ⟨0x3400, 0x343F, 0x00, 0x00, .u8, .r, .r, .r, 0, .live⟩,  -- HOST_PARAM count, graph g
  ⟨0x3400, 0x343F, 0x01, 0xFE, .u32, .rw, .rw, .no, 0, .frameTick⟩]  -- HOST_PARAM graph g, parameter p

/-- Entries of indices 0x4000 to 0x47FF, part 0. -/
def dictRows4000_0 : List DictRow := [
  ⟨0x4000, 0x4000, 0x00, 0x00, .u8, .r, .r, .r, 0x20, .live⟩,  -- SEG_OWNED count
  ⟨0x4000, 0x4000, 0x01, 0x20, .u64, .r, .r, .r, 0x8000000000000000, .live⟩,  -- SEG_OWNED block n
  ⟨0x4001, 0x4001, 0x00, 0x00, .u8, .r, .r, .r, 0x20, .live⟩,  -- BANK_POWER count
  ⟨0x4001, 0x4001, 0x01, 0x20, .u32, .r, .r, .r, 0x40000000, .live⟩,  -- BANK_POWER block n
  ⟨0x4002, 0x4002, 0x00, 0x00, .u8, .r, .r, .r, 0x20, .live⟩,  -- RETAINED count
  ⟨0x4002, 0x4002, 0x01, 0x20, .u64, .r, .r, .r, 0, .live⟩,  -- RETAINED block n
  ⟨0x4003, 0x4003, 0x00, 0x00, .u8, .r, .r, .r, 0x20, .live⟩,  -- WINDOW_DROPS count
  ⟨0x4003, 0x4003, 0x01, 0x20, .u32, .r, .r, .r, 0, .live⟩,  -- WINDOW_DROPS block n
  ⟨0x4004, 0x4004, 0x00, 0x00, .u8, .r, .r, .r, 0x40, .live⟩,  -- RETAIN_RECOPY count
  ⟨0x4004, 0x4004, 0x01, 0x40, .u32, .r, .r, .r, 0, .live⟩,  -- RETAIN_RECOPY graph g
  ⟨0x4008, 0x4008, 0x00, 0x00, .u8, .r, .r, .r, 4, .live⟩,  -- RC_HITS count
  ⟨0x4008, 0x4008, 0x01, 0x04, .u64, .r, .r, .r, 0, .live⟩,  -- RC_HITS region n
  ⟨0x4009, 0x4009, 0x00, 0x00, .u8, .r, .r, .r, 4, .live⟩,  -- RC_MISSES count
  ⟨0x4009, 0x4009, 0x01, 0x04, .u64, .r, .r, .r, 0, .live⟩,  -- RC_MISSES region n
  ⟨0x400A, 0x400A, 0x00, 0x00, .u8, .r, .r, .r, 4, .live⟩,  -- RC_WRITEBACKS count
  ⟨0x400A, 0x400A, 0x01, 0x04, .u64, .r, .r, .r, 0, .live⟩,  -- RC_WRITEBACKS region n
  ⟨0x400B, 0x400B, 0x00, 0x00, .u8, .r, .r, .r, 4, .live⟩,  -- RC_UNCACHED count
  ⟨0x400B, 0x400B, 0x01, 0x04, .u64, .r, .r, .r, 0, .live⟩,  -- RC_UNCACHED region n
  ⟨0x4010, 0x4010, 0x00, 0x00, .u8, .r, .r, .r, 3, .live⟩,  -- DRAM_CONFIG count
  ⟨0x4010, 0x4010, 0x01, 0x01, .u16, .r, .r, .r, 0x200, .coldBoot⟩,  -- DRAM_CONFIG capacity
  ⟨0x4010, 0x4010, 0x02, 0x02, .u8, .r, .r, .r, 0x20, .live⟩,  -- DRAM_CONFIG channels
  ⟨0x4010, 0x4010, 0x03, 0x03, .u16, .r, .r, .r, 0x3200, .live⟩,  -- DRAM_CONFIG rate
  ⟨0x4011, 0x4011, 0x00, 0x00, .u8, .r, .r, .r, 0x20, .live⟩,  -- DRAM_CORR count
  ⟨0x4011, 0x4011, 0x01, 0x20, .u32, .r, .r, .r, 0, .live⟩,  -- DRAM_CORR channel n
  ⟨0x4012, 0x4012, 0x00, 0x00, .u8, .r, .r, .r, 0x20, .live⟩,  -- DRAM_UNCORR count
  ⟨0x4012, 0x4012, 0x01, 0x20, .u32, .r, .r, .r, 0, .live⟩,  -- DRAM_UNCORR channel n
  ⟨0x4013, 0x4013, 0x00, 0x00, .u8, .r, .r, .r, 0x40, .live⟩,  -- DRAM_READ count
  ⟨0x4013, 0x4013, 0x01, 0x40, .u64, .r, .r, .r, 0, .live⟩,  -- DRAM_READ graph g
  ⟨0x4014, 0x4014, 0x00, 0x00, .u8, .r, .r, .r, 0x40, .live⟩,  -- DRAM_WRITE count
  ⟨0x4014, 0x4014, 0x01, 0x40, .u64, .r, .r, .r, 0, .live⟩,  -- DRAM_WRITE graph g
  ⟨0x4015, 0x4015, 0x00, 0x00, .u8, .r, .r, .r, 5, .live⟩,  -- DRAM_CLASS count
  ⟨0x4015, 0x4015, 0x01, 0x05, .u64, .r, .r, .r, 0, .live⟩,  -- DRAM_CLASS class n
  ⟨0x4020, 0x4020, 0x00, 0x00, .u8, .r, .r, .r, 3, .live⟩,  -- RING_CONFIG count
  ⟨0x4020, 0x4020, 0x01, 0x01, .u16, .rw, .r, .rw, 0, .coldBoot⟩,  -- RING_SIZE
  ⟨0x4020, 0x4020, 0x02, 0x02, .u32, .rw, .r, .rw, 0xffffff, .frameStart⟩,  -- RING_PORTS
  ⟨0x4020, 0x4020, 0x03, 0x03, .bool, .rw, .r, .rw, 1, .write⟩,  -- RING_AUTOFREEZE
  ⟨0x4021, 0x4021, 0x00, 0x00, .u8, .r, .r, .r, 7, .live⟩,  -- RING_STATUS count
  ⟨0x4021, 0x4021, 0x01, 0x01, .u8, .r, .r, .r, 3, .live⟩,  -- RING_STATE
  ⟨0x4021, 0x4021, 0x02, 0x02, .u64, .r, .r, .r, 0, .live⟩,  -- RING_OLDEST
  ⟨0x4021, 0x4021, 0x03, 0x03, .u64, .r, .r, .r, 0, .live⟩]  -- RING_NEWEST

/-- Entries of indices 0x4000 to 0x47FF, part 1. -/
def dictRows4000_1 : List DictRow := [
  ⟨0x4021, 0x4021, 0x04, 0x04, .u64, .r, .r, .r, 0, .live⟩,  -- RING_OLDEST_SEQ
  ⟨0x4021, 0x4021, 0x05, 0x05, .u64, .r, .r, .r, 0, .live⟩,  -- RING_NEWEST_SEQ
  ⟨0x4021, 0x4021, 0x06, 0x06, .u64, .r, .r, .r, 0, .live⟩,  -- RING_FREEZE_TIME
  ⟨0x4021, 0x4021, 0x07, 0x07, .u32, .r, .r, .r, 0, .live⟩,  -- RING_UNRECORDED
  ⟨0x4022, 0x4022, 0x00, 0x00, .u8, .r, .no, .r, 1, .live⟩,  -- RING_CMD count
  ⟨0x4022, 0x4022, 0x01, 0x01, .u8, .w, .no, .w, 0, .write⟩,  -- RING_CMD
  ⟨0x4023, 0x4023, 0x00, 0x00, .u8, .r, .r, .r, 1, .live⟩,  -- RING_CURSOR count
  ⟨0x4023, 0x4023, 0x01, 0x01, .u64, .r, .rw, .rw, 0, .write⟩,  -- RING_CURSOR
  ⟨0x4024, 0x4024, 0x00, 0x00, .u8, .no, .r, .r, 1, .live⟩,  -- RING_DATA count
  ⟨0x4024, 0x4024, 0x01, 0x01, .dom 65536, .no, .r, .r, 0, .live⟩]  -- RING_DATA

def dictRows4000 : List DictRow := dictRows4000_0 ++ dictRows4000_1

/-- Entries of indices 0x4800 to 0x4FFF. -/
def dictRows4800 : List DictRow := [
  ⟨0x4800, 0x4803, 0x00, 0x00, .u8, .r, .r, .r, 0x14, .live⟩,  -- highest subindex
  ⟨0x4800, 0x4803, 0x01, 0x01, .bool, .rw, .rw, .rw, 0, .write⟩,  -- ENABLE
  ⟨0x4800, 0x4803, 0x02, 0x02, .u8, .rw, .rw, .rw, 5, .write⟩,  -- GEAR
  ⟨0x4800, 0x4803, 0x03, 0x03, .u16, .rw, .rw, .rw, 0x780, .write⟩,  -- H_ACTIVE
  ⟨0x4800, 0x4803, 0x04, 0x04, .u16, .rw, .rw, .rw, 0x438, .write⟩,  -- V_ACTIVE
  ⟨0x4800, 0x4803, 0x05, 0x05, .u16, .rw, .rw, .rw, 0x898, .write⟩,  -- H_TOTAL
  ⟨0x4800, 0x4803, 0x06, 0x06, .u16, .rw, .rw, .rw, 0x465, .write⟩,  -- V_TOTAL
  ⟨0x4800, 0x4803, 0x07, 0x07, .u16, .rw, .rw, .rw, 0x29, .write⟩,  -- V_START
  ⟨0x4800, 0x4803, 0x08, 0x08, .u32, .rw, .rw, .rw, 0x24414, .write⟩,  -- PIXEL_CLK
  ⟨0x4800, 0x4803, 0x09, 0x09, .u32, .rw, .rw, .rw, 0, .write⟩,  -- BACKGROUND
  ⟨0x4800, 0x4803, 0x0A, 0x0A, .bool, .rw, .r, .rw, 1, .write⟩,  -- MARKER_EN
  ⟨0x4800, 0x4803, 0x0B, 0x0B, .u32, .rw, .r, .rw, 0, .write⟩,  -- MARKER_POS
  ⟨0x4800, 0x4803, 0x0C, 0x0C, .u8, .rw, .r, .rw, 3, .write⟩,  -- FREEZE_N
  ⟨0x4800, 0x4803, 0x0D, 0x0D, .u8, .r, .r, .r, 0, .live⟩,  -- LINK_STATE
  ⟨0x4800, 0x4803, 0x0E, 0x0E, .u32, .r, .r, .r, 0, .live⟩,  -- OUT_SIGNATURE
  ⟨0x4800, 0x4803, 0x0F, 0x14, .u32, .r, .r, .r, 0, .live⟩,  -- FRAMES, VSYNC_MISSED, UNDERRUN, LAG_ROWS, FREEZES, LINK_LOSSES
  ⟨0x4810, 0x481F, 0x00, 0x00, .u8, .r, .r, .r, 8, .live⟩,  -- highest subindex
  ⟨0x4810, 0x481F, 0x01, 0x01, .bool, .rw, .rw, .rw, 0, .write⟩,  -- ENABLE
  ⟨0x4810, 0x481F, 0x02, 0x02, .u8, .rw, .rw, .rw, 0xff, .write⟩,  -- SOURCE
  ⟨0x4810, 0x481F, 0x03, 0x03, .u64, .rw, .rw, .rw, 0, .write⟩,  -- SRC_RECT
  ⟨0x4810, 0x481F, 0x04, 0x04, .u32, .rw, .rw, .rw, 0, .write⟩,  -- DST_POS
  ⟨0x4810, 0x481F, 0x05, 0x05, .u8, .rw, .rw, .rw, 0, .write⟩,  -- MODE
  ⟨0x4810, 0x481F, 0x06, 0x06, .u8, .rw, .rw, .rw, 0xff, .write⟩,  -- ALPHA
  ⟨0x4810, 0x481F, 0x07, 0x07, .u32, .rw, .rw, .rw, 0, .write⟩,  -- FILL
  ⟨0x4810, 0x481F, 0x08, 0x08, .u32, .r, .r, .r, 0, .live⟩,  -- STALE_FRAMES
  ⟨0x4840, 0x4840, 0x00, 0x00, .u8, .r, .r, .r, 3, .live⟩,  -- highest subindex
  ⟨0x4840, 0x4840, 0x01, 0x01, .dom 2048, .rw, .r, .rw, 0, .write⟩,  -- MARKER_BITMAP
  ⟨0x4840, 0x4840, 0x02, 0x02, .u32, .rw, .r, .rw, 0xffffff, .write⟩,  -- MARKER_FG
  ⟨0x4840, 0x4840, 0x03, 0x03, .u32, .rw, .r, .rw, 0xc00000, .write⟩]  -- MARKER_BG

/-- Entries of indices 0x5000 to 0x57FF, part 0. -/
def dictRows5000_0 : List DictRow := [
  ⟨0x5000, 0x5000, 0x00, 0x00, .u8, .r, .r, .r, 5, .live⟩,  -- highest subindex
  ⟨0x5000, 0x5000, 0x01, 0x01, .u8, .r, .r, .r, 0, .live⟩,  -- FIRST_SOURCE
  ⟨0x5000, 0x5000, 0x02, 0x02, .bool, .r, .r, .r, 0, .live⟩,  -- OVERFLOW
  ⟨0x5000, 0x5000, 0x03, 0x03, .u8, .w, .no, .no, 0, .write⟩,  -- LATCH_CLEAR
  ⟨0x5000, 0x5000, 0x04, 0x04, .bool, .r, .r, .r, 1, .live⟩,  -- ERR_N_LOW
  ⟨0x5000, 0x5000, 0x05, 0x05, .bool, .r, .r, .r, 0, .live⟩,  -- DRAINED
  ⟨0x5001, 0x5001, 0x00, 0x00, .u8, .r, .r, .r, 0x53, .live⟩,  -- highest subindex
  ⟨0x5001, 0x5001, 0x01, 0x01, .u32, .r, .r, .r, 0, .live⟩,  -- FAULT_COUNT CELL_RESIDUE
  ⟨0x5001, 0x5001, 0x02, 0x02, .u32, .r, .r, .r, 0, .live⟩,  -- FAULT_COUNT OPERAND_PARITY
  ⟨0x5001, 0x5001, 0x10, 0x10, .u32, .r, .r, .r, 0, .live⟩,  -- FAULT_COUNT SCRATCH_CORR
  ⟨0x5001, 0x5001, 0x11, 0x11, .u32, .r, .r, .r, 0, .live⟩,  -- FAULT_COUNT SCRATCH_UNCORR
  ⟨0x5001, 0x5001, 0x12, 0x12, .u32, .r, .r, .r, 0, .live⟩,  -- FAULT_COUNT PAIR_MISMATCH
  ⟨0x5001, 0x5001, 0x13, 0x13, .u32, .r, .r, .r, 0, .live⟩,  -- FAULT_COUNT WINDOW_CLOSED
  ⟨0x5001, 0x5001, 0x14, 0x14, .u32, .r, .r, .r, 0, .live⟩,  -- FAULT_COUNT WINDOW_BOUNDS
  ⟨0x5001, 0x5001, 0x15, 0x15, .u32, .r, .r, .r, 0, .live⟩,  -- FAULT_COUNT RETENTION_LOSS
  ⟨0x5001, 0x5001, 0x20, 0x20, .u32, .r, .r, .r, 0, .live⟩,  -- FAULT_COUNT TILE_CHECK
  ⟨0x5001, 0x5001, 0x21, 0x21, .u32, .r, .r, .r, 0, .live⟩,  -- FAULT_COUNT GOOSE_MISMATCH
  ⟨0x5001, 0x5001, 0x22, 0x22, .u32, .r, .r, .r, 0, .live⟩,  -- FAULT_COUNT RC_CORR
  ⟨0x5001, 0x5001, 0x23, 0x23, .u32, .r, .r, .r, 0, .live⟩,  -- FAULT_COUNT RC_UNCORR
  ⟨0x5001, 0x5001, 0x30, 0x30, .u32, .r, .r, .r, 0, .live⟩,  -- FAULT_COUNT DRAM_CORR
  ⟨0x5001, 0x5001, 0x31, 0x31, .u32, .r, .r, .r, 0, .live⟩,  -- FAULT_COUNT DRAM_UNCORR
  ⟨0x5001, 0x5001, 0x32, 0x32, .u32, .r, .r, .r, 0, .live⟩,  -- FAULT_COUNT ONCHIP_CORR
  ⟨0x5001, 0x5001, 0x33, 0x33, .u32, .r, .r, .r, 0, .live⟩,  -- FAULT_COUNT ONCHIP_UNCORR
  ⟨0x5001, 0x5001, 0x34, 0x34, .u32, .r, .r, .r, 0, .live⟩,  -- FAULT_COUNT HANDSHAKE_STALL
  ⟨0x5001, 0x5001, 0x35, 0x35, .u32, .r, .r, .r, 0, .live⟩,  -- FAULT_COUNT BRIDGE_OVERFLOW
  ⟨0x5001, 0x5001, 0x36, 0x36, .u32, .r, .r, .r, 0, .live⟩,  -- FAULT_COUNT CTRL_MISMATCH
  ⟨0x5001, 0x5001, 0x37, 0x37, .u32, .r, .r, .r, 0, .live⟩,  -- FAULT_COUNT SUP_DISSENT
  ⟨0x5001, 0x5001, 0x38, 0x38, .u32, .r, .r, .r, 0, .live⟩,  -- FAULT_COUNT SUP_HANDOVER
  ⟨0x5001, 0x5001, 0x39, 0x39, .u32, .r, .r, .r, 0, .live⟩,  -- FAULT_COUNT VOTER_CHECK
  ⟨0x5001, 0x5001, 0x3A, 0x3A, .u32, .r, .r, .r, 0, .live⟩,  -- FAULT_COUNT TASK_BUDGET
  ⟨0x5001, 0x5001, 0x3B, 0x3B, .u32, .r, .r, .r, 0, .live⟩,  -- FAULT_COUNT TASK_ALIVE
  ⟨0x5001, 0x5001, 0x3C, 0x3C, .u32, .r, .r, .r, 0, .live⟩,  -- FAULT_COUNT IFT_FAIL
  ⟨0x5001, 0x5001, 0x3D, 0x3D, .u32, .r, .r, .r, 0, .live⟩,  -- FAULT_COUNT IFT_OVERDUE
  ⟨0x5001, 0x5001, 0x3E, 0x3E, .u32, .r, .r, .r, 0, .live⟩,  -- FAULT_COUNT DRAIN
  ⟨0x5001, 0x5001, 0x40, 0x40, .u32, .r, .r, .r, 0, .live⟩,  -- FAULT_COUNT APHY_LINK_LOSS
  ⟨0x5001, 0x5001, 0x41, 0x41, .u32, .r, .r, .r, 0, .live⟩,  -- FAULT_COUNT INGEST_RATE
  ⟨0x5001, 0x5001, 0x42, 0x42, .u32, .r, .r, .r, 0, .live⟩,  -- FAULT_COUNT INGEST_DROP
  ⟨0x5001, 0x5001, 0x43, 0x43, .u32, .r, .r, .r, 0, .live⟩,  -- FAULT_COUNT ISP_DROP
  ⟨0x5001, 0x5001, 0x44, 0x44, .u32, .r, .r, .r, 0, .live⟩,  -- FAULT_COUNT ISP_OVERRUN
  ⟨0x5001, 0x5001, 0x45, 0x45, .u32, .r, .r, .r, 0, .live⟩]  -- FAULT_COUNT FREEZE

/-- Entries of indices 0x5000 to 0x57FF, part 1. -/
def dictRows5000_1 : List DictRow := [
  ⟨0x5001, 0x5001, 0x46, 0x46, .u32, .r, .r, .r, 0, .live⟩,  -- FAULT_COUNT GOLDEN_MISMATCH
  ⟨0x5001, 0x5001, 0x47, 0x47, .u32, .r, .r, .r, 0, .live⟩,  -- FAULT_COUNT GOLDEN_FAULT
  ⟨0x5001, 0x5001, 0x48, 0x48, .u32, .r, .r, .r, 0, .live⟩,  -- FAULT_COUNT TIME_REF_LOSS
  ⟨0x5001, 0x5001, 0x50, 0x50, .u32, .r, .r, .r, 0, .live⟩,  -- FAULT_COUNT ETH_LINK_LOSS
  ⟨0x5001, 0x5001, 0x51, 0x51, .u32, .r, .r, .r, 0, .live⟩,  -- FAULT_COUNT CAN_BUS_OFF
  ⟨0x5001, 0x5001, 0x52, 0x52, .u32, .r, .r, .r, 0, .live⟩,  -- FAULT_COUNT DSP_FREEZE
  ⟨0x5001, 0x5001, 0x53, 0x53, .u32, .r, .r, .r, 0, .live⟩,  -- FAULT_COUNT DSP_LINK_LOSS
  ⟨0x5002, 0x5002, 0x00, 0x00, .u8, .r, .r, .r, 0x53, .live⟩,  -- highest subindex
  ⟨0x5002, 0x5002, 0x01, 0x01, .u8, .rw, .r, .r, 1, .write⟩,  -- REACTION CELL_RESIDUE
  ⟨0x5002, 0x5002, 0x02, 0x02, .u8, .rw, .r, .r, 1, .write⟩,  -- REACTION OPERAND_PARITY
  ⟨0x5002, 0x5002, 0x10, 0x10, .u8, .rw, .r, .r, 1, .write⟩,  -- REACTION SCRATCH_CORR
  ⟨0x5002, 0x5002, 0x11, 0x11, .u8, .rw, .r, .r, 1, .write⟩,  -- REACTION SCRATCH_UNCORR
  ⟨0x5002, 0x5002, 0x12, 0x12, .u8, .rw, .r, .r, 1, .write⟩,  -- REACTION PAIR_MISMATCH
  ⟨0x5002, 0x5002, 0x13, 0x13, .u8, .rw, .r, .r, 1, .write⟩,  -- REACTION WINDOW_CLOSED
  ⟨0x5002, 0x5002, 0x14, 0x14, .u8, .rw, .r, .r, 1, .write⟩,  -- REACTION WINDOW_BOUNDS
  ⟨0x5002, 0x5002, 0x15, 0x15, .u8, .rw, .r, .r, 1, .write⟩,  -- REACTION RETENTION_LOSS
  ⟨0x5002, 0x5002, 0x20, 0x20, .u8, .rw, .r, .r, 1, .write⟩,  -- REACTION TILE_CHECK
  ⟨0x5002, 0x5002, 0x21, 0x21, .u8, .rw, .r, .r, 1, .write⟩,  -- REACTION GOOSE_MISMATCH
  ⟨0x5002, 0x5002, 0x22, 0x22, .u8, .rw, .r, .r, 1, .write⟩,  -- REACTION RC_CORR
  ⟨0x5002, 0x5002, 0x23, 0x23, .u8, .rw, .r, .r, 1, .write⟩,  -- REACTION RC_UNCORR
  ⟨0x5002, 0x5002, 0x30, 0x30, .u8, .rw, .r, .r, 1, .write⟩,  -- REACTION DRAM_CORR
  ⟨0x5002, 0x5002, 0x31, 0x31, .u8, .rw, .r, .r, 1, .write⟩,  -- REACTION DRAM_UNCORR
  ⟨0x5002, 0x5002, 0x32, 0x32, .u8, .rw, .r, .r, 1, .write⟩,  -- REACTION ONCHIP_CORR
  ⟨0x5002, 0x5002, 0x33, 0x33, .u8, .rw, .r, .r, 5, .write⟩,  -- REACTION ONCHIP_UNCORR
  ⟨0x5002, 0x5002, 0x34, 0x34, .u8, .rw, .r, .r, 5, .write⟩,  -- REACTION HANDSHAKE_STALL
  ⟨0x5002, 0x5002, 0x35, 0x35, .u8, .rw, .r, .r, 5, .write⟩,  -- REACTION BRIDGE_OVERFLOW
  ⟨0x5002, 0x5002, 0x36, 0x36, .u8, .rw, .r, .r, 1, .write⟩,  -- REACTION CTRL_MISMATCH
  ⟨0x5002, 0x5002, 0x37, 0x37, .u8, .rw, .r, .r, 1, .write⟩,  -- REACTION SUP_DISSENT
  ⟨0x5002, 0x5002, 0x38, 0x38, .u8, .rw, .r, .r, 5, .write⟩,  -- REACTION SUP_HANDOVER
  ⟨0x5002, 0x5002, 0x39, 0x39, .u8, .rw, .r, .r, 5, .write⟩,  -- REACTION VOTER_CHECK
  ⟨0x5002, 0x5002, 0x3A, 0x3A, .u8, .rw, .r, .r, 1, .write⟩,  -- REACTION TASK_BUDGET
  ⟨0x5002, 0x5002, 0x3B, 0x3B, .u8, .rw, .r, .r, 1, .write⟩,  -- REACTION TASK_ALIVE
  ⟨0x5002, 0x5002, 0x3C, 0x3C, .u8, .rw, .r, .r, 5, .write⟩,  -- REACTION IFT_FAIL
  ⟨0x5002, 0x5002, 0x3D, 0x3D, .u8, .rw, .r, .r, 1, .write⟩,  -- REACTION IFT_OVERDUE
  ⟨0x5002, 0x5002, 0x3E, 0x3E, .u8, .rw, .r, .r, 5, .write⟩,  -- REACTION DRAIN
  ⟨0x5002, 0x5002, 0x40, 0x40, .u8, .rw, .r, .r, 1, .write⟩,  -- REACTION APHY_LINK_LOSS
  ⟨0x5002, 0x5002, 0x41, 0x41, .u8, .rw, .r, .r, 1, .write⟩,  -- REACTION INGEST_RATE
  ⟨0x5002, 0x5002, 0x42, 0x42, .u8, .rw, .r, .r, 1, .write⟩,  -- REACTION INGEST_DROP
  ⟨0x5002, 0x5002, 0x43, 0x43, .u8, .rw, .r, .r, 1, .write⟩,  -- REACTION ISP_DROP
  ⟨0x5002, 0x5002, 0x44, 0x44, .u8, .rw, .r, .r, 1, .write⟩]  -- REACTION ISP_OVERRUN

/-- Entries of indices 0x5000 to 0x57FF, part 2. -/
def dictRows5000_2 : List DictRow := [
  ⟨0x5002, 0x5002, 0x45, 0x45, .u8, .rw, .r, .r, 1, .write⟩,  -- REACTION FREEZE
  ⟨0x5002, 0x5002, 0x46, 0x46, .u8, .rw, .r, .r, 1, .write⟩,  -- REACTION GOLDEN_MISMATCH
  ⟨0x5002, 0x5002, 0x47, 0x47, .u8, .rw, .r, .r, 5, .write⟩,  -- REACTION GOLDEN_FAULT
  ⟨0x5002, 0x5002, 0x48, 0x48, .u8, .rw, .r, .r, 1, .write⟩,  -- REACTION TIME_REF_LOSS
  ⟨0x5002, 0x5002, 0x50, 0x50, .u8, .rw, .r, .r, 1, .write⟩,  -- REACTION ETH_LINK_LOSS
  ⟨0x5002, 0x5002, 0x51, 0x51, .u8, .rw, .r, .r, 1, .write⟩,  -- REACTION CAN_BUS_OFF
  ⟨0x5002, 0x5002, 0x52, 0x52, .u8, .rw, .r, .r, 1, .write⟩,  -- REACTION DSP_FREEZE
  ⟨0x5002, 0x5002, 0x53, 0x53, .u8, .rw, .r, .r, 1, .write⟩,  -- REACTION DSP_LINK_LOSS
  ⟨0x5003, 0x5003, 0x00, 0x00, .u8, .r, .r, .r, 4, .live⟩,  -- highest subindex
  ⟨0x5003, 0x5003, 0x01, 0x01, .u64, .rw, .r, .r, 0, .write⟩,  -- PENDING sources 0 to 63
  ⟨0x5003, 0x5003, 0x02, 0x02, .u64, .rw, .r, .r, 0, .write⟩,  -- PENDING sources 64 to 127
  ⟨0x5003, 0x5003, 0x03, 0x03, .u64, .r, .r, .r, 0, .live⟩,  -- ERR_HOLD sources 0 to 63
  ⟨0x5003, 0x5003, 0x04, 0x04, .u64, .r, .r, .r, 0, .live⟩,  -- ERR_HOLD sources 64 to 127
  ⟨0x5004, 0x5004, 0x00, 0x00, .u8, .r, .r, .r, 3, .live⟩,  -- highest subindex
  ⟨0x5004, 0x5004, 0x01, 0x01, .u8, .r, .r, .r, 0, .coldBoot⟩,  -- HEALTH
  ⟨0x5004, 0x5004, 0x02, 0x02, .u8, .r, .r, .r, 0, .coldBoot⟩,  -- DRAIN_CAUSE
  ⟨0x5004, 0x5004, 0x03, 0x03, .u8, .r, .r, .r, 0, .live⟩,  -- SUSPECT_PIPE
  ⟨0x5010, 0x5010, 0x00, 0x00, .u8, .r, .r, .r, 0x40, .live⟩,  -- highest subindex
  ⟨0x5010, 0x5010, 0x01, 0x40, .u16, .rw, .r, .no, 0x6fe, .frameTick⟩,  -- WITHHOLD graph g
  ⟨0x5011, 0x5011, 0x00, 0x00, .u8, .r, .r, .r, 0x40, .live⟩,  -- highest subindex
  ⟨0x5011, 0x5011, 0x01, 0x40, .u32, .r, .r, .r, 0, .live⟩,  -- GATE_VALID graph g
  ⟨0x5012, 0x5012, 0x00, 0x00, .u8, .r, .r, .r, 0x40, .live⟩,  -- highest subindex
  ⟨0x5012, 0x5012, 0x01, 0x40, .u32, .r, .r, .r, 0, .live⟩,  -- GATE_NOT_VALID graph g
  ⟨0x5013, 0x5013, 0x00, 0x00, .u8, .r, .r, .r, 0x40, .live⟩,  -- highest subindex
  ⟨0x5013, 0x5013, 0x01, 0x40, .u32, .r, .r, .r, 0, .live⟩,  -- ABANDONED graph g
  ⟨0x5014, 0x5014, 0x00, 0x00, .u8, .r, .r, .r, 2, .live⟩,  -- highest subindex
  ⟨0x5014, 0x5014, 0x01, 0x01, .bool, .r, .r, .r, 0, .live⟩,  -- SAFE_STATE
  ⟨0x5014, 0x5014, 0x02, 0x02, .u32, .r, .r, .r, 0, .live⟩,  -- SAFE_ENTRIES
  ⟨0x5020, 0x5020, 0x00, 0x00, .u8, .r, .r, .r, 1, .live⟩,  -- highest subindex
  ⟨0x5020, 0x5020, 0x01, 0x01, .u8, .rw, .r, .no, 6, .write⟩,  -- GOOSE_SHIFT
  ⟨0x5021, 0x5021, 0x00, 0x00, .u8, .r, .r, .r, 4, .live⟩,  -- highest subindex
  ⟨0x5021, 0x5021, 0x01, 0x04, .u64, .r, .r, .r, 0, .live⟩,  -- GOOSE_SAMPLES region n
  ⟨0x5022, 0x5022, 0x00, 0x00, .u8, .r, .r, .r, 4, .live⟩,  -- highest subindex
  ⟨0x5022, 0x5022, 0x01, 0x04, .u32, .r, .r, .r, 0, .live⟩,  -- GOOSE_LOAD region n
  ⟨0x5030, 0x5030, 0x00, 0x00, .u8, .r, .r, .r, 0x20, .live⟩,  -- highest subindex
  ⟨0x5030, 0x5030, 0x01, 0x20, .u8, .r, .r, .r, 0xff, .live⟩,  -- PARTNER block n
  ⟨0x5031, 0x5031, 0x00, 0x00, .u8, .r, .r, .r, 0x20, .live⟩,  -- highest subindex
  ⟨0x5031, 0x5031, 0x01, 0x20, .u32, .r, .r, .r, 0, .live⟩,  -- OCCURRENCES block n
  ⟨0x5032, 0x5032, 0x00, 0x00, .u8, .r, .r, .r, 0x20, .live⟩,  -- highest subindex
  ⟨0x5032, 0x5032, 0x01, 0x20, .u32, .r, .r, .r, 0, .live⟩]  -- SUSPECT_TIMER block n

/-- Entries of indices 0x5000 to 0x57FF, part 3. -/
def dictRows5000_3 : List DictRow := [
  ⟨0x5033, 0x5033, 0x00, 0x00, .u8, .r, .r, .r, 8, .live⟩,  -- highest subindex
  ⟨0x5033, 0x5033, 0x01, 0x08, .u32, .r, .r, .r, 0, .live⟩,  -- OCCURRENCES vector block n
  ⟨0x5034, 0x5034, 0x00, 0x00, .u8, .r, .r, .r, 8, .live⟩,  -- highest subindex
  ⟨0x5034, 0x5034, 0x01, 0x08, .u32, .r, .r, .r, 0, .live⟩,  -- SUSPECT_TIMER vector block n
  ⟨0x5035, 0x5035, 0x00, 0x00, .u8, .r, .r, .r, 4, .live⟩,  -- highest subindex
  ⟨0x5035, 0x5035, 0x01, 0x04, .u32, .r, .r, .r, 0, .live⟩,  -- CTRL_MISMATCHES pair n
  ⟨0x5036, 0x5036, 0x00, 0x00, .u8, .r, .r, .r, 4, .live⟩,  -- highest subindex
  ⟨0x5036, 0x5036, 0x01, 0x03, .u32, .r, .r, .r, 0, .live⟩,  -- DISSENTS core n
  ⟨0x5036, 0x5036, 0x04, 0x04, .u32, .r, .r, .r, 0, .live⟩,  -- RESYNCS
  ⟨0x5037, 0x5037, 0x00, 0x00, .u8, .r, .r, .r, 2, .live⟩,  -- highest subindex
  ⟨0x5037, 0x5037, 0x01, 0x01, .u32, .r, .r, .r, 0, .live⟩,  -- RESTARTS
  ⟨0x5037, 0x5037, 0x02, 0x02, .u64, .r, .r, .r, 0, .live⟩,  -- REPLAYED_TILES
  ⟨0x5038, 0x5038, 0x00, 0x00, .u8, .r, .r, .r, 1, .live⟩,  -- highest subindex
  ⟨0x5038, 0x5038, 0x01, 0x01, .u64, .r, .r, .r, 0, .live⟩,  -- SUSPECT
  ⟨0x5040, 0x5040, 0x00, 0x00, .u8, .r, .r, .r, 3, .live⟩,  -- highest subindex
  ⟨0x5040, 0x5040, 0x01, 0x01, .dom 16777216, .rw, .r, .rw, 0, .write⟩,  -- TEST_PACKAGE
  ⟨0x5040, 0x5040, 0x02, 0x02, .u16, .r, .r, .r, 0, .live⟩,  -- TEST_LOAD_STATUS
  ⟨0x5040, 0x5040, 0x03, 0x03, .u32, .r, .r, .r, 0, .live⟩,  -- TEST_VERSION
  ⟨0x5041, 0x5041, 0x00, 0x00, .u8, .r, .r, .r, 1, .live⟩,  -- highest subindex
  ⟨0x5041, 0x5041, 0x01, 0x01, .u64, .r, .r, .r, 0, .live⟩,  -- IFT_FAILED
  ⟨0x5042, 0x5042, 0x00, 0x00, .u8, .r, .r, .r, 0x3c, .live⟩,  -- highest subindex
  ⟨0x5042, 0x5042, 0x01, 0x3C, .u32, .r, .r, .r, 0, .live⟩,  -- TEST_AGE unit n
  ⟨0x5046, 0x5046, 0x00, 0x00, .u8, .r, .r, .r, 2, .live⟩,  -- highest subindex
  ⟨0x5046, 0x5046, 0x01, 0x01, .u32, .r, .r, .r, 0, .live⟩,  -- SLOTS_RUN
  ⟨0x5046, 0x5046, 0x02, 0x02, .u32, .r, .r, .r, 0, .live⟩,  -- OVERDUE
  ⟨0x5050, 0x5053, 0x00, 0x00, .u8, .r, .r, .r, 5, .live⟩,  -- highest subindex
  ⟨0x5050, 0x5053, 0x01, 0x01, .u8, .rw, .r, .rw, 0, .frameStart⟩,  -- GOLDEN_CTX
  ⟨0x5050, 0x5053, 0x02, 0x02, .u32, .r, .r, .r, 0, .live⟩,  -- GOLDEN_PASS
  ⟨0x5050, 0x5053, 0x03, 0x03, .u32, .r, .r, .r, 0, .live⟩,  -- GOLDEN_INCOMPLETE
  ⟨0x5050, 0x5053, 0x04, 0x04, .u32, .r, .r, .r, 0, .live⟩,  -- GOLDEN_MISMATCHES
  ⟨0x5050, 0x5053, 0x05, 0x05, .u32, .r, .r, .r, 0, .live⟩,  -- GOLDEN_LAST_US
  ⟨0x5060, 0x5083, 0x00, 0x00, .u8, .r, .r, .r, 2, .live⟩,  -- highest subindex
  ⟨0x5060, 0x5083, 0x01, 0x01, .u8, .rw, .r, .rw, 3, .frameStart⟩,  -- FREEZE_MODE
  ⟨0x5060, 0x5083, 0x02, 0x02, .u32, .r, .r, .r, 0, .live⟩,  -- FROZEN_FRAMES
  ⟨0x5100, 0x51FF, 0x00, 0x00, .u8, .r, .r, .r, 9, .live⟩,  -- highest subindex
  ⟨0x5100, 0x51FF, 0x01, 0x01, .u8, .r, .r, .r, 0, .live⟩,  -- GRAPH
  ⟨0x5100, 0x51FF, 0x02, 0x02, .u8, .r, .r, .r, 0, .live⟩,  -- ENTRY
  ⟨0x5100, 0x51FF, 0x03, 0x03, .u32, .r, .r, .r, 0, .activation⟩,  -- BUDGET
  ⟨0x5100, 0x51FF, 0x04, 0x04, .u32, .r, .r, .r, 0, .activation⟩,  -- ALIVE_MIN
  ⟨0x5100, 0x51FF, 0x05, 0x05, .u32, .r, .r, .r, 0, .activation⟩]  -- ALIVE_MAX

/-- Entries of indices 0x5000 to 0x57FF, part 4. -/
def dictRows5000_4 : List DictRow := [
  ⟨0x5100, 0x51FF, 0x06, 0x06, .u32, .r, .r, .r, 0, .live⟩,  -- LAST_US
  ⟨0x5100, 0x51FF, 0x07, 0x07, .u32, .r, .r, .r, 0, .live⟩,  -- MAX_US
  ⟨0x5100, 0x51FF, 0x08, 0x08, .u32, .r, .r, .r, 0, .live⟩,  -- OVERRUNS
  ⟨0x5100, 0x51FF, 0x09, 0x09, .u32, .r, .r, .r, 0, .live⟩]  -- ALIVE_FAULTS

def dictRows5000 : List DictRow := dictRows5000_0 ++ dictRows5000_1 ++ dictRows5000_2 ++ dictRows5000_3 ++ dictRows5000_4

/-- Entries of indices 0x6000 to 0x67FF, part 0. -/
def dictRows6000_0 : List DictRow := [
  ⟨0x6000, 0x6007, 0x00, 0x00, .u8, .r, .r, .r, 0xa, .live⟩,  -- highest subindex
  ⟨0x6000, 0x6007, 0x01, 0x01, .u64, .r, .r, .r, 0, .live⟩,  -- NOW
  ⟨0x6000, 0x6007, 0x02, 0x02, .u8, .rw, .r, .rw, 0, .timeCommit⟩,  -- MODE
  ⟨0x6000, 0x6007, 0x03, 0x03, .u8, .rw, .r, .rw, 0, .timeCommit⟩,  -- SOURCE
  ⟨0x6000, 0x6007, 0x04, 0x04, .i64, .rw, .r, .rw, 0, .timeCommit⟩,  -- OFFSET
  ⟨0x6000, 0x6007, 0x05, 0x05, .i32, .rw, .r, .rw, 0, .timeCommit⟩,  -- RATE_ADJ
  ⟨0x6000, 0x6007, 0x06, 0x06, .i64, .rw, .r, .rw, 0, .timeCommit⟩,  -- STEP
  ⟨0x6000, 0x6007, 0x07, 0x07, .u8, .r, .r, .r, 0, .live⟩,  -- STATE
  ⟨0x6000, 0x6007, 0x08, 0x08, .i64, .r, .r, .r, 0, .live⟩,  -- SERVO_OFFSET
  ⟨0x6000, 0x6007, 0x09, 0x09, .u32, .r, .r, .r, 0, .live⟩,  -- STEPS
  ⟨0x6000, 0x6007, 0x0A, 0x0A, .u32, .r, .r, .r, 0, .live⟩,  -- REF_LOSSES
  ⟨0x6010, 0x6010, 0x00, 0x00, .u8, .r, .r, .r, 6, .live⟩,  -- highest subindex
  ⟨0x6010, 0x6010, 0x01, 0x01, .u32, .rw, .r, .rw, 0x3e8, .timeCommit⟩,  -- PPS_WINDOW
  ⟨0x6010, 0x6010, 0x02, 0x02, .u8, .rw, .r, .rw, 0, .timeCommit⟩,  -- PPS_EDGE
  ⟨0x6010, 0x6010, 0x03, 0x03, .u8, .rw, .r, .rw, 3, .timeCommit⟩,  -- PPS_LOSS_N
  ⟨0x6010, 0x6010, 0x04, 0x06, .u32, .r, .r, .r, 0, .live⟩,  -- PPS_ACCEPTED, PPS_REJECTED, PPS_MISSED
  ⟨0x6011, 0x6012, 0x00, 0x00, .u8, .r, .r, .r, 0xa, .live⟩,  -- highest subindex
  ⟨0x6011, 0x6012, 0x01, 0x01, .u8, .rw, .r, .rw, 0, .timeCommit⟩,  -- DOMAIN
  ⟨0x6011, 0x6012, 0x02, 0x02, .i8, .rw, .r, .rw, 0xfd, .timeCommit⟩,  -- LOG_SYNC
  ⟨0x6011, 0x6012, 0x03, 0x03, .i8, .rw, .r, .rw, 0, .timeCommit⟩,  -- LOG_PDELAY
  ⟨0x6011, 0x6012, 0x04, 0x04, .u32, .rw, .r, .rw, 0x320, .timeCommit⟩,  -- DELAY_THRESH
  ⟨0x6011, 0x6012, 0x05, 0x05, .u8, .rw, .r, .rw, 3, .timeCommit⟩,  -- SYNC_TIMEOUT
  ⟨0x6011, 0x6012, 0x06, 0x06, .u32, .r, .r, .r, 0, .live⟩,  -- LINK_DELAY
  ⟨0x6011, 0x6012, 0x07, 0x07, .bool, .r, .r, .r, 0, .live⟩,  -- AS_CAPABLE
  ⟨0x6011, 0x6012, 0x08, 0x0A, .u32, .r, .r, .r, 0, .live⟩,  -- SYNC_RX, PDELAY_FAIL, ANNOUNCE_IGN
  ⟨0x6020, 0x6020, 0x00, 0x00, .u8, .r, .r, .r, 3, .live⟩,  -- highest subindex
  ⟨0x6020, 0x6020, 0x01, 0x01, .u8, .w, .w, .w, 0, .write⟩,  -- TIME_COMMIT
  ⟨0x6020, 0x6020, 0x02, 0x02, .bool, .r, .r, .r, 0, .live⟩,  -- COMMIT_PENDING
  ⟨0x6020, 0x6020, 0x03, 0x03, .u64, .r, .r, .r, 0, .live⟩,  -- COMMIT_TIME
  ⟨0x6030, 0x6030, 0x00, 0x00, .u8, .r, .r, .r, 1, .live⟩,  -- highest subindex
  ⟨0x6030, 0x6030, 0x01, 0x01, .u8, .rw, .rw, .rw, 0, .timeCommit⟩,  -- FSYNC_DIR
  ⟨0x6100, 0x611F, 0x00, 0x00, .u8, .r, .r, .r, 0xd, .live⟩,  -- highest subindex
  ⟨0x6100, 0x611F, 0x01, 0x01, .bool, .rw, .rw, .rw, 0, .timeCommit⟩,  -- ENABLE
  ⟨0x6100, 0x611F, 0x02, 0x02, .u8, .rw, .rw, .rw, 0, .timeCommit⟩,  -- BASE
  ⟨0x6100, 0x611F, 0x03, 0x03, .u64, .rw, .rw, .rw, 0, .timeCommit⟩,  -- START
  ⟨0x6100, 0x611F, 0x04, 0x04, .u64, .rw, .rw, .rw, 0x1fca0555555, .timeCommit⟩,  -- PERIOD
  ⟨0x6100, 0x611F, 0x05, 0x05, .u32, .rw, .rw, .rw, 0x3e8, .timeCommit⟩,  -- WIDTH
  ⟨0x6100, 0x611F, 0x06, 0x06, .u8, .rw, .rw, .rw, 0, .timeCommit⟩,  -- PINS
  ⟨0x6100, 0x611F, 0x07, 0x07, .u8, .rw, .rw, .rw, 0, .timeCommit⟩,  -- POLARITY
  ⟨0x6100, 0x611F, 0x08, 0x08, .u32, .rw, .rw, .rw, 0, .timeCommit⟩]  -- PORTS

/-- Entries of indices 0x6000 to 0x67FF, part 1. -/
def dictRows6000_1 : List DictRow := [
  ⟨0x6100, 0x611F, 0x09, 0x09, .bool, .rw, .rw, .rw, 1, .timeCommit⟩,  -- COMP
  ⟨0x6100, 0x611F, 0x0A, 0x0A, .u8, .rw, .rw, .rw, 0, .timeCommit⟩,  -- DISPLAYS
  ⟨0x6100, 0x611F, 0x0B, 0x0B, .u32, .r, .r, .r, 0, .live⟩,  -- FIRED
  ⟨0x6100, 0x611F, 0x0C, 0x0C, .u32, .r, .r, .r, 0, .live⟩,  -- SKIPPED
  ⟨0x6100, 0x611F, 0x0D, 0x0D, .u64, .r, .r, .r, 0, .live⟩,  -- LAST_INSTANT
  ⟨0x6200, 0x620F, 0x00, 0x00, .u8, .r, .r, .r, 3, .live⟩,  -- highest subindex
  ⟨0x6200, 0x620F, 0x01, 0x01, .u8, .rw, .rw, .rw, 0xff, .write⟩,  -- SOURCE
  ⟨0x6200, 0x620F, 0x02, 0x02, .u32, .r, .r, .r, 0, .live⟩,  -- COUNT
  ⟨0x6200, 0x620F, 0x03, 0x03, .dom 64, .r, .r, .r, 0, .live⟩]  -- RECORD

def dictRows6000 : List DictRow := dictRows6000_0 ++ dictRows6000_1

/-- Entries of indices 0x6800 to 0x6FFF, part 0. -/
def dictRows6800_0 : List DictRow := [
  ⟨0x6800, 0x6802, 0x00, 0x00, .u8, .r, .r, .r, 0xd, .live⟩,  -- highest subindex
  ⟨0x6800, 0x6802, 0x01, 0x01, .bool, .rw, .r, .rw, 1, .reset⟩,  -- ENABLE
  ⟨0x6800, 0x6801, 0x02, 0x02, .u8, .rw, .r, .rw, 3, .reset⟩,  -- RATE
  ⟨0x6800, 0x6802, 0x03, 0x03, .u8, .rw, .r, .rw, 0, .reset⟩,  -- ROLE
  ⟨0x6800, 0x6802, 0x04, 0x04, .u64, .r, .r, .r, 0, .live⟩,  -- MAC
  ⟨0x6800, 0x6802, 0x05, 0x05, .u32, .rw, .r, .rw, 0, .reset⟩,  -- IPV4
  ⟨0x6800, 0x6802, 0x06, 0x06, .u8, .rw, .r, .rw, 0x18, .reset⟩,  -- IPV4_PREFIX
  ⟨0x6800, 0x6802, 0x07, 0x07, .dom 16, .rw, .r, .rw, 0, .reset⟩,  -- IPV6
  ⟨0x6800, 0x6802, 0x08, 0x08, .u8, .r, .r, .r, 0, .live⟩,  -- LINK_STATE
  ⟨0x6800, 0x6802, 0x09, 0x09, .u32, .r, .r, .r, 0, .live⟩,  -- LINK_LOSSES
  ⟨0x6800, 0x6802, 0x0A, 0x0B, .u64, .r, .r, .r, 0, .live⟩,  -- RX_FRAMES, TX_FRAMES
  ⟨0x6800, 0x6802, 0x0C, 0x0D, .u32, .r, .r, .r, 0, .live⟩,  -- RX_DISCARDED, TX_DISCARDED
  ⟨0x6802, 0x6802, 0x02, 0x02, .u8, .rw, .r, .rw, 0, .reset⟩,  -- RATE ETH-M
  ⟨0x6808, 0x680B, 0x00, 0x00, .u8, .r, .r, .r, 7, .live⟩,  -- highest subindex
  ⟨0x6808, 0x680B, 0x01, 0x01, .bool, .rw, .r, .rw, 1, .reset⟩,  -- ENABLE
  ⟨0x6808, 0x680B, 0x02, 0x02, .u16, .rw, .r, .rw, 0x1f4, .reset⟩,  -- NOM_RATE
  ⟨0x6808, 0x680B, 0x03, 0x03, .u16, .rw, .r, .rw, 0x7d0, .reset⟩,  -- DATA_RATE
  ⟨0x6808, 0x680B, 0x04, 0x04, .u8, .r, .r, .r, 0, .live⟩,  -- ERR_STATE
  ⟨0x6808, 0x680B, 0x05, 0x07, .u32, .r, .r, .r, 0, .live⟩,  -- BUS_OFFS, TX_FRAMES, RX_FRAMES
  ⟨0x6810, 0x6811, 0x00, 0x00, .u8, .r, .r, .r, 8, .live⟩,  -- highest subindex
  ⟨0x6810, 0x6811, 0x01, 0x01, .dom 2048, .rw, .r, .rw, 0, .timeCommit⟩,  -- GCL
  ⟨0x6810, 0x6811, 0x02, 0x02, .u64, .rw, .r, .rw, 0, .timeCommit⟩,  -- CYCLE_BASE
  ⟨0x6810, 0x6811, 0x03, 0x03, .bool, .rw, .r, .rw, 0, .timeCommit⟩,  -- QBV_EN
  ⟨0x6810, 0x6811, 0x04, 0x04, .dom 32, .rw, .r, .rw, 0, .write⟩,  -- IDLE_SLOPE
  ⟨0x6810, 0x6811, 0x05, 0x05, .dom 1536, .rw, .r, .rw, 0, .write⟩,  -- QCI_TABLE
  ⟨0x6810, 0x6811, 0x06, 0x06, .bool, .rw, .r, .rw, 1, .write⟩,  -- QCI_DEFAULT
  ⟨0x6810, 0x6811, 0x07, 0x08, .u32, .r, .r, .r, 0, .live⟩,  -- GATE_DROPS, QCI_DROPS
  ⟨0x6900, 0x691F, 0x00, 0x00, .u8, .r, .r, .r, 0xe, .live⟩,  -- highest subindex
  ⟨0x6900, 0x691F, 0x01, 0x01, .bool, .rw, .r, .rw, 0, .write⟩,  -- ENABLE
  ⟨0x6900, 0x691F, 0x02, 0x02, .u8, .rw, .r, .rw, 0, .write⟩,  -- PORT
  ⟨0x6900, 0x691F, 0x03, 0x03, .u64, .rw, .r, .rw, 0, .write⟩,  -- DEST_MAC
  ⟨0x6900, 0x691F, 0x04, 0x04, .dom 16, .rw, .r, .rw, 0, .write⟩,  -- DEST_IP
  ⟨0x6900, 0x691F, 0x05, 0x06, .u16, .rw, .r, .rw, 0, .write⟩,  -- SRC_UDP, DST_UDP
  ⟨0x6900, 0x691F, 0x07, 0x07, .u16, .rw, .r, .rw, 0xffff, .write⟩,  -- VLAN1
  ⟨0x6900, 0x691F, 0x08, 0x08, .bool, .rw, .r, .rw, 0, .write⟩,  -- FRER
  ⟨0x6900, 0x691F, 0x09, 0x09, .u64, .rw, .r, .rw, 0, .write⟩,  -- DEST_MAC2
  ⟨0x6900, 0x691F, 0x0A, 0x0A, .u16, .rw, .r, .rw, 0xffff, .write⟩,  -- VLAN2
  ⟨0x6900, 0x691F, 0x0B, 0x0B, .u32, .rw, .r, .rw, 0, .write⟩,  -- CAN_ID
  ⟨0x6900, 0x691F, 0x0C, 0x0C, .u32, .r, .r, .r, 0, .live⟩,  -- SEQ
  ⟨0x6900, 0x691F, 0x0D, 0x0E, .u32, .r, .r, .r, 0, .live⟩]  -- SENT, TX_DROP

/-- Entries of indices 0x6800 to 0x6FFF, part 1. -/
def dictRows6800_1 : List DictRow := [
  ⟨0x6A00, 0x6A00, 0x00, 0x00, .u8, .r, .r, .r, 7, .live⟩,  -- highest subindex
  ⟨0x6A00, 0x6A00, 0x01, 0x01, .u64, .rw, .r, .rw, 0xffffffffffff, .write⟩,  -- LW_DEST_MAC
  ⟨0x6A00, 0x6A00, 0x02, 0x02, .dom 16, .rw, .r, .rw, 0, .write⟩,  -- LW_DEST_IP
  ⟨0x6A00, 0x6A00, 0x03, 0x03, .u32, .rw, .r, .rw, 0x43684368, .write⟩,  -- LW_UDP
  ⟨0x6A00, 0x6A00, 0x04, 0x05, .u16, .rw, .r, .rw, 0xffff, .write⟩,  -- LW_VLAN1, LW_VLAN2
  ⟨0x6A00, 0x6A00, 0x06, 0x06, .u32, .rw, .r, .rw, 0, .write⟩,  -- LW_CAN_ID
  ⟨0x6A00, 0x6A00, 0x07, 0x07, .u32, .r, .r, .r, 0, .live⟩]  -- LW_SENT

def dictRows6800 : List DictRow := dictRows6800_0 ++ dictRows6800_1

/-- Entries of indices 0x7000 to 0x77FF. -/
def dictRows7000 : List DictRow := [
  ⟨0x7000, 0x7000, 0x00, 0x00, .u8, .r, .r, .r, 3, .live⟩,  -- highest subindex
  ⟨0x7000, 0x7000, 0x01, 0x01, .u8, .r, .r, .r, 0, .live⟩,  -- LIFECYCLE
  ⟨0x7000, 0x7000, 0x02, 0x02, .u8, .r, .r, .r, 0, .live⟩,  -- SEC_FUSES
  ⟨0x7000, 0x7000, 0x03, 0x03, .u8, .r, .r, .r, 0, .live⟩,  -- KEY_REVOKED
  ⟨0x7001, 0x7001, 0x00, 0x00, .u8, .r, .r, .r, 1, .live⟩,  -- highest subindex
  ⟨0x7001, 0x7001, 0x01, 0x01, .dom 128, .r, .r, .rw, 0, .write⟩,  -- CUSTOMER_KEY
  ⟨0x7010, 0x7010, 0x00, 0x00, .u8, .r, .r, .r, 5, .live⟩,  -- highest subindex
  ⟨0x7010, 0x7010, 0x01, 0x01, .dom 33554432, .w, .no, .w, 0, .write⟩,  -- FW_IMAGE
  ⟨0x7010, 0x7010, 0x02, 0x02, .u16, .r, .r, .r, 0, .live⟩,  -- FW_LOAD_STATUS
  ⟨0x7010, 0x7010, 0x03, 0x03, .u8, .r, .r, .r, 0, .live⟩,  -- FW_UPDATE_STATE
  ⟨0x7010, 0x7010, 0x04, 0x04, .u32, .r, .r, .r, 0, .live⟩,  -- FW_VERSION
  ⟨0x7010, 0x7010, 0x05, 0x05, .u32, .r, .r, .r, 0, .live⟩,  -- FW_PENDING_VERSION
  ⟨0x7020, 0x7020, 0x00, 0x00, .u8, .r, .r, .r, 2, .live⟩,  -- highest subindex
  ⟨0x7020, 0x7020, 0x01, 0x01, .dom 64, .r, .r, .r, 0, .live⟩,  -- IDENTITY_KEY
  ⟨0x7020, 0x7020, 0x02, 0x02, .dom 1024, .r, .r, .r, 0, .live⟩,  -- IDENTITY_CERT
  ⟨0x7021, 0x7021, 0x00, 0x00, .u8, .r, .r, .r, 2, .live⟩,  -- highest subindex
  ⟨0x7021, 0x7021, 0x01, 0x01, .dom 16, .rw, .rw, .rw, 0, .write⟩,  -- ATTEST_NONCE
  ⟨0x7021, 0x7021, 0x02, 0x02, .dom 256, .r, .r, .r, 0, .live⟩]  -- ATTEST_REPORT

/-- Entries of indices 0x8000 to 0x87FF. -/
def dictRows8000 : List DictRow := [
  ⟨0x8000, 0x8000, 0x00, 0x00, .u8, .r, .r, .r, 4, .live⟩,  -- highest subindex
  ⟨0x8000, 0x8000, 0x01, 0x01, .u8, .r, .r, .r, 1, .live⟩,  -- RESET_KIND
  ⟨0x8000, 0x8000, 0x02, 0x02, .u16, .r, .r, .r, 1, .live⟩,  -- BOOT_STATUS
  ⟨0x8000, 0x8000, 0x03, 0x03, .u32, .r, .r, .r, 0, .live⟩,  -- BOOT_TIME
  ⟨0x8000, 0x8000, 0x04, 0x04, .u32, .r, .r, .r, 0, .live⟩,  -- STORE_LOST
  ⟨0x8001, 0x8001, 0x00, 0x00, .u8, .r, .r, .r, 3, .live⟩,  -- highest subindex
  ⟨0x8001, 0x8001, 0x01, 0x03, .u32, .r, .r, .r, 0, .live⟩,  -- RESETS pin, command, fault
  ⟨0x8010, 0x8010, 0x00, 0x00, .u8, .r, .r, .r, 6, .live⟩,  -- highest subindex
  ⟨0x8010, 0x8010, 0x01, 0x01, .u8, .w, .no, .w, 0, .write⟩,  -- STANDBY_CMD
  ⟨0x8010, 0x8010, 0x02, 0x02, .u8, .rw, .r, .rw, 0xf7, .write⟩,  -- WAKE_SRC
  ⟨0x8010, 0x8010, 0x03, 0x03, .u32, .rw, .r, .rw, 0, .write⟩,  -- CAN_WAKE_ID
  ⟨0x8010, 0x8010, 0x04, 0x04, .u8, .r, .r, .r, 0, .live⟩,  -- WAKE_CAUSE
  ⟨0x8010, 0x8010, 0x05, 0x05, .u32, .r, .r, .r, 0, .live⟩,  -- STANDBY_ENTRIES
  ⟨0x8010, 0x8010, 0x06, 0x06, .u32, .r, .r, .r, 0, .live⟩,  -- REACTIVATE_FAIL
  ⟨0x8020, 0x8020, 0x00, 0x00, .u8, .r, .r, .r, 7, .live⟩,  -- highest subindex
  ⟨0x8020, 0x8020, 0x01, 0x05, .i16, .r, .r, .r, 0, .live⟩,  -- TJ_LIVE
  ⟨0x8020, 0x8020, 0x06, 0x06, .i16, .r, .r, .r, 0xffd8, .live⟩,  -- TJ_MAX
  ⟨0x8020, 0x8020, 0x07, 0x07, .u32, .r, .r, .r, 0, .live⟩,  -- TJ_HIGH
  ⟨0x8030, 0x8030, 0x00, 0x00, .u8, .r, .r, .r, 5, .live⟩,  -- highest subindex
  ⟨0x8030, 0x8030, 0x01, 0x01, .u16, .rw, .r, .rw, 0x5aa, .write⟩,  -- PACE_SET
  ⟨0x8030, 0x8030, 0x02, 0x02, .u16, .r, .r, .r, 0x320, .live⟩,  -- CORE_V_REQ
  ⟨0x8030, 0x8030, 0x03, 0x03, .u16, .r, .r, .r, 0, .live⟩,  -- CORE_V_READ
  ⟨0x8030, 0x8030, 0x04, 0x04, .u16, .r, .r, .r, 0, .live⟩,  -- CORE_I_READ
  ⟨0x8030, 0x8030, 0x05, 0x05, .u32, .r, .r, .r, 0, .live⟩,  -- AVS_ERRORS
  ⟨0x8031, 0x8031, 0x00, 0x00, .u8, .r, .r, .r, 6, .live⟩,  -- highest subindex
  ⟨0x8031, 0x8031, 0x01, 0x06, .u16, .r, .r, .r, 0, .live⟩,  -- RAIL_MV
  ⟨0x8040, 0x8040, 0x00, 0x00, .u8, .r, .r, .r, 5, .live⟩,  -- PACE_LIVE count
  ⟨0x8040, 0x8040, 0x01, 0x04, .u16, .r, .r, .r, 0, .live⟩,  -- PACE_LIVE region n
  ⟨0x8040, 0x8040, 0x05, 0x05, .u16, .r, .r, .r, 0, .live⟩,  -- PACE_LIVE control
  ⟨0x8041, 0x8041, 0x00, 0x00, .u8, .r, .r, .r, 6, .live⟩,  -- PACE_CAL count
  ⟨0x8041, 0x8041, 0x01, 0x04, .u16, .r, .r, .r, 0, .live⟩,  -- PACE_CAL region n
  ⟨0x8041, 0x8041, 0x05, 0x05, .u16, .r, .r, .r, 0, .live⟩,  -- PACE_CAL control
  ⟨0x8041, 0x8041, 0x06, 0x06, .i16, .r, .r, .r, 0, .live⟩,  -- PACE_CAL junction
  ⟨0x8042, 0x8042, 0x00, 0x00, .u8, .r, .r, .r, 5, .live⟩,  -- PACE_LOW count
  ⟨0x8042, 0x8042, 0x01, 0x05, .u32, .r, .r, .r, 0, .live⟩]  -- PACE_LOW region n, control

/-- The rows that can hold an index. -/
def dictRowsFor (idx : Nat) : List DictRow :=
  if idx / 0x800 = 2 then dictRows1000 else
  if idx / 0x800 = 4 then dictRows2000 else
  if idx / 0x800 = 5 then dictRows2800 else
  if idx / 0x800 = 6 then dictRows3000 else
  if idx / 0x800 = 8 then dictRows4000 else
  if idx / 0x800 = 9 then dictRows4800 else
  if idx / 0x800 = 10 then dictRows5000 else
  if idx / 0x800 = 12 then dictRows6000 else
  if idx / 0x800 = 13 then dictRows6800 else
  if idx / 0x800 = 14 then dictRows7000 else
  if idx / 0x800 = 16 then dictRows8000 else
  []

/-- The row of an entry, if the entry exists. -/
def dictRow (idx sub : Nat) : Option DictRow :=
  (dictRowsFor idx).find? fun r => r.lo ≤ idx && idx ≤ r.hi && r.slo ≤ sub && sub ≤ r.shi

/-- Whether an index is given by some chapter (R471). -/
def dictHasIndex (idx : Nat) : Bool :=
  (dictRowsFor idx).any fun r => r.lo ≤ idx && idx ≤ r.hi

/-- The default of a dictionary value (R17, R464); 0 for a key that names no entry. -/
def dictDefault (k : Key) : Nat :=
  match dictRow (k / 256) (k % 256) with
  | some r => r.dflt
  | none => 0

/-- The size in bytes of a fixed-size type (R455). -/
def Ty.size : Ty → Option Nat
  | .u8 | .i8 | .bool => some 1
  | .u16 | .i16 => some 2
  | .u32 | .i32 | .f32 => some 4
  | .u64 | .i64 => some 8
  | .str _ | .dom _ => none

/-- The largest value of an entry, at which its counter saturates. -/
def dictMax (k : Key) : Nat :=
  match dictRow (k / 256) (k % 256) with
  | some r => match r.ty.size with
    | some n => 256 ^ n - 1
    | none => 0
  | none => 0

/-- The fault sources of R419: number, default reaction, whether reactions 1 to 5 are permitted. -/
def faultSources : List (Nat × Nat × List Nat) := [
  (0x01, 1, [1, 2, 3, 4, 5]),  -- CELL_RESIDUE
  (0x02, 1, [1, 2, 3, 4, 5]),  -- OPERAND_PARITY
  (0x10, 1, [1, 2, 3, 4, 5]),  -- SCRATCH_CORR
  (0x11, 1, [1, 2, 3, 4, 5]),  -- SCRATCH_UNCORR
  (0x12, 1, [1, 2, 3, 4, 5]),  -- PAIR_MISMATCH
  (0x13, 1, [1, 2, 4, 5]),  -- WINDOW_CLOSED
  (0x14, 1, [1, 2, 4, 5]),  -- WINDOW_BOUNDS
  (0x15, 1, [1, 2, 4, 5]),  -- RETENTION_LOSS
  (0x20, 1, [1, 2, 4, 5]),  -- TILE_CHECK
  (0x21, 1, [1, 2, 3, 4, 5]),  -- GOOSE_MISMATCH
  (0x22, 1, [1, 2, 4, 5]),  -- RC_CORR
  (0x23, 1, [1, 2, 4, 5]),  -- RC_UNCORR
  (0x30, 1, [1, 2, 4, 5]),  -- DRAM_CORR
  (0x31, 1, [1, 2, 4, 5]),  -- DRAM_UNCORR
  (0x32, 1, [1, 2, 4, 5]),  -- ONCHIP_CORR
  (0x33, 5, [4, 5]),  -- ONCHIP_UNCORR
  (0x34, 5, [4, 5]),  -- HANDSHAKE_STALL
  (0x35, 5, [4, 5]),  -- BRIDGE_OVERFLOW
  (0x36, 1, [1, 2, 4, 5]),  -- CTRL_MISMATCH
  (0x37, 1, [1, 2, 4, 5]),  -- SUP_DISSENT
  (0x38, 5, [5]),  -- SUP_HANDOVER
  (0x39, 5, [5]),  -- VOTER_CHECK
  (0x3A, 1, [1, 2, 4, 5]),  -- TASK_BUDGET
  (0x3B, 1, [1, 2, 4, 5]),  -- TASK_ALIVE
  (0x3C, 5, [5]),  -- IFT_FAIL
  (0x3D, 1, [1, 2, 4, 5]),  -- IFT_OVERDUE
  (0x3E, 5, [5]),  -- DRAIN
  (0x40, 1, [1, 2, 4, 5]),  -- APHY_LINK_LOSS
  (0x41, 1, [1, 2, 4, 5]),  -- INGEST_RATE
  (0x42, 1, [1, 2, 4, 5]),  -- INGEST_DROP
  (0x43, 1, [1, 2, 4, 5]),  -- ISP_DROP
  (0x44, 1, [1, 2, 4, 5]),  -- ISP_OVERRUN
  (0x45, 1, [1, 2, 4, 5]),  -- FREEZE
  (0x46, 1, [1, 2, 4, 5]),  -- GOLDEN_MISMATCH
  (0x47, 5, [1, 2, 4, 5]),  -- GOLDEN_FAULT
  (0x48, 1, [1, 2, 4, 5]),  -- TIME_REF_LOSS
  (0x50, 1, [1, 2, 4, 5]),  -- ETH_LINK_LOSS
  (0x51, 1, [1, 2, 4, 5]),  -- CAN_BUS_OFF
  (0x52, 1, [1, 2, 4, 5]),  -- DSP_FREEZE
  (0x53, 1, [1, 2, 4, 5])]  -- DSP_LINK_LOSS

/-- Whether a number is a fault source's. -/
def isFaultSource (n : Nat) : Bool := faultSources.any fun p => p.1 = n

/-- The reactions a source permits (R419). -/
def permittedReactions (n : Nat) : List Nat :=
  match faultSources.find? fun p => p.1 = n with
  | some p => p.2.2
  | none => []

namespace Src

abbrev CELL_RESIDUE : Nat := 0x01
abbrev OPERAND_PARITY : Nat := 0x02
abbrev SCRATCH_CORR : Nat := 0x10
abbrev SCRATCH_UNCORR : Nat := 0x11
abbrev PAIR_MISMATCH : Nat := 0x12
abbrev WINDOW_CLOSED : Nat := 0x13
abbrev WINDOW_BOUNDS : Nat := 0x14
abbrev RETENTION_LOSS : Nat := 0x15
abbrev TILE_CHECK : Nat := 0x20
abbrev GOOSE_MISMATCH : Nat := 0x21
abbrev RC_CORR : Nat := 0x22
abbrev RC_UNCORR : Nat := 0x23
abbrev DRAM_CORR : Nat := 0x30
abbrev DRAM_UNCORR : Nat := 0x31
abbrev ONCHIP_CORR : Nat := 0x32
abbrev ONCHIP_UNCORR : Nat := 0x33
abbrev HANDSHAKE_STALL : Nat := 0x34
abbrev BRIDGE_OVERFLOW : Nat := 0x35
abbrev CTRL_MISMATCH : Nat := 0x36
abbrev SUP_DISSENT : Nat := 0x37
abbrev SUP_HANDOVER : Nat := 0x38
abbrev VOTER_CHECK : Nat := 0x39
abbrev TASK_BUDGET : Nat := 0x3A
abbrev TASK_ALIVE : Nat := 0x3B
abbrev IFT_FAIL : Nat := 0x3C
abbrev IFT_OVERDUE : Nat := 0x3D
abbrev DRAIN : Nat := 0x3E
abbrev APHY_LINK_LOSS : Nat := 0x40
abbrev INGEST_RATE : Nat := 0x41
abbrev INGEST_DROP : Nat := 0x42
abbrev ISP_DROP : Nat := 0x43
abbrev ISP_OVERRUN : Nat := 0x44
abbrev FREEZE : Nat := 0x45
abbrev GOLDEN_MISMATCH : Nat := 0x46
abbrev GOLDEN_FAULT : Nat := 0x47
abbrev TIME_REF_LOSS : Nat := 0x48
abbrev ETH_LINK_LOSS : Nat := 0x50
abbrev CAN_BUS_OFF : Nat := 0x51
abbrev DSP_FREEZE : Nat := 0x52
abbrev DSP_LINK_LOSS : Nat := 0x53

end Src

/-! The keys of the entries the device itself reads or writes. -/

namespace Reg

abbrev PACE_LIVE (n : Nat) : Key := 0x804000 + 1 + n
abbrev PACE_LIVE_control : Key := 0x804005
abbrev PACE_CAL (n : Nat) : Key := 0x804100 + 1 + n
abbrev PACE_CAL_control : Key := 0x804105
abbrev PACE_CAL_junction : Key := 0x804106
abbrev PACE_LOW (n : Nat) : Key := 0x804200 + 1 + n
abbrev REPAIR_MAP (n : Nat) : Key := 0x308000 + 1 + n
abbrev BLOCK_MODE (n : Nat) : Key := 0x308100 + 1 + n
abbrev PACKAGE (n : Nat) : Key := 0x301000 + 1 + n
abbrev LOAD_STATUS (n : Nat) : Key := 0x301100 + 1 + n
abbrev GRAPH_STATE (n : Nat) : Key := 0x301200 + 1 + n
abbrev GRAPH_CMD (n : Nat) : Key := 0x301300 + 1 + n
abbrev PKG_ID (n : Nat) : Key := 0x301400 + 1 + n
abbrev FRAME_NO (n : Nat) : Key := 0x301500 + 1 + n
abbrev TICK_SKIP (n : Nat) : Key := 0x301600 + 1 + n
abbrev TILES_SKIPPED (n : Nat) : Key := 0x301700 + 1 + n
abbrev QUEUE_SLOTS (n : Nat) : Key := 0x301800 + 1 + n
abbrev SEG_OWNED (n : Nat) : Key := 0x400000 + 1 + n
abbrev BANK_POWER (n : Nat) : Key := 0x400100 + 1 + n
abbrev RETAINED (n : Nat) : Key := 0x400200 + 1 + n
abbrev WINDOW_DROPS (n : Nat) : Key := 0x400300 + 1 + n
abbrev RETAIN_RECOPY (n : Nat) : Key := 0x400400 + 1 + n
abbrev RC_HITS (n : Nat) : Key := 0x400800 + 1 + n
abbrev RC_MISSES (n : Nat) : Key := 0x400900 + 1 + n
abbrev RC_WRITEBACKS (n : Nat) : Key := 0x400A00 + 1 + n
abbrev RC_UNCACHED (n : Nat) : Key := 0x400B00 + 1 + n
abbrev DRAM_CONFIG_capacity : Key := 0x401001
abbrev DRAM_CONFIG_channels : Key := 0x401002
abbrev DRAM_CONFIG_rate : Key := 0x401003
abbrev DRAM_CORR (n : Nat) : Key := 0x401100 + 1 + n
abbrev DRAM_UNCORR (n : Nat) : Key := 0x401200 + 1 + n
abbrev DRAM_READ (n : Nat) : Key := 0x401300 + 1 + n
abbrev DRAM_WRITE (n : Nat) : Key := 0x401400 + 1 + n
abbrev DRAM_CLASS (n : Nat) : Key := 0x401500 + 1 + n
abbrev RING_SIZE : Key := 0x402001
abbrev RING_PORTS : Key := 0x402002
abbrev RING_AUTOFREEZE : Key := 0x402003
abbrev RING_STATE : Key := 0x402101
abbrev RING_OLDEST : Key := 0x402102
abbrev RING_NEWEST : Key := 0x402103
abbrev RING_OLDEST_SEQ : Key := 0x402104
abbrev RING_NEWEST_SEQ : Key := 0x402105
abbrev RING_FREEZE_TIME : Key := 0x402106
abbrev RING_UNRECORDED : Key := 0x402107
abbrev RING_CMD : Key := 0x402201
abbrev RING_CURSOR : Key := 0x402301
abbrev RING_DATA : Key := 0x402401
abbrev PIXEL_RATE_SUM : Key := 0x200001
abbrev CAM_ENABLE (n : Nat) : Key := (0x2100 + n) * 256 + 1
abbrev CAM_GEAR (n : Nat) : Key := (0x2100 + n) * 256 + 2
abbrev CAM_VC (n : Nat) : Key := (0x2100 + n) * 256 + 3
abbrev CAM_DATA_TYPE (n : Nat) : Key := (0x2100 + n) * 256 + 4
abbrev CAM_WIDTH (n : Nat) : Key := (0x2100 + n) * 256 + 5
abbrev CAM_LINES (n : Nat) : Key := (0x2100 + n) * 256 + 6
abbrev CAM_EMB_LINES (n : Nat) : Key := (0x2100 + n) * 256 + 7
abbrev CAM_FRAME_PERIOD (n : Nat) : Key := (0x2100 + n) * 256 + 8
abbrev CAM_SOF_DELAY (n : Nat) : Key := (0x2100 + n) * 256 + 9
abbrev CAM_SOF_TOL (n : Nat) : Key := (0x2100 + n) * 256 + 10
abbrev CAM_LINE_TIMEOUT (n : Nat) : Key := (0x2100 + n) * 256 + 11
abbrev CAM_FC_OFFSET (n : Nat) : Key := (0x2100 + n) * 256 + 12
abbrev CAM_FC_BYTES (n : Nat) : Key := (0x2100 + n) * 256 + 13
abbrev CAM_LINK_STATE (n : Nat) : Key := (0x2200 + n) * 256 + 1
abbrev CAM_FRAMES (n : Nat) : Key := (0x2200 + n) * 256 + 2
abbrev CAM_SHORT (n : Nat) : Key := (0x2200 + n) * 256 + 3
abbrev CAM_LONG (n : Nat) : Key := (0x2200 + n) * 256 + 4
abbrev CAM_LATE (n : Nat) : Key := (0x2200 + n) * 256 + 5
abbrev CAM_LINK_ERR (n : Nat) : Key := (0x2200 + n) * 256 + 6
abbrev CAM_HDR_CORR (n : Nat) : Key := (0x2200 + n) * 256 + 7
abbrev CAM_HDR_UNCORR (n : Nat) : Key := (0x2200 + n) * 256 + 8
abbrev CAM_CRC_ERR (n : Nat) : Key := (0x2200 + n) * 256 + 9
abbrev CAM_LINES_DROPPED (n : Nat) : Key := (0x2200 + n) * 256 + 10
abbrev CAM_LINES_LOST (n : Nat) : Key := (0x2200 + n) * 256 + 11
abbrev CAM_WIDTH_ERR (n : Nat) : Key := (0x2200 + n) * 256 + 12
abbrev CAM_RATE_DROP (n : Nat) : Key := (0x2200 + n) * 256 + 13
abbrev CAM_OTHER_DROP (n : Nat) : Key := (0x2200 + n) * 256 + 14
abbrev CAM_RETX (n : Nat) : Key := (0x2200 + n) * 256 + 15
abbrev CAM_LINK_LOSS (n : Nat) : Key := (0x2200 + n) * 256 + 16
abbrev CAM_BUF_DROP (n : Nat) : Key := (0x2200 + n) * 256 + 17
abbrev CAM_I2C_SPEED (n : Nat) : Key := (0x2300 + n) * 256 + 1
abbrev CAM_I2C_REQ (n : Nat) : Key := (0x2300 + n) * 256 + 2
abbrev CAM_I2C_RESP (n : Nat) : Key := (0x2300 + n) * 256 + 3
abbrev CAM_FSYNC_LATENCY (n : Nat) : Key := (0x2300 + n) * 256 + 4
abbrev PCL_ENABLE (n : Nat) : Key := (0x2500 + n) * 256 + 1
abbrev PCL_PORT (n : Nat) : Key := (0x2500 + n) * 256 + 2
abbrev PCL_UDP (n : Nat) : Key := (0x2500 + n) * 256 + 3
abbrev PCL_MAX_POINTS (n : Nat) : Key := (0x2500 + n) * 256 + 4
abbrev PCL_SCAN_PERIOD (n : Nat) : Key := (0x2500 + n) * 256 + 5
abbrev PCL_SCAN_TOL (n : Nat) : Key := (0x2500 + n) * 256 + 6
abbrev PCL_SCAN_TIMEOUT (n : Nat) : Key := (0x2500 + n) * 256 + 7
abbrev PCL_SCANS (n : Nat) : Key := (0x2600 + n) * 256 + 1
abbrev PCL_PKT_BAD (n : Nat) : Key := (0x2600 + n) * 256 + 2
abbrev PCL_PKT_CHECK_ERR (n : Nat) : Key := (0x2600 + n) * 256 + 3
abbrev PCL_PKT_STALE (n : Nat) : Key := (0x2600 + n) * 256 + 4
abbrev PCL_PKT_LOST (n : Nat) : Key := (0x2600 + n) * 256 + 5
abbrev PCL_POINTS_DROPPED (n : Nat) : Key := (0x2600 + n) * 256 + 6
abbrev PCL_SCAN_LATE (n : Nat) : Key := (0x2600 + n) * 256 + 7
abbrev CTX_PORT (n : Nat) : Key := (0x2800 + n) * 256 + 1
abbrev CTX_CFA (n : Nat) : Key := (0x2800 + n) * 256 + 2
abbrev CTX_STAGE_EN (n : Nat) : Key := (0x2800 + n) * 256 + 3
abbrev CTX_BLACK_LEVEL (n : Nat) : Key := (0x2800 + n) * 256 + 4
abbrev CTX_DPC_THRESH (n : Nat) : Key := (0x2800 + n) * 256 + 5
abbrev CTX_DPC_LIST (n : Nat) : Key := (0x2800 + n) * 256 + 6
abbrev CTX_LSC_GRID (n : Nat) : Key := (0x2800 + n) * 256 + 7
abbrev CTX_WB_GAIN (n : Nat) : Key := (0x2800 + n) * 256 + 8
abbrev CTX_EDGE_THRESH (n : Nat) : Key := (0x2800 + n) * 256 + 9
abbrev CTX_CCM (n : Nat) : Key := (0x2800 + n) * 256 + 10
abbrev CTX_TONE_LUT (n : Nat) : Key := (0x2800 + n) * 256 + 11
abbrev CTX_CSC (n : Nat) : Key := (0x2800 + n) * 256 + 12
abbrev CTX_OUT_MODE (n : Nat) : Key := (0x2800 + n) * 256 + 13
abbrev CTX_OUT_FORMAT (n : Nat) : Key := (0x2800 + n) * 256 + 14
abbrev CTX_GROUP (n : Nat) : Key := (0x2800 + n) * 256 + 15
abbrev CTX_PARAM_HOLD (n : Nat) : Key := (0x2800 + n) * 256 + 16
abbrev CTX_STATS_EN (n : Nat) : Key := (0x2800 + n) * 256 + 17
abbrev CTX_STATS (n : Nat) : Key := (0x2A00 + n) * 256 + 1
abbrev CTX_FRAMES_DONE (n : Nat) : Key := (0x2B00 + n) * 256 + 1
abbrev CTX_OUT_DROP (n : Nat) : Key := (0x2B00 + n) * 256 + 2
abbrev CTX_OVERRUN (n : Nat) : Key := (0x2B00 + n) * 256 + 3
abbrev CTX_DPC_DYNAMIC (n : Nat) : Key := (0x2B00 + n) * 256 + 4
abbrev PIPE_RATE (n : Nat) : Key := (0x2C00 + n) * 256 + 1
abbrev PIPE_MEM_WAITING (n : Nat) : Key := (0x2C00 + n) * 256 + 2
abbrev PIPE_GOLDEN_DONE (n : Nat) : Key := (0x2C00 + n) * 256 + 3
abbrev T_NOW (n : Nat) : Key := (0x6000 + n) * 256 + 1
abbrev T_MODE (n : Nat) : Key := (0x6000 + n) * 256 + 2
abbrev T_SOURCE (n : Nat) : Key := (0x6000 + n) * 256 + 3
abbrev T_OFFSET (n : Nat) : Key := (0x6000 + n) * 256 + 4
abbrev T_RATE_ADJ (n : Nat) : Key := (0x6000 + n) * 256 + 5
abbrev T_STEP (n : Nat) : Key := (0x6000 + n) * 256 + 6
abbrev T_STATE (n : Nat) : Key := (0x6000 + n) * 256 + 7
abbrev T_SERVO_OFFSET (n : Nat) : Key := (0x6000 + n) * 256 + 8
abbrev T_STEPS (n : Nat) : Key := (0x6000 + n) * 256 + 9
abbrev T_REF_LOSSES (n : Nat) : Key := (0x6000 + n) * 256 + 10
abbrev PPS_WINDOW : Key := 0x601001
abbrev PPS_EDGE : Key := 0x601002
abbrev PPS_LOSS_N : Key := 0x601003
abbrev PPS_ACCEPTED : Key := 0x601004
abbrev PPS_REJECTED : Key := 0x601005
abbrev PPS_MISSED : Key := 0x601006
abbrev DOMAIN (n : Nat) : Key := (0x6011 + n) * 256 + 1
abbrev LOG_SYNC (n : Nat) : Key := (0x6011 + n) * 256 + 2
abbrev LOG_PDELAY (n : Nat) : Key := (0x6011 + n) * 256 + 3
abbrev DELAY_THRESH (n : Nat) : Key := (0x6011 + n) * 256 + 4
abbrev SYNC_TIMEOUT (n : Nat) : Key := (0x6011 + n) * 256 + 5
abbrev LINK_DELAY (n : Nat) : Key := (0x6011 + n) * 256 + 6
abbrev AS_CAPABLE (n : Nat) : Key := (0x6011 + n) * 256 + 7
abbrev SYNC_RX (n : Nat) : Key := (0x6011 + n) * 256 + 8
abbrev PDELAY_FAIL (n : Nat) : Key := (0x6011 + n) * 256 + 9
abbrev ANNOUNCE_IGN (n : Nat) : Key := (0x6011 + n) * 256 + 10
abbrev TIME_COMMIT : Key := 0x602001
abbrev COMMIT_PENDING : Key := 0x602002
abbrev COMMIT_TIME : Key := 0x602003
abbrev FSYNC_DIR : Key := 0x603001
abbrev TRG_ENABLE (n : Nat) : Key := (0x6100 + n) * 256 + 1
abbrev TRG_BASE (n : Nat) : Key := (0x6100 + n) * 256 + 2
abbrev TRG_START (n : Nat) : Key := (0x6100 + n) * 256 + 3
abbrev TRG_PERIOD (n : Nat) : Key := (0x6100 + n) * 256 + 4
abbrev TRG_WIDTH (n : Nat) : Key := (0x6100 + n) * 256 + 5
abbrev TRG_PINS (n : Nat) : Key := (0x6100 + n) * 256 + 6
abbrev TRG_POLARITY (n : Nat) : Key := (0x6100 + n) * 256 + 7
abbrev TRG_PORTS (n : Nat) : Key := (0x6100 + n) * 256 + 8
abbrev TRG_COMP (n : Nat) : Key := (0x6100 + n) * 256 + 9
abbrev TRG_DISPLAYS (n : Nat) : Key := (0x6100 + n) * 256 + 10
abbrev TRG_FIRED (n : Nat) : Key := (0x6100 + n) * 256 + 11
abbrev TRG_SKIPPED (n : Nat) : Key := (0x6100 + n) * 256 + 12
abbrev TRG_LAST_INSTANT (n : Nat) : Key := (0x6100 + n) * 256 + 13
abbrev CAP_SOURCE (n : Nat) : Key := (0x6200 + n) * 256 + 1
abbrev CAP_COUNT (n : Nat) : Key := (0x6200 + n) * 256 + 2
abbrev CAP_RECORD (n : Nat) : Key := (0x6200 + n) * 256 + 3
abbrev WITHHOLD (n : Nat) : Key := 0x501000 + 1 + n
abbrev GATE_VALID (n : Nat) : Key := 0x501100 + 1 + n
abbrev GATE_NOT_VALID (n : Nat) : Key := 0x501200 + 1 + n
abbrev ABANDONED (n : Nat) : Key := 0x501300 + 1 + n
abbrev SAFE_STATE : Key := 0x501401
abbrev SAFE_ENTRIES : Key := 0x501402
abbrev GOOSE_SHIFT : Key := 0x502001
abbrev GOOSE_SAMPLES (n : Nat) : Key := 0x502100 + 1 + n
abbrev GOOSE_LOAD (n : Nat) : Key := 0x502200 + 1 + n
abbrev MON_GRAPH (n : Nat) : Key := (0x5100 + n) * 256 + 1
abbrev MON_ENTRY (n : Nat) : Key := (0x5100 + n) * 256 + 2
abbrev MON_BUDGET (n : Nat) : Key := (0x5100 + n) * 256 + 3
abbrev MON_ALIVE_MIN (n : Nat) : Key := (0x5100 + n) * 256 + 4
abbrev MON_ALIVE_MAX (n : Nat) : Key := (0x5100 + n) * 256 + 5
abbrev MON_LAST_US (n : Nat) : Key := (0x5100 + n) * 256 + 6
abbrev MON_MAX_US (n : Nat) : Key := (0x5100 + n) * 256 + 7
abbrev MON_OVERRUNS (n : Nat) : Key := (0x5100 + n) * 256 + 8
abbrev MON_ALIVE_FAULTS (n : Nat) : Key := (0x5100 + n) * 256 + 9
abbrev PARTNER (n : Nat) : Key := 0x503000 + 1 + n
abbrev OX_OCCURRENCES (n : Nat) : Key := 0x503100 + 1 + n
abbrev OX_SUSPECT_TIMER (n : Nat) : Key := 0x503200 + 1 + n
abbrev VEC_OCCURRENCES (n : Nat) : Key := 0x503300 + 1 + n
abbrev VEC_SUSPECT_TIMER (n : Nat) : Key := 0x503400 + 1 + n
abbrev CTRL_MISMATCHES (n : Nat) : Key := 0x503500 + 1 + n
abbrev DISSENTS (n : Nat) : Key := 0x503600 + 1 + n
abbrev RESYNCS : Key := 0x503604
abbrev RESTARTS : Key := 0x503701
abbrev REPLAYED_TILES : Key := 0x503702
abbrev SUSPECT : Key := 0x503801
abbrev TEST_PACKAGE : Key := 0x504001
abbrev TEST_LOAD_STATUS : Key := 0x504002
abbrev TEST_VERSION : Key := 0x504003
abbrev IFT_FAILED : Key := 0x504101
abbrev TEST_AGE (n : Nat) : Key := 0x504200 + 1 + n
abbrev SLOTS_RUN : Key := 0x504601
abbrev OVERDUE : Key := 0x504602
abbrev GOLDEN_CTX (n : Nat) : Key := (0x5050 + n) * 256 + 1
abbrev GOLDEN_PASS (n : Nat) : Key := (0x5050 + n) * 256 + 2
abbrev GOLDEN_INCOMPLETE (n : Nat) : Key := (0x5050 + n) * 256 + 3
abbrev GOLDEN_MISMATCHES (n : Nat) : Key := (0x5050 + n) * 256 + 4
abbrev GOLDEN_LAST_US (n : Nat) : Key := (0x5050 + n) * 256 + 5
abbrev FREEZE_MODE (n : Nat) : Key := (0x5060 + n) * 256 + 1
abbrev FROZEN_FRAMES (n : Nat) : Key := (0x5060 + n) * 256 + 2
abbrev FIRST_SOURCE : Key := 0x500001
abbrev OVERFLOW : Key := 0x500002
abbrev LATCH_CLEAR : Key := 0x500003
abbrev ERR_N_LOW : Key := 0x500004
abbrev DRAINED : Key := 0x500005
abbrev FAULT_COUNT (n : Nat) : Key := 0x500100 + 1 + n
abbrev REACTION (n : Nat) : Key := 0x500200 + 1 + n
abbrev PENDING (n : Nat) : Key := 0x500300 + 1 + n
abbrev ERR_HOLD (n : Nat) : Key := 0x500300 + 3 + n
abbrev HEALTH : Key := 0x500401
abbrev DRAIN_CAUSE : Key := 0x500402
abbrev SUSPECT_PIPE : Key := 0x500403
abbrev VENDOR : Key := 0x100001
abbrev ORDERING_CODE : Key := 0x100002
abbrev SERIAL : Key := 0x100003
abbrev DIE_STEP : Key := 0x100004
abbrev DICT_VERSION : Key := 0x100005
abbrev NODE_ID : Key := 0x101001
abbrev UDP_PORT : Key := 0x101002
abbrev CAN_DIALE : Key := 0x101003
abbrev PORT_CLASS (n : Nat) : Key := 0x101100 + 1 + n
abbrev DEPOT_EN : Key := 0x101108
abbrev REQUESTS (n : Nat) : Key := 0x102000 + 1 + n
abbrev ABORTS (n : Nat) : Key := 0x102000 + 4 + n
abbrev DISCARDED : Key := 0x102007
abbrev M_DISCARDED : Key := 0x102008
abbrev TIMEOUTS : Key := 0x102009
abbrev BROADCAST_DROP : Key := 0x10200A
abbrev RESET_CMD : Key := 0x103001
abbrev OWNERS (n : Nat) : Key := 0x104000 + 1 + n
abbrev NET_ENABLE (n : Nat) : Key := (0x6800 + n) * 256 + 1
abbrev NET_RATE (n : Nat) : Key := (0x6800 + n) * 256 + 2
abbrev NET_ROLE (n : Nat) : Key := (0x6800 + n) * 256 + 3
abbrev NET_MAC (n : Nat) : Key := (0x6800 + n) * 256 + 4
abbrev NET_IPV4 (n : Nat) : Key := (0x6800 + n) * 256 + 5
abbrev NET_IPV4_PREFIX (n : Nat) : Key := (0x6800 + n) * 256 + 6
abbrev NET_IPV6 (n : Nat) : Key := (0x6800 + n) * 256 + 7
abbrev NET_LINK_STATE (n : Nat) : Key := (0x6800 + n) * 256 + 8
abbrev NET_LINK_LOSSES (n : Nat) : Key := (0x6800 + n) * 256 + 9
abbrev NET_RX_FRAMES (n : Nat) : Key := (0x6800 + n) * 256 + 10
abbrev NET_TX_FRAMES (n : Nat) : Key := (0x6800 + n) * 256 + 11
abbrev NET_RX_DISCARDED (n : Nat) : Key := (0x6800 + n) * 256 + 12
abbrev NET_TX_DISCARDED (n : Nat) : Key := (0x6800 + n) * 256 + 13
abbrev CAN_ENABLE (n : Nat) : Key := (0x6808 + n) * 256 + 1
abbrev CAN_NOM_RATE (n : Nat) : Key := (0x6808 + n) * 256 + 2
abbrev CAN_DATA_RATE (n : Nat) : Key := (0x6808 + n) * 256 + 3
abbrev CAN_ERR_STATE (n : Nat) : Key := (0x6808 + n) * 256 + 4
abbrev CAN_BUS_OFFS (n : Nat) : Key := (0x6808 + n) * 256 + 5
abbrev CAN_TX_FRAMES (n : Nat) : Key := (0x6808 + n) * 256 + 6
abbrev CAN_RX_FRAMES (n : Nat) : Key := (0x6808 + n) * 256 + 7
abbrev TSN_GCL (n : Nat) : Key := (0x6810 + n) * 256 + 1
abbrev TSN_CYCLE_BASE (n : Nat) : Key := (0x6810 + n) * 256 + 2
abbrev TSN_QBV_EN (n : Nat) : Key := (0x6810 + n) * 256 + 3
abbrev TSN_IDLE_SLOPE (n : Nat) : Key := (0x6810 + n) * 256 + 4
abbrev TSN_QCI_TABLE (n : Nat) : Key := (0x6810 + n) * 256 + 5
abbrev TSN_QCI_DEFAULT (n : Nat) : Key := (0x6810 + n) * 256 + 6
abbrev TSN_GATE_DROPS (n : Nat) : Key := (0x6810 + n) * 256 + 7
abbrev TSN_QCI_DROPS (n : Nat) : Key := (0x6810 + n) * 256 + 8
abbrev STR_ENABLE (n : Nat) : Key := (0x6900 + n) * 256 + 1
abbrev STR_PORT (n : Nat) : Key := (0x6900 + n) * 256 + 2
abbrev STR_DEST_MAC (n : Nat) : Key := (0x6900 + n) * 256 + 3
abbrev STR_DEST_IP (n : Nat) : Key := (0x6900 + n) * 256 + 4
abbrev STR_SRC_UDP (n : Nat) : Key := (0x6900 + n) * 256 + 5
abbrev STR_DST_UDP (n : Nat) : Key := (0x6900 + n) * 256 + 6
abbrev STR_VLAN1 (n : Nat) : Key := (0x6900 + n) * 256 + 7
abbrev STR_FRER (n : Nat) : Key := (0x6900 + n) * 256 + 8
abbrev STR_DEST_MAC2 (n : Nat) : Key := (0x6900 + n) * 256 + 9
abbrev STR_VLAN2 (n : Nat) : Key := (0x6900 + n) * 256 + 10
abbrev STR_CAN_ID (n : Nat) : Key := (0x6900 + n) * 256 + 11
abbrev STR_SEQ (n : Nat) : Key := (0x6900 + n) * 256 + 12
abbrev STR_SENT (n : Nat) : Key := (0x6900 + n) * 256 + 13
abbrev STR_TX_DROP (n : Nat) : Key := (0x6900 + n) * 256 + 14
abbrev LW_DEST_MAC : Key := 0x6A0001
abbrev LW_DEST_IP : Key := 0x6A0002
abbrev LW_UDP : Key := 0x6A0003
abbrev LW_VLAN1 : Key := 0x6A0004
abbrev LW_VLAN2 : Key := 0x6A0005
abbrev LW_CAN_ID : Key := 0x6A0006
abbrev LW_SENT : Key := 0x6A0007
abbrev DSP_ENABLE (n : Nat) : Key := (0x4800 + n) * 256 + 1
abbrev DSP_GEAR (n : Nat) : Key := (0x4800 + n) * 256 + 2
abbrev DSP_H_ACTIVE (n : Nat) : Key := (0x4800 + n) * 256 + 3
abbrev DSP_V_ACTIVE (n : Nat) : Key := (0x4800 + n) * 256 + 4
abbrev DSP_H_TOTAL (n : Nat) : Key := (0x4800 + n) * 256 + 5
abbrev DSP_V_TOTAL (n : Nat) : Key := (0x4800 + n) * 256 + 6
abbrev DSP_V_START (n : Nat) : Key := (0x4800 + n) * 256 + 7
abbrev DSP_PIXEL_CLK (n : Nat) : Key := (0x4800 + n) * 256 + 8
abbrev DSP_BACKGROUND (n : Nat) : Key := (0x4800 + n) * 256 + 9
abbrev DSP_MARKER_EN (n : Nat) : Key := (0x4800 + n) * 256 + 10
abbrev DSP_MARKER_POS (n : Nat) : Key := (0x4800 + n) * 256 + 11
abbrev DSP_FREEZE_N (n : Nat) : Key := (0x4800 + n) * 256 + 12
abbrev DSP_LINK_STATE (n : Nat) : Key := (0x4800 + n) * 256 + 13
abbrev DSP_OUT_SIGNATURE (n : Nat) : Key := (0x4800 + n) * 256 + 14
abbrev DSP_FRAMES (n : Nat) : Key := (0x4800 + n) * 256 + 15
abbrev DSP_VSYNC_MISSED (n : Nat) : Key := (0x4800 + n) * 256 + 16
abbrev DSP_UNDERRUN (n : Nat) : Key := (0x4800 + n) * 256 + 17
abbrev DSP_LAG_ROWS (n : Nat) : Key := (0x4800 + n) * 256 + 18
abbrev DSP_FREEZES (n : Nat) : Key := (0x4800 + n) * 256 + 19
abbrev DSP_LINK_LOSSES (n : Nat) : Key := (0x4800 + n) * 256 + 20
abbrev PLN_ENABLE (n : Nat) : Key := (0x4810 + n) * 256 + 1
abbrev PLN_SOURCE (n : Nat) : Key := (0x4810 + n) * 256 + 2
abbrev PLN_SRC_RECT (n : Nat) : Key := (0x4810 + n) * 256 + 3
abbrev PLN_DST_POS (n : Nat) : Key := (0x4810 + n) * 256 + 4
abbrev PLN_MODE (n : Nat) : Key := (0x4810 + n) * 256 + 5
abbrev PLN_ALPHA (n : Nat) : Key := (0x4810 + n) * 256 + 6
abbrev PLN_FILL (n : Nat) : Key := (0x4810 + n) * 256 + 7
abbrev PLN_STALE_FRAMES (n : Nat) : Key := (0x4810 + n) * 256 + 8
abbrev MARKER_BITMAP : Key := 0x484001
abbrev MARKER_FG : Key := 0x484002
abbrev MARKER_BG : Key := 0x484003
abbrev LIFECYCLE : Key := 0x700001
abbrev SEC_FUSES : Key := 0x700002
abbrev KEY_REVOKED : Key := 0x700003
abbrev CUSTOMER_KEY : Key := 0x700101
abbrev FW_IMAGE : Key := 0x701001
abbrev FW_LOAD_STATUS : Key := 0x701002
abbrev FW_UPDATE_STATE : Key := 0x701003
abbrev FW_VERSION : Key := 0x701004
abbrev FW_PENDING_VERSION : Key := 0x701005
abbrev IDENTITY_KEY : Key := 0x702001
abbrev IDENTITY_CERT : Key := 0x702002
abbrev ATTEST_NONCE : Key := 0x702101
abbrev ATTEST_REPORT : Key := 0x702102
abbrev RESET_KIND : Key := 0x800001
abbrev BOOT_STATUS : Key := 0x800002
abbrev BOOT_TIME : Key := 0x800003
abbrev STORE_LOST : Key := 0x800004
abbrev RESETS_pin : Key := 0x800101
abbrev RESETS_command : Key := 0x800102
abbrev RESETS_fault : Key := 0x800103
abbrev STANDBY_CMD : Key := 0x801001
abbrev WAKE_SRC : Key := 0x801002
abbrev CAN_WAKE_ID : Key := 0x801003
abbrev WAKE_CAUSE : Key := 0x801004
abbrev STANDBY_ENTRIES : Key := 0x801005
abbrev REACTIVATE_FAIL : Key := 0x801006
abbrev TJ_LIVE (n : Nat) : Key := 0x802000 + 1 + n
abbrev TJ_MAX : Key := 0x802006
abbrev TJ_HIGH : Key := 0x802007
abbrev PACE_SET : Key := 0x803001
abbrev CORE_V_REQ : Key := 0x803002
abbrev CORE_V_READ : Key := 0x803003
abbrev CORE_I_READ : Key := 0x803004
abbrev AVS_ERRORS : Key := 0x803005
abbrev RAIL_MV (n : Nat) : Key := 0x803100 + 1 + n

end Reg

end Sys2Proof.Machine
end

