-- ==== Sys2Proof/Machine/Ops.lean ====
section
/-! DEFINITION. The named operations over State: dictionary values, sparse stores, DRAM bytes, time, free values,
unit numbers, what leaves the device. -/

namespace Sys2Proof

/-- A unit's number. -/
def UnitRef.id : UnitRef → Nat
  | .ox b => b.val
  | .vec v => 32 + v.val
  | .mule m => 40 + m.val
  | .goose r => 56 + r.val

/-- A unit's region (R21, R22). -/
def UnitRef.region : UnitRef → Nat
  | .ox b => b.val / 8
  | .vec v => v.val / 2
  | .mule m => m.val / 4
  | .goose r => r.val

end Sys2Proof

namespace Sys2Proof.Machine

open Sys2Proof

/-! ## Dictionary values -/

/-- The value in force of a dictionary entry (R17, R464). -/
def State.r (s : State) (k : Key) : Nat := sget dictDefault s.regs k

/-- Puts a dictionary value in force. -/
def State.setR (s : State) (k : Key) (v : Nat) : State := { s with regs := sset dictDefault s.regs k v }

/-- Adds to a counter, which saturates at its type's largest value (R426, R364, R337). -/
def State.bumpBy (s : State) (k : Key) (n : Nat) : State := s.setR k (min (dictMax k) (s.r k + n))

/-- Adds 1 to a counter. -/
def State.bump (s : State) (k : Key) : State := s.bumpBy k 1

/-- The value in force as a signed number of `w` bits. -/
def State.rI (s : State) (w : Nat) (k : Key) : Int := signed w (s.r k)

/-- What an entry reads back: its staged value if one is staged (R18). -/
def State.rStaged (s : State) (k : Key) : Nat := (sfind k s.staged).getD (s.r k)

/-- 16-bit little-endian words. -/
def words16 (l : List Int) : Bytes := l.flatMap fun v => leBytes 2 (unsigned 16 v)

/-- The default bytes of a DOMAIN or string entry (R17); the marker's pictogram is a free value (R513). -/
def blobDefault (k : Key) : Bytes :=
  let i := k / 256
  if 0x2800 ≤ i ∧ i ≤ 0x2823 then
    match k % 256 with
    | 7 => (List.replicate 4356 [0#8, 0x10#8]).flatten
    | 10 => words16 [4096, 0, 0, 0, 4096, 0, 0, 0, 4096, 0, 0, 0]
    | 11 => (List.range 257).flatMap fun n => leBytes 2 (min (256 * n) 65535)
    | 12 => words16 [871, 2929, 296, -469, -1579, 2048, 2048, -1860, -188, 0, 32768, 32768]
    | _ => []
  else if 0x2300 ≤ i ∧ i ≤ 0x2317 then (if k % 256 = 3 then [0#8, 0#8] else [])
  else if 0x6200 ≤ i ∧ i ≤ 0x620F then (if k % 256 = 3 then List.replicate 64 0#8 else [])
  else if 0x6800 ≤ i ∧ i ≤ 0x6802 then (if k % 256 = 7 then List.replicate 16 0#8 else [])
  else if i = 0x6810 ∨ i = 0x6811 then
    (if k % 256 = 4 then List.replicate 32 0#8
     else if k % 256 = 5 then
       (List.replicate 64 (List.replicate 6 0#8 ++ [0xFF#8, 0xFF#8] ++ List.replicate 8 0#8)).flatten
         ++ List.replicate 512 0#8
     else [])
  else if 0x6900 ≤ i ∧ i ≤ 0x691F then (if k % 256 = 4 then List.replicate 4 0#8 else [])
  else if k = 0x6A0002 then List.replicate 4 0xFF#8
  else if k = 0x484001 then (List.range 2048).map Config.pictogram
  else if k = 0x100001 then [0x43#8, 0x72#8, 0x69#8, 0x77#8, 0x79#8, 0x6E#8]
  else if k = 0x702101 then List.replicate 16 0#8
  else []

/-- The bytes in force of a DOMAIN or string entry. -/
def State.blob (s : State) (k : Key) : Bytes := sget blobDefault s.blobs k

/-- Puts bytes in force. -/
def State.setBlob (s : State) (k : Key) (v : Bytes) : State :=
  { s with blobs := sset blobDefault s.blobs k v }

/-- Whether a BOOLEAN entry in force reads 1. -/
def State.on (s : State) (k : Key) : Bool := s.r k ≠ 0

/-- Puts every staged value of `keys` in force together (R18, R460). -/
def State.applyStaged (s : State) (keys : Key → Bool) : State :=
  let s1 := { s with
    regs := s.staged.foldl (fun m (p : Nat × Nat) => if keys p.1 then sset dictDefault m p.1 p.2 else m) s.regs
    blobs := s.stagedBlobs.foldl (fun m (p : Nat × Bytes) => if keys p.1 then sset blobDefault m p.1 p.2 else m) s.blobs }
  { s1 with
    staged := s.staged.filter fun p => !keys p.1
    stagedBlobs := s.stagedBlobs.filter fun p => !keys p.1 }

/-! ## Sparse stores -/

/-- Reads one element of `ports`. -/
def State.port (s : State) (k : Nat) : CamPort := sget (fun _ => {}) s.ports k

/-- Writes one element of `ports`. -/
def State.setPort (s : State) (k : Nat) (v : CamPort) : State :=
  { s with ports := sset (fun _ => {}) s.ports k v }

/-- Reads one element of `ctxs`. -/
def State.ctx (s : State) (k : Nat) : Ctx := sget (fun _ => {}) s.ctxs k

/-- Writes one element of `ctxs`. -/
def State.setCtx (s : State) (k : Nat) (v : Ctx) : State :=
  { s with ctxs := sset (fun _ => {}) s.ctxs k v }

/-- Reads one element of `pipes`. -/
def State.pipe (s : State) (k : Nat) : Pipe := sget (fun _ => {}) s.pipes k

/-- Writes one element of `pipes`. -/
def State.setPipe (s : State) (k : Nat) (v : Pipe) : State :=
  { s with pipes := sset (fun _ => {}) s.pipes k v }

/-- Reads one element of `scans`. -/
def State.scan (s : State) (k : Nat) : Scan := sget (fun _ => {}) s.scans k

/-- Writes one element of `scans`. -/
def State.setScan (s : State) (k : Nat) (v : Scan) : State :=
  { s with scans := sset (fun _ => {}) s.scans k v }

/-- Reads one element of `slots`. -/
def State.slot (s : State) (k : Nat) : GraphSlot := sget (fun _ => {}) s.slots k

/-- Writes one element of `slots`. -/
def State.setSlot (s : State) (k : Nat) (v : GraphSlot) : State :=
  { s with slots := sset (fun _ => {}) s.slots k v }

/-- Reads one element of `units`. -/
def State.unit (s : State) (k : Nat) : UnitState := sget (fun _ => {}) s.units k

/-- Writes one element of `units`. -/
def State.setUnit (s : State) (k : Nat) (v : UnitState) : State :=
  { s with units := sset (fun _ => {}) s.units k v }

/-- Reads one element of `acc`. -/
def State.accE (s : State) (k : Nat) : AccEntry := sget (fun _ => {}) s.acc k

/-- Writes one element of `acc`. -/
def State.setAccE (s : State) (k : Nat) (v : AccEntry) : State :=
  { s with acc := sset (fun _ => {}) s.acc k v }

/-- Reads one element of `rows`. -/
def State.row (s : State) (k : Nat) : RowRegs := sget (fun _ => {}) s.rows k

/-- Writes one element of `rows`. -/
def State.setRow (s : State) (k : Nat) (v : RowRegs) : State :=
  { s with rows := sset (fun _ => {}) s.rows k v }

/-- Reads one element of `lanes`. -/
def State.laneV (s : State) (k : Nat) : (List (BitVec 32)) := sget (fun _ => []) s.lanes k

/-- Writes one element of `lanes`. -/
def State.setLaneV (s : State) (k : Nat) (v : (List (BitVec 32))) : State :=
  { s with lanes := sset (fun _ => []) s.lanes k v }

/-- Reads one element of `gooses`. -/
def State.goose (s : State) (k : Nat) : Goose := sget (fun _ => {}) s.gooses k

/-- Writes one element of `gooses`. -/
def State.setGoose (s : State) (k : Nat) (v : Goose) : State :=
  { s with gooses := sset (fun _ => {}) s.gooses k v }

/-- Reads one element of `lines`. -/
def State.set (s : State) (k : Nat) : (List CacheLine) := sget (fun _ => []) s.lines k

/-- Writes one element of `lines`. -/
def State.setSet (s : State) (k : Nat) (v : (List CacheLine)) : State :=
  { s with lines := sset (fun _ => []) s.lines k v }

/-- Reads one element of `plru`. -/
def State.plruOf (s : State) (k : Nat) : Nat := sget (fun _ => 0) s.plru k

/-- Writes one element of `plru`. -/
def State.setPlruOf (s : State) (k : Nat) (v : Nat) : State :=
  { s with plru := sset (fun _ => 0) s.plru k v }

/-- Reads one element of `wins`. -/
def State.win (s : State) (k : Nat) : Win := sget (fun _ => {}) s.wins k

/-- Writes one element of `wins`. -/
def State.setWin (s : State) (k : Nat) (v : Win) : State :=
  { s with wins := sset (fun _ => {}) s.wins k v }

/-- Reads one element of `mons`. -/
def State.mon (s : State) (k : Nat) : Mon := sget (fun _ => {}) s.mons k

/-- Writes one element of `mons`. -/
def State.setMon (s : State) (k : Nat) (v : Mon) : State :=
  { s with mons := sset (fun _ => {}) s.mons k v }

/-- Reads one element of `disp`. -/
def State.dsp (s : State) (k : Nat) : Disp := sget (fun _ => {}) s.disp k

/-- Writes one element of `disp`. -/
def State.setDsp (s : State) (k : Nat) (v : Disp) : State :=
  { s with disp := sset (fun _ => {}) s.disp k v }

/-- Reads one element of `sram`. -/
def State.sramErr (s : State) (k : Nat) : Nat := sget (fun _ => 0) s.sram k

/-- Writes one element of `sram`. -/
def State.setSramErr (s : State) (k : Nat) (v : Nat) : State :=
  { s with sram := sset (fun _ => 0) s.sram k v }

/-- Reads one element of `dramErr`. -/
def State.burstErr (s : State) (k : Nat) : BurstErr := sget (fun _ => []) s.dramErr k

/-- Writes one element of `dramErr`. -/
def State.setBurstErr (s : State) (k : Nat) (v : BurstErr) : State :=
  { s with dramErr := sset (fun _ => []) s.dramErr k v }

/-! ## DRAM bytes (R237): a byte that nothing has written reads 0 (R516) -/

/-- One byte of DRAM. -/
def State.memByte (s : State) (a : Nat) : Byte := sget (fun _ => 0#8) s.mem a

/-- Writes one byte of DRAM. -/
def State.setMemByte (s : State) (a : Nat) (b : Byte) : State :=
  { s with mem := sset (fun _ => 0#8) s.mem a b }

/-- `n` bytes of DRAM from an address. -/
def State.memRead (s : State) (a n : Nat) : Bytes := (List.range n).map fun i => s.memByte (a + i)

/-- The cells of a list of bytes at rising addresses, those that read 0 left out. -/
def memCells : Nat → Bytes → List Host.Cell
  | _, [] => []
  | a, b :: t => if b = 0#8 then memCells (a + 1) t else (a, b) :: memCells (a + 1) t

/-- Stores a list of bytes at rising addresses. -/
def memStore (m : List Host.Cell) (a : Nat) (bs : Bytes) : List Host.Cell :=
  m.filter (fun p => decide (p.1 < a)) ++ (memCells a bs ++ m.filter fun p => decide (a + bs.length ≤ p.1))

/-- Writes bytes to DRAM from an address. -/
def State.memWrite (s : State) (a : Nat) (bs : Bytes) : State := { s with mem := memStore s.mem a bs }

/-- The memory's canonical form. -/
abbrev Memory.wf (m : List Host.Cell) : Prop := swf (fun _ => 0#8) m = true

/-- The DRAM capacity in bytes (R235, R236). -/
def State.capacity (s : State) : Nat := s.r Reg.DRAM_CONFIG_capacity * 2 ^ 30

/-! ## Time (R316) -/

/-- The value of time base Tn in ns. -/
def State.t (s : State) (n : Nat) : Nat := sget dflt0 s.rooster.ns n

/-- T3, by which every limit of the safety island is measured (R318). -/
def State.t3 (s : State) : Nat := s.t 3

/-- Sets time base Tn, clearing its fraction. -/
def State.setT (s : State) (n v : Nat) : State :=
  { s with rooster := { s.rooster with ns := sset dflt0 s.rooster.ns n (v % 2 ^ 64),
                                       frac := sset dflt0 s.rooster.frac n 0 } }

/-! ## Free values (notes/assumptions/2.md) -/

/-- Moves the free-value counter on. -/
def State.nextFree (s : State) : State := { s with free := s.free + 1 }

/-! ## Units (R21, R391: numbered in the order of the test-age entries) -/

/-- The region of a unit number. -/
def regionOf (u : Nat) : Nat :=
  if u < 32 then u / 8 else if u < 40 then (u - 32) / 2 else if u < 56 then (u - 40) / 4 else u - 56

/-! ## What leaves the device -/

/-- Sends something on a port. -/
def State.emit (s : State) (o : Out) : State := { s with wire := s.wire ++ [o] }

/-- Whether the chip is drained (R433). -/
def State.drained (s : State) : Bool := s.on Reg.DRAINED

/-- Whether the device is in the safe state (R338). -/
def State.safe (s : State) : Bool := s.on Reg.SAFE_STATE

/-- The class of a receiving port (R19): 0 A, 1 S, 2 M. -/
def portClass (p : Nat) : Nat := if p = 0 ∨ p = 3 then 0 else if p = 2 then 2 else 1

end Sys2Proof.Machine
end

