-- ==== Sys2Proof/Machine/Clock.lean ====
section
/-! DEFINITION. One cycle of Rooster (R316, R319): what the block does when no command waits
(notes/assumptions/7.md). -/

namespace Sys2Proof.Machine

open Sys2Proof

/-- The advance of base Tn in one 2 ns cycle, in units of 2^-32 ns: 2 ns times 1 + RATE_ADJ * 2^-10 * 10^-9. Where that is
no whole number the spec states no rounding (notes/assumptions/70.md). -/
def cycleAdvance (s : State) (n : Nat) : Nat :=
  let r := s.rI 32 (Reg.T_RATE_ADJ n)
  let x := r * 2 ^ 23
  ((2 : Int) ^ 33 + x / 10 ^ 9 + if x % 10 ^ 9 ≠ 0 ∧ Config.rateUp r then 1 else 0).toNat

/-- The base a base follows, if it follows one (R319): T1 and T2 in mode 2 follow T0. -/
def followSource (s : State) (n : Nat) : Option Nat :=
  if 4 ≤ n ∧ s.r (Reg.T_MODE n) = 1 then some (s.r (Reg.T_SOURCE n))
  else if (n = 1 ∨ n = 2) ∧ s.r (Reg.T_MODE n) = 2 then some 0
  else none

/-- Advances a base that runs on its own. -/
def advanceBase (n : Nat) (s : State) : State :=
  match followSource s n with
  | some _ => s
  | none =>
    let v := sget dflt0 s.rooster.ns n * 2 ^ 32 + sget dflt0 s.rooster.frac n + cycleAdvance s n
    { s with rooster := { s.rooster with
        ns := sset dflt0 s.rooster.ns n (v / 2 ^ 32 % 2 ^ 64)
        frac := sset dflt0 s.rooster.frac n (v % 2 ^ 32) } }

/-- Puts a following base at its source plus OFFSET (R319). -/
def followBase (n : Nat) (s : State) : State :=
  match followSource s n with
  | some src => s.setT n (unsigned 64 ((s.t src : Int) + s.rI 64 (Reg.T_OFFSET n)))
  | none => s

/-- Every following base takes its source's value; T1 and T2 before T4 to T7, which may follow them. -/
def followAll (s : State) : State := forEach (List.range 8) followBase s

/-- One 2 ns cycle; a chip that is off or held in reset counts nothing. -/
def tick (s : State) : State :=
  if s.sys.phase = .off ∨ s.sys.phase = .heldInReset then s
  else followAll (forEach (List.range 8) advanceBase s)

end Sys2Proof.Machine
end

