-- ==== Sys2Proof/Machine/Crypto.lean ====
section
/-! DEFINITION. SHA-256 (FIPS 180-4) and ECDSA P-256 verification (FIPS 186-4), which R137, R394, R525, R531
and R532 use; taken from the published standards (notes/assumptions/8.md). -/

namespace Sys2Proof.Machine

open Sys2Proof

/-- The round constants of SHA-256. -/
def shaK : List (BitVec 32) := [
  0x428A2F98#32, 0x71374491#32, 0xB5C0FBCF#32, 0xE9B5DBA5#32, 0x3956C25B#32, 0x59F111F1#32,
  0x923F82A4#32, 0xAB1C5ED5#32, 0xD807AA98#32, 0x12835B01#32, 0x243185BE#32, 0x550C7DC3#32,
  0x72BE5D74#32, 0x80DEB1FE#32, 0x9BDC06A7#32, 0xC19BF174#32, 0xE49B69C1#32, 0xEFBE4786#32,
  0x0FC19DC6#32, 0x240CA1CC#32, 0x2DE92C6F#32, 0x4A7484AA#32, 0x5CB0A9DC#32, 0x76F988DA#32,
  0x983E5152#32, 0xA831C66D#32, 0xB00327C8#32, 0xBF597FC7#32, 0xC6E00BF3#32, 0xD5A79147#32,
  0x06CA6351#32, 0x14292967#32, 0x27B70A85#32, 0x2E1B2138#32, 0x4D2C6DFC#32, 0x53380D13#32,
  0x650A7354#32, 0x766A0ABB#32, 0x81C2C92E#32, 0x92722C85#32, 0xA2BFE8A1#32, 0xA81A664B#32,
  0xC24B8B70#32, 0xC76C51A3#32, 0xD192E819#32, 0xD6990624#32, 0xF40E3585#32, 0x106AA070#32,
  0x19A4C116#32, 0x1E376C08#32, 0x2748774C#32, 0x34B0BCB5#32, 0x391C0CB3#32, 0x4ED8AA4A#32,
  0x5B9CCA4F#32, 0x682E6FF3#32, 0x748F82EE#32, 0x78A5636F#32, 0x84C87814#32, 0x8CC70208#32,
  0x90BEFFFA#32, 0xA4506CEB#32, 0xBEF9A3F7#32, 0xC67178F2#32]

/-- The initial hash value of SHA-256. -/
def shaH : List (BitVec 32) := [
  0x6A09E667#32, 0xBB67AE85#32, 0x3C6EF372#32, 0xA54FF53A#32, 0x510E527F#32, 0x9B05688C#32,
  0x1F83D9AB#32, 0x5BE0CD19#32]

/-- Rotation to the right. -/
def rotr (x : BitVec 32) (n : Nat) : BitVec 32 := x.rotateRight n

/-- The message schedule, newest word first. -/
def shaSchedule : Nat → List (BitVec 32) → List (BitVec 32)
  | 0, w => w
  | n + 1, w =>
    let a := nth 0#32 w 1
    let b := nth 0#32 w 14
    let s1 := rotr a 17 ^^^ rotr a 19 ^^^ (a >>> 10)
    let s0 := rotr b 7 ^^^ rotr b 18 ^^^ (b >>> 3)
    shaSchedule n ((s1 + nth 0#32 w 6 + s0 + nth 0#32 w 15) :: w)

/-- One round on the eight working variables. -/
def shaRound (v : List (BitVec 32)) (kw : BitVec 32 × BitVec 32) : List (BitVec 32) :=
  match v with
  | [a, b, c, d, e, f, g, h] =>
    let t1 := h + (rotr e 6 ^^^ rotr e 11 ^^^ rotr e 25) + ((e &&& f) ^^^ (~~~e &&& g)) + kw.1 + kw.2
    let t2 := (rotr a 2 ^^^ rotr a 13 ^^^ rotr a 22) + ((a &&& b) ^^^ (a &&& c) ^^^ (b &&& c))
    [t1 + t2, a, b, c, d + t1, e, f, g]
  | l => l

/-- Sixteen big-endian words of a 64-byte block. -/
def shaWords (b : Bytes) : List (BitVec 32) := (List.range 16).map fun i => BitVec.ofNat 32 (beVal (slice b (4 * i) 4))

/-- One block. -/
def shaBlock (h : List (BitVec 32)) (b : Bytes) : List (BitVec 32) :=
  let w := (shaSchedule 48 (shaWords b).reverse).reverse
  List.zipWith (· + ·) h ((shaK.zip w).foldl shaRound h)

/-- The padded message. -/
def shaPad (b : Bytes) : Bytes :=
  b ++ [0x80#8] ++ List.replicate ((119 - b.length % 64) % 64) 0#8 ++ beBytes 8 (8 * b.length)

/-- SHA-256 of a byte string. -/
def sha256 (b : Bytes) : Bytes :=
  let p := shaPad b
  let h := (List.range (p.length / 64)).foldl (fun h i => shaBlock h (slice p (64 * i) 64)) shaH
  h.flatMap fun w => beBytes 4 w.toNat

/-! ## ECDSA on the curve P-256 -/

/-- The field's prime. -/
def p256 : Nat := 2 ^ 256 - 2 ^ 224 + 2 ^ 192 + 2 ^ 96 - 1

/-- The group's order. -/
def n256 : Nat := 0xFFFFFFFF00000000FFFFFFFFFFFFFFFFBCE6FAADA7179E84F3B9CAC2FC632551

/-- The curve's constant term. -/
def b256 : Nat := 0x5AC635D8AA3A93E7B3EBBD55769886BC651D06B0CC53B0F63BCE3C3E27D2604B

/-- The base point. -/
def g256 : Nat × Nat :=
  (0x6B17D1F2E12C4247F8BCE6E563A440F277037D812DEB33A0F4A13945D898C296,
   0x4FE342E2FE1A7F9B8EE7EB4A7C0F9E162BCE33576B315ECECBB6406837BF51F5)

/-- Modular power, by the exponent's bits from the top. -/
def powMod (a e m : Nat) : Nat :=
  (List.range 256).foldl (fun x i => let y := x * x % m; if bit e (255 - i) then y * a % m else y) 1

/-- Modular inverse for a prime modulus. -/
def invMod (a m : Nat) : Nat := powMod (a % m) (m - 2) m

/-- Modular subtraction. -/
def subMod (a b m : Nat) : Nat := (a + m - b % m) % m

/-- Sum of two points; none is the point at infinity. -/
def addPoint : Option (Nat × Nat) → Option (Nat × Nat) → Option (Nat × Nat)
  | none, q => q
  | q, none => q
  | some a, some b =>
    if a.1 = b.1 ∧ (a.2 + b.2) % p256 = 0 then none
    else
      let l := if a.1 = b.1 then (3 * a.1 * a.1 + (p256 - 3)) * invMod (2 * a.2) p256 % p256
        else subMod b.2 a.2 p256 * invMod (subMod b.1 a.1 p256) p256 % p256
      let x := subMod (l * l) (a.1 + b.1) p256
      some (x, subMod (l * subMod a.1 x p256) a.2 p256)

/-- A multiple of a point. -/
def mulPoint (k : Nat) (q : Nat × Nat) : Option (Nat × Nat) :=
  (List.range 256).foldl (fun r i =>
    let d := addPoint r r
    if bit k (255 - i) then addPoint d (some q) else d) none

/-- Whether a point lies on the curve. -/
def onCurve (q : Nat × Nat) : Bool :=
  decide (q.1 < p256 ∧ q.2 < p256) && decide (q.2 * q.2 % p256 = (q.1 * q.1 * q.1 + (p256 - 3) * q.1 + b256) % p256)

/-- Whether a 64-byte signature of a digest verifies against a 64-byte public key (all big-endian, R13). -/
def ecdsaVerify (key digest sig : Bytes) : Bool :=
  let q := (beVal (slice key 0 32), beVal (slice key 32 32))
  let r := beVal (slice sig 0 32)
  let s := beVal (slice sig 32 32)
  if key.length ≠ 64 ∨ sig.length ≠ 64 ∨ onCurve q = false ∨ r = 0 ∨ n256 ≤ r ∨ s = 0 ∨ n256 ≤ s then false
  else
    let w := invMod s n256
    match addPoint (mulPoint (beVal digest * w % n256) g256) (mulPoint (r * w % n256) q) with
    | none => false
    | some (x, _) => decide (x % n256 = r)

end Sys2Proof.Machine
end

