-- ==== Sys2Proof/Machine/Operands.lean ====
section
/-! DEFINITION. The number formats and every conversion between them (04 R79 to R101): decoding, rounding to
nearest with ties to even, the accumulation of one beat, the drain's conversion, block scales, lane arithmetic. -/

namespace Sys2Proof

/-- Width in bits of an element (R80, R82). -/
def Fmt.width : Fmt → Nat
  | .int4 | .fp4 => 4
  | .fp6 => 6
  | .int8 | .e4m3 | .e5m2 => 8
  | .int16 | .fp16 | .bf16 => 16
  | .fp32 | .int32 => 32

/-- Whether a format is an integer format. -/
def Fmt.isInt : Fmt → Bool
  | .int4 | .int8 | .int16 | .int32 => true
  | _ => false

/-- Whether a format is block-scaled (R84). -/
def Fmt.scaled : Fmt → Bool
  | .fp6 | .fp4 => true
  | _ => false

/-- Elements per beat per cell (R53); FP32 does not run in an Ox block. -/
def Fmt.perBeat : Fmt → Nat
  | .int4 | .fp4 => 16
  | .int8 | .e4m3 | .e5m2 | .fp6 => 8
  | .fp16 | .bf16 => 4
  | .int16 => 2
  | .fp32 | .int32 => 0

/-- The format of a format code (R113). -/
def fmtOfCode : Nat → Option Fmt
  | 0x01 => some .int4
  | 0x02 => some .int8
  | 0x03 => some .int16
  | 0x05 => some .e4m3
  | 0x06 => some .e5m2
  | 0x07 => some .fp16
  | 0x08 => some .bf16
  | 0x09 => some .fp32
  | 0x0A => some .fp6
  | 0x0B => some .fp4
  | 0x0C => some .int32
  | _ => none

/-- Shape of a float format: mantissa bits, exponent bits, bias (R82). -/
structure FShape where
  m : Nat
  e : Nat
  bias : Nat
  deriving DecidableEq, Repr

/-- The shape of each float format; an integer format has none. -/
def Fmt.shape : Fmt → FShape
  | .e4m3 => ⟨3, 4, 7⟩
  | .e5m2 => ⟨2, 5, 15⟩
  | .fp16 => ⟨10, 5, 15⟩
  | .bf16 => ⟨7, 8, 127⟩
  | .fp32 => ⟨23, 8, 127⟩
  | .fp6 => ⟨2, 3, 3⟩
  | .fp4 => ⟨1, 2, 1⟩
  | .int4 | .int8 | .int16 | .int32 => ⟨0, 0, 0⟩

/-- The code of the largest finite magnitude (R82). -/
def Fmt.maxCode : Fmt → Nat
  | .e4m3 => 0x7E
  | .e5m2 => 0x7B
  | .fp16 => 0x7BFF
  | .bf16 => 0x7F7F
  | .fp32 => 0x7F7FFFFF
  | .fp6 => 0x1F
  | .fp4 => 0x7
  | .int4 => 7
  | .int8 => 127
  | .int16 => 32767
  | .int32 => 2147483647

/-- The canonical NaN of a format that has NaNs (R82); 0 for an integer format (R97). -/
def Fmt.nanCode : Fmt → Nat
  | .e4m3 => 0x7F
  | .e5m2 => 0x7E
  | .fp16 => 0x7E00
  | .bf16 => 0x7FC0
  | .fp32 => 0x7FC00000
  | _ => 0

/-- Whether a format has infinities (R82). -/
def Fmt.hasInf : Fmt → Bool
  | .e5m2 | .fp16 | .bf16 | .fp32 => true
  | _ => false

end Sys2Proof

namespace Sys2Proof.Machine

open Sys2Proof

/-- An exact value: `fin neg m e` is (-1)^neg times m times 2^e. -/
inductive Num where
  | nan
  | inf (neg : Bool)
  | fin (neg : Bool) (m : Nat) (e : Int)
  deriving DecidableEq, Repr

/-- The value of a float code without its block's scale (R82, R83). -/
def decodeFloat (f : Fmt) (c : Nat) : Num :=
  let sh := f.shape
  let man := c % 2 ^ sh.m
  let ex := c / 2 ^ sh.m % 2 ^ sh.e
  let neg := bit c (sh.m + sh.e)
  if f.hasInf ∧ ex = 2 ^ sh.e - 1 then (if man = 0 then .inf neg else .nan)
  else if f = .e4m3 ∧ ex = 15 ∧ man = 7 then .nan
  else if ex = 0 then .fin neg man (1 - (sh.bias : Int) - sh.m)
  else .fin neg (2 ^ sh.m + man) ((ex : Int) - sh.bias - sh.m)

/-- The value of an integer as an exact value. -/
def numOfInt (v : Int) : Num := .fin (decide (v < 0)) v.natAbs 0

/-- The value of an element code without a scale. -/
def decodeElem (f : Fmt) (c : Nat) : Num :=
  if f.isInt then numOfInt (signed f.width c) else decodeFloat f c

/-- Multiplies by a power of two (R86, R91). -/
def Num.scale (x : Num) (k : Int) : Num :=
  match x with
  | .fin n m e => .fin n m (e + k)
  | y => y

/-- The value of an element of a block with scale byte `x` (R86, R87). -/
def decodeScaled (f : Fmt) (c x : Nat) : Num :=
  if f.scaled then (if x = 255 then .nan else (decodeElem f c).scale ((x : Int) - 127)) else decodeElem f c

/-- m times 2^e rounded to a whole number of 2^q, to nearest with ties to even (R96). -/
def roundGrid (m : Nat) (e q : Int) : Nat :=
  if q ≤ e then m * 2 ^ (e - q).toNat
  else
    let k := (q - e).toNat
    let d := m / 2 ^ k
    let r := m % 2 ^ k
    if 2 * r > 2 ^ k then d + 1
    else if 2 * r = 2 ^ k then (if d % 2 = 1 then d + 1 else d)
    else d

/-- The magnitude code of a finite value rounded to a float format, before any range check (R82, R96). -/
def roundMag (f : Fmt) (m : Nat) (e : Int) : Nat :=
  if m = 0 then 0
  else
    let sh := f.shape
    let emin : Int := 1 - (sh.bias : Int)
    let top := max ((Nat.log2 m : Int) + e) emin
    (top - emin).toNat * 2 ^ sh.m + roundGrid m e (top - sh.m)

/-- A signed magnitude code. -/
def signCode (f : Fmt) (neg : Bool) (mag : Nat) : Nat := if neg then mag + 2 ^ (f.width - 1) else mag

/-- Conversion into a float format, a finite value beyond the range saturating (R97). -/
def toFloat (f : Fmt) : Num → Nat
  | .nan => f.nanCode
  | .inf n => signCode f n (if f.hasInf then f.maxCode + 1 else f.maxCode)
  | .fin n m e => signCode f n (min (roundMag f m e) f.maxCode)

/-- Conversion into an integer format: rounding, then saturation; NaN gives 0 (R96, R97). -/
def toInt (f : Fmt) : Num → Int
  | .nan => 0
  | .inf n => if n then -(2 : Int) ^ (f.width - 1) else 2 ^ (f.width - 1) - 1
  | .fin n m e =>
    let v : Int := if n then -(roundGrid m e 0 : Int) else roundGrid m e 0
    max (-(2 : Int) ^ (f.width - 1)) (min v (2 ^ (f.width - 1) - 1))

/-- Conversion into any format without a scale (R97). -/
def toElem (f : Fmt) (x : Num) : Nat := if f.isInt then unsigned f.width (toInt f x) else toFloat f x

/-- Rounding of an arithmetic result to FP32, an overflow giving an infinity (R92, R101). -/
def toFp32 (x : Num) : BitVec 32 :=
  match x with
  | .fin n m e =>
    let c := roundMag .fp32 m e
    BitVec.ofNat 32 (signCode .fp32 n (if c > 0x7F7FFFFF then 0x7F800000 else c))
  | y => BitVec.ofNat 32 (toFloat .fp32 y)

/-- The value of an FP32 code. -/
def ofFp32 (c : BitVec 32) : Num := decodeFloat .fp32 c.toNat

/-- The exact product (R83, R92). -/
def Num.mul : Num → Num → Num
  | .nan, _ => .nan
  | _, .nan => .nan
  | .inf n, .inf k => .inf (n != k)
  | .inf n, .fin k m _ => if m = 0 then .nan else .inf (n != k)
  | .fin k m _, .inf n => if m = 0 then .nan else .inf (n != k)
  | .fin n m e, .fin k l g => .fin (n != k) (m * l) (e + g)

/-- A finite term as an integer count of 2^q, exact when q is at most its exponent. -/
def termInt (neg : Bool) (m : Nat) (e q : Int) : Int :=
  let v : Nat := if q ≤ e then m * 2 ^ (e - q).toNat else m / 2 ^ (q - e).toNat
  if neg then -(v : Int) else v

/-- The exact sum, with IEEE 754's sign of a zero sum under rounding to nearest (R101). -/
def Num.add : Num → Num → Num
  | .nan, _ => .nan
  | _, .nan => .nan
  | .inf n, .inf k => if n = k then .inf n else .nan
  | .inf n, .fin _ _ _ => .inf n
  | .fin _ _ _, .inf n => .inf n
  | .fin n m e, .fin k l g =>
    let q := min e g
    let v := termInt n m e q + termInt k l g q
    if v = 0 then .fin (n && k) 0 q else .fin (decide (v < 0)) v.natAbs q

/-- The opposite value. -/
def Num.neg : Num → Num
  | .nan => .nan
  | .inf n => .inf (!n)
  | .fin n m e => .fin (!n) m e

/-- Whether the first value is below the second; a NaN is below nothing. -/
def Num.lt : Num → Num → Bool
  | .nan, _ => false
  | _, .nan => false
  | .inf n, .inf k => n && !k
  | .inf n, .fin _ _ _ => n
  | .fin _ _ _, .inf n => !n
  | .fin n m e, .fin k l g => let q := min e g; decide (termInt n m e q < termInt k l g q)

/-! ## One beat of accumulation (R89 to R93) -/

/-- Element `i` of an operand latch. -/
def latchElem (f : Fmt) (w : BitVec 64) (i : Nat) : Nat := w.toNat / 2 ^ (f.width * i) % 2 ^ f.width

/-- The integer products of one beat (R89). -/
def intProducts (f : Fmt) (w b : BitVec 64) : List Int :=
  (List.range f.perBeat).map fun i => signed f.width (latchElem f w i) * signed f.width (latchElem f b i)

/-- The residue modulo 3 of an integer (R72). -/
def res3 (v : Int) : Nat := (v % 3).toNat

/-- The residue of a beat's sum of products, from the residues of the operands (R72). -/
def residueOfBeat (f : Fmt) (w b : BitVec 64) : Nat :=
  ((List.range f.perBeat).map fun i =>
    res3 (signed f.width (latchElem f w i)) * res3 (signed f.width (latchElem f b i))).sum % 3

/-- The exact products of one beat's elements, before any block scale (R90). -/
def floatProducts (f : Fmt) (w b : BitVec 64) : List Num :=
  (List.range f.perBeat).map fun i => Num.mul (decodeElem f (latchElem f w i)) (decodeElem f (latchElem f b i))

/-- The terms one beat adds. For a block-scaled format it is one term, the exact sum of the element products times
2^(xw + xa - 254) (R91), and a NaN when an operand's block is a NaN block (R92); for the others, each product (R90). -/
def floatTerms (f : Fmt) (w b : BitVec 64) (xw xa : Nat) : List Num :=
  if !f.scaled then floatProducts f w b
  else if xw = 255 ∨ xa = 255 then [.nan]
  else match floatProducts f w b with
    | [] => []
    | x :: t => [(t.foldl Num.add x).scale ((xw : Int) + (xa : Int) - 254)]

/-- The leading bit position of a nonzero finite term. -/
def Num.lead? : Num → Option Int
  | .fin _ m e => if m = 0 then none else some (Nat.log2 m + e)
  | _ => none

/-- The largest leading bit position of the terms. -/
def leadMax (l : List Num) : Option Int :=
  l.foldl (fun a x => match a, x.lead? with
    | none, y => y
    | some p, none => some p
    | some p, some q => some (max p q)) none

/-- The aligned, truncated sum of finite terms, in units of 2^q (R90). -/
def alignedSum (l : List Num) (q : Int) : Int :=
  (l.map fun x => match x with
    | .fin n m e => termInt n m e q
    | _ => 0).sum

/-- The sign of a zero sum: that of the terms when they agree, else free (R90 does not state it). -/
def zeroSign (l : List Num) : Bool :=
  let signs := l.map fun x => match x with
    | .fin n _ _ => n
    | _ => false
  if signs.all (fun b => !b) then false
  else if signs.all id then true
  else Config.zeroSumSign signs

/-- The aligned fixed-point sum of a beat (none when no finite term is nonzero), before rounding. -/
def floatSum (l : List Num) : Option (Int × Int) :=
  match leadMax l with
  | none => none
  | some p => some (alignedSum l (p - 48), p - 48)

/-- The infinities and NaN of a sum (R92): `some` when the sum is not a finite one. -/
def floatSpecial (l : List Num) : Option Num :=
  let pos := l.any fun x => x = .inf false
  let neg := l.any fun x => x = .inf true
  if l.any (fun x => x = .nan) || (pos && neg) then some .nan
  else if pos then some (.inf false)
  else if neg then some (.inf true)
  else none

/-- A fixed-point sum rounded once to FP32 (R90, R92). -/
def roundSum (l : List Num) (v q : Int) : BitVec 32 :=
  if v = 0 then toFp32 (.fin (zeroSign l) 0 0) else toFp32 (.fin (decide (v < 0)) v.natAbs q)

/-- Flips bits of a fixed-point sum's magnitude, as a defect of the adder does. -/
def flipInt (v : Int) (flip : Nat) : Int :=
  if v < 0 then -((v.natAbs ^^^ flip : Nat) : Int) else ((v.natAbs ^^^ flip : Nat) : Int)

/-- One integer accumulate: new value, and whether the residue check passes (R72, R89). `acc` none is the
first accumulate of an entry with a zero initial value (R57). -/
def intAccumulate (f : Fmt) (acc : Option (BitVec 32 × Nat)) (w b : BitVec 64) (flip : BitVec 32) :
    BitVec 32 × Nat × Bool :=
  let old : Int := match acc with
    | some a => a.1.toInt
    | none => 0
  let oldRes : Nat := match acc with
    | some a => a.2
    | none => 0
  let exact := old + (intProducts f w b).sum
  let wrapped := BitVec.ofInt 32 exact
  let carry := (exact - wrapped.toInt) / 2 ^ 32
  let new := wrapped ^^^ flip
  (new, res3 new.toInt, decide ((oldRes + residueOfBeat f w b) % 3 = res3 (new.toInt + carry)))

/-- The residue an accumulator entry of a float tile carries: its 32 bits read as an unsigned number, modulo 3. R52 and
R371 give every entry a residue and R73 does not say of what number a float entry's is taken (DESIGN CHOICE,
notes/assumptions/123.md). -/
def floatResidue (v : BitVec 32) : Nat := v.toNat % 3

/-- One float accumulate: new value, and whether the residue check of the fixed-point sum passes (R73, R90). When every
term is zero the sum is 0, here in units of 2^-149. -/
def floatAccumulate (f : Fmt) (acc : Option (BitVec 32 × Nat)) (w b : BitVec 64) (xw xa : Nat)
    (flip : BitVec 32) : BitVec 32 × Nat × Bool :=
  let prods := floatTerms f w b xw xa
  let terms := match acc with
    | some a => ofFp32 a.1 :: prods
    | none => prods
  match floatSpecial terms with
  | some x => let v := toFp32 x; (v, floatResidue v, true)
  | none =>
    let (v, q) := (floatSum terms).getD (0, -149)
    let v' := flipInt v flip.toNat
    let out := roundSum terms v' q
    (out, floatResidue out, decide (v % 3 = v' % 3))

/-- One accumulate of one cell (R53, R88). -/
def cellAccumulate (f : Fmt) (acc : Option (BitVec 32 × Nat)) (w b : BitVec 64) (xw xa : Nat)
    (flip : BitVec 32) : BitVec 32 × Nat × Bool :=
  if f.isInt then intAccumulate f acc w b flip else floatAccumulate f acc w b xw xa flip

/-! ## The drain (R95) -/

/-- The drain parameters of one output channel. -/
structure DrainParams where
  m : Int
  shift : Nat
  zeroPoint : Int
  f : BitVec 32
  lo : BitVec 32
  hi : BitVec 32
  deriving DecidableEq, Repr

/-- v divided by 2^k, to nearest with ties to even. -/
def roundShift (v : Int) (k : Nat) : Int :=
  let r := roundGrid v.natAbs 0 k
  if v < 0 then -(r : Int) else r

/-- Clamps an exact value; a NaN passes (R95 step 4). -/
def clampNum (x lo hi : Num) : Num := if x.lt lo then lo else if hi.lt x then hi else x

/-- acc times f in FP32: a finite overflow stays at the largest finite value (R97 and the text after it). -/
def scaleFp32 (a f : BitVec 32) : Num := decodeFloat .fp32 (toFloat .fp32 (Num.mul (ofFp32 a) (ofFp32 f)))

/-- One output value after clamping (R95 steps 1 to 4). -/
def drainValue (accInt : Bool) (out : Fmt) (p : DrainParams) (acc : BitVec 32) : Num :=
  if accInt && out.isInt then
    let r := roundShift (acc.toInt * p.m) (31 + p.shift) + p.zeroPoint
    clampNum (numOfInt r) (numOfInt p.lo.toInt) (numOfInt p.hi.toInt)
  else
    let a := if accInt then toFp32 (numOfInt acc.toInt) else acc
    let v := scaleFp32 a p.f
    if out.isInt then clampNum v (numOfInt p.lo.toInt) (numOfInt p.hi.toInt)
    else clampNum v (ofFp32 p.lo) (ofFp32 p.hi)

/-! ## Block scales (R98) -/

/-- The magnitude of a value for R98: an infinity counts as the largest finite FP32 value. -/
def magForScale : Num → Num
  | .inf _ => decodeFloat .fp32 0x7F7FFFFF
  | .fin _ m e => .fin false m e
  | .nan => .fin false 0 0

/-- The largest of some magnitudes. -/
def maxMag (l : List Num) : Num := l.foldl (fun a x => if a.lt (magForScale x) then magForScale x else a) (.fin false 0 0)

/-- The smallest s with a at most q times 2^s, for a nonzero a. -/
def scaleExp (f : Fmt) (a : Num) : Int :=
  match a, decodeFloat f f.maxCode with
  | .fin _ m e, .fin _ qm qe =>
    let s := ((Nat.log2 m : Int) + e) - ((Nat.log2 qm : Int) + qe)
    let cand := [s - 1, s, s + 1]
    (cand.find? fun k => !((Num.fin false qm (qe + k)).lt (.fin false m e))).getD (s + 1)
  | _, _ => 0

/-- An infinity as the largest finite FP32 value of its sign (R97). -/
def finiteOf : Num → Num
  | .inf n => match decodeFloat .fp32 0x7F7FFFFF with
    | .fin _ m e => .fin n m e
    | y => y
  | y => y

/-- The scale byte and the codes of one block's valid elements (R98). -/
def encodeBlock (f : Fmt) (l : List Num) : Nat × List Nat :=
  if l.any (fun x => x = .nan) then (255, l.map fun _ => 0)
  else
    let a := maxMag l
    let x : Nat := if a.lead? = none then 127 else (max 0 (min 254 (127 + scaleExp f a))).toNat
    (x, l.map fun v => toFloat f ((finiteOf v).scale (127 - (x : Int))))

/-! ## Lane arithmetic of a vector block (R100, R101) -/

/-- The smaller or larger of two FP32 values; a NaN gives the canonical NaN, and -0 is below +0. -/
def fpMinMax (isMin : Bool) (a b : BitVec 32) : BitVec 32 :=
  let x := ofFp32 a
  let y := ofFp32 b
  if x = .nan ∨ y = .nan then 0x7FC00000#32
  else
    let aFirst := if x.lt y then true else if y.lt x then false else a.getLsbD 31
    if aFirst = isMin then a else b

/-- One lane's FP32 operation (R100, R101). -/
def fpLane (op : VOp) (a b c : BitVec 32) : BitVec 32 :=
  match op with
  | .load | .store => toFp32 (ofFp32 a)
  | .add => toFp32 ((ofFp32 a).add (ofFp32 b))
  | .sub => toFp32 ((ofFp32 a).add (ofFp32 b).neg)
  | .mul => toFp32 ((ofFp32 a).mul (ofFp32 b))
  | .fma => toFp32 (((ofFp32 a).mul (ofFp32 b)).add (ofFp32 c))
  | .min => fpMinMax true a b
  | .max => fpMinMax false a b
  | .cmp => Config.compareCode ((ofFp32 a).lt (ofFp32 b))
  | .scale n => toFp32 ((ofFp32 a).scale n)

/-- One lane's INT32 operation, wrapping modulo 2^32 (R100). -/
def intLane (op : VOp) (a b c : BitVec 32) : BitVec 32 :=
  match op with
  | .load | .store => a
  | .add => a + b
  | .sub => a - b
  | .mul => a * b
  | .fma => a * b + c
  | .min => if a.toInt ≤ b.toInt then a else b
  | .max => if a.toInt ≤ b.toInt then b else a
  | .cmp => Config.compareCode (decide (a.toInt < b.toInt))
  | .scale n => if 0 ≤ n then a <<< n.toNat else Config.freeWord a.toNat

/-- The load conversion of a lane: the integer formats widen to INT32, the others to FP32, a block-scaled element with
its block's scale byte (R86, R87, R97, R99). -/
def laneLoad (f : Fmt) (code : BitVec 32) (scale : Nat) : BitVec 32 :=
  if f.isInt then BitVec.ofInt 32 (signed f.width code.toNat) else toFp32 (decodeScaled f code.toNat scale)

/-- A lane's value as a number. -/
def laneNum (int : Bool) (v : BitVec 32) : Num := if int then numOfInt v.toInt else ofFp32 v

/-- The store conversion of up to 32 lanes of one block: their codes and, for a block-scaled format, the scale byte
chosen under R98 (R97). -/
def laneStore (int : Bool) (f : Fmt) (l : List (BitVec 32)) : List (BitVec 32) × List Nat :=
  if f.scaled then
    let x := encodeBlock f (l.map (laneNum int))
    (x.2.map (BitVec.ofNat 32), [x.1])
  else (l.map fun v => BitVec.ofNat 32 (toElem f (laneNum int v)), [])

end Sys2Proof.Machine
end

