-- ==== Sys2Proof/Machine/Package.lean ====
section
/-! DEFINITION. Reading a graph package (05 R136 to R138, R150, R182, R187, R192, R210, R357, R482, R506,
R557 to R559) and the load check of R139, reason by reason in the order of its table. -/

namespace Sys2Proof.Machine

open Sys2Proof

/-! ## Sections -/

/-- A directory entry (R137). -/
structure DirEntry where
  ty : Nat
  off : Nat
  size : Nat
  deriving DecidableEq, Repr

/-- The directory. -/
def directory (b : Bytes) : List DirEntry :=
  (List.range (field b 0x16 1)).map fun i =>
    ⟨field b (32 + 16 * i) 1, field b (32 + 16 * i + 4) 4, field b (32 + 16 * i + 8) 4⟩

/-- The bytes of a section; none when it is absent. -/
def sectionOf (b : Bytes) (ty : Nat) : Bytes :=
  match (directory b).find? fun d => d.ty = ty with
  | some d => slice b d.off d.size
  | none => []

/-- Whether a section is present. -/
def hasSection (b : Bytes) (ty : Nat) : Bool := (directory b).any fun d => d.ty = ty

/-- Entry `i` of a section of `n`-byte entries. -/
def entryOf (sec : Bytes) (n i : Nat) : Bytes := slice sec (n * i) n

/-- Whether `n` bytes from an offset are all zero. -/
def zeroAt (b : Bytes) (off n : Nat) : Bool := (slice b off n).all fun x => x = 0#8

/-! ## Records -/

/-- Whether two byte ranges overlap. -/
def rangesMeet (a n b m : Nat) : Bool := decide (a < b + m) && decide (b < a + n) && decide (0 < n) && decide (0 < m)

/-- The tiling record (R150). -/
def parseTiling (q : Bytes) : Tiling :=
  { order := field q 0 1, reuse := field q 1 1, stripes := field q 2 1, resident := field q 4 4 }

/-- The expand record (R182). -/
def parseExpand (q : Bytes) : ExpandRec :=
  { kh := field q 0 1, kw := field q 1 1, sh := field q 2 1, sw := field q 3 1, dh := field q 4 1
    dw := field q 5 1, replicate := bit (field q 6 1) 0, pt := field q 8 1, pb := field q 9 1
    pl := field q 10 1, pw := field q 11 1, tilePos := field q 12 2, layout := field q 14 1
    step := field q 15 1, ct := field q 16 2, ke := field q 20 4 }

/-- The matmul record (R558). -/
def parseMatmul (q : Bytes) : MatmulRec :=
  { weightOff := field q 0 4, wscaleOff := field q 4 4, initOff := field q 8 4, mOff := field q 12 4
    fOff := field q 16 4, shift := field q 0x14 1, zeroPoint := BitVec.ofNat 32 (field q 0x18 4)
    lo := BitVec.ofNat 32 (field q 0x1C 4), hi := BitVec.ofNat 32 (field q 0x20 4), k := field q 0x24 4 }

/-- The REAL32 entries of a reciprocal table. -/
def parseTable (q : Bytes) : List (BitVec 32) :=
  (List.range (q.length / 4)).map fun i => BitVec.ofNat 32 (field q (4 * i) 4)

/-- The pool record and its table (R187). -/
def parsePool (q : Bytes) : PoolRec :=
  { average := field q 0 1 = 1, includePad := bit (field q 1 1) 0, tilePos := field q 2 2
    nTaps := field q 4 2, table := parseTable (q.drop 16) }

/-- The resample record and its table (R192). -/
def parseResample (q : Bytes) : ResampleRec :=
  { mode := field q 0 1, fy := field q 1 1, fx := field q 2 1, out1 := field q 4 4, out2 := field q 8 4
    tilePos := field q 12 2, table := parseTable (q.drop 16) }

/-- The overlay record (R506). -/
def parseOverlay (q : Bytes) : OverlayRec :=
  { mode := field q 0 1, line := field q 1 1, shift := field q 2 1, fields := field q 4 4
    colour := field q 8 1, palette := (List.range 16).map fun i => field q (0x10 + 4 * i) 4 }

/-- The publish record (R482). -/
def parsePublish (q : Bytes) : PublishRec :=
  { overlayTarget := field q 0 1 = 1, safety := bit (field q 1 1) 0, recordType := field q 2 2
    stream := field q 4 1
    overlay := if field q 0 1 = 1 then some (parseOverlay (q.drop 16)) else none }

/-- A station's parameters by its kind (R110). -/
def parseParams (kind : Nat) (q : Bytes) : Params :=
  match kind with
  | 1 => .source (field q 0 1 = 1) (field q 1 1)
  | 2 => .expand (parseExpand (q.drop 16))
  | 3 => .matmul (parseMatmul (q.drop 16))
  | 4 => .pool (parsePool (q.drop 16))
  | 5 => .resample (parseResample (q.drop 16))
  | 7 => .publish (parsePublish q)
  | _ => .vector (q.drop 16)

/-- The used places of a list of 16-bit fields. -/
def used16 (l : List Nat) : List Nat := l.filter fun v => v ≠ 0xFFFF

/-- `n` 16-bit fields from an offset. -/
def fields16 (b : Bytes) (off n : Nat) : List Nat := (List.range n).map fun i => field b (off + 2 * i) 2

/-- A station's parameter bytes. -/
def paramBytes (e params : Bytes) : Bytes := slice params (field e 0x2C 4) (field e 0x30 4)

/-- A station entry (R138). -/
def parseStation (e params : Bytes) : Station :=
  let q := paramBytes e params
  let kind := field e 2 1
  let fl := field e 7 1
  { number := field e 0 2, params := parseParams kind q, shape := field e 3 1, fmtIn := field e 4 1
    fmtW := field e 5 1, fmtOut := field e 6 1, paired := bit fl 2, crossRegion := bit fl 1
    hostParams := bit fl 0, blocks := field e 8 4, vblocks := field e 12 1, split := field e 13 1
    groups := field e 14 1, monitor := field e 15 1, inQ := fields16 e 0x10 4, outQ := fields16 e 0x18 4
    outTensor := field e 0x20 2, tiles := field e 0x24 4, worst := field e 0x28 4
    tiling := if 2 ≤ kind ∧ kind ≤ 6 then parseTiling q else {} }

/-- A queue entry (R125). -/
def parseQueue (e : Bytes) : Queue :=
  { producer := field e 0 2, consumers := used16 (fields16 e 2 4), depth := field e 10 2
    region := field e 12 1, isPartial := bit (field e 13 1) 0 }

/-- A tensor header template (R557). -/
def parseTensor (e : Bytes) : Tensor :=
  { format := field e 2 1, zc := bit (field e 3 1) 0, dim0 := field e 4 4, dim1 := field e 8 4
    dim2 := field e 12 4, stride1 := field e 0x1C 4, stride2 := field e 0x20 4 }

/-- A task budget entry (R357). -/
def parseBudget (e : Bytes) : Budget :=
  { budget := field e 4 4, aliveEn := bit (field e 1 1) 0, aliveMin := field e 8 4, aliveMax := field e 12 4 }

/-- A claim entry (R210 and the claim types 0x10 to 0x12); none for a code that is not used. -/
def parseClaim (e : Bytes) : Option Claim :=
  let st := field e 2 2
  match field e 0 1 with
  | 0x01 => some (.segments st (field e 4 1) (field e 8 8))
  | 0x02 => some (.window st (field e 4 1) (field e 5 1) (field e 8 2) (field e 10 2) (field e 12 2) (field e 14 2))
  | 0x03 => some (.weights st (field e 4 1) (field e 8 4) (field e 12 1) (field e 13 1))
  | 0x10 => some (.tick st (field e 4 1))
  | 0x11 => some (.stream st (field e 4 1))
  | 0x12 => some (.plane st (field e 4 1) (field e 5 1))
  | _ => none

/-- Entries of a section. -/
def entriesOf (sec : Bytes) (n : Nat) : List Bytes := (List.range (sec.length / n)).map (entryOf sec n)

/-- The package as read from its image. -/
def parsePackage (b : Bytes) : Package :=
  let params := sectionOf b 5
  { pkgId := field b 12 4, safety := bit (field b 0x17 1) 0, residency := bit (field b 0x17 1) 1
    stations := (entriesOf (sectionOf b 1) 64).map fun e => parseStation e params
    queues := (entriesOf (sectionOf b 2) 16).map parseQueue
    tensors := (entriesOf (sectionOf b 3) 128).map parseTensor
    budgets := (entriesOf (sectionOf b 7) 16).map parseBudget
    claims := (entriesOf (sectionOf b 8) 16).filterMap parseClaim
    constants := sectionOf b 4, hostParams := sectionOf b 6 }

/-! ## Relations inside a package -/

/-- The station of a number. -/
def Package.st? (p : Package) (n : Nat) : Option Station := p.stations[n]?

/-- The queue of a number. -/
def Package.q? (p : Package) (n : Nat) : Option Queue := p.queues[n]?

/-- The tensor of a number, or an empty one. -/
def Package.tensor (p : Package) (n : Nat) : Tensor :=
  (p.tensors[n]?).getD ⟨0, false, 0, 0, 0, 0, 0⟩

/-- The station that produces a station's input `n` (R138). -/
def Package.producer? (p : Package) (st : Station) (n : Nat) : Option Station :=
  match st.inQ[n]? with
  | some q => match p.q? q with
    | some e => p.st? e.producer
    | none => none
  | none => none

/-- The stations that consume a station's output. -/
def Package.consumers (p : Package) (st : Station) : List Nat :=
  ((used16 st.outQ).flatMap fun q => match p.q? q with
    | some e => e.consumers
    | none => []).eraseDups

/-- The producers of a station's inputs. -/
def Package.producers (p : Package) (st : Station) : List Nat :=
  ((used16 st.inQ).filterMap fun q => (p.q? q).map fun e => e.producer).eraseDups

/-- Output length along a windowed axis (R171, R172): 0 for a zero size. -/
def outLen (inp pl ph d k s : Nat) : Nat :=
  if inp = 0 ∨ inp + pl + ph < d * (k - 1) + 1 then 0 else (inp + pl + ph - d * (k - 1) - 1) / s + 1

/-- A station's output tensor. An expand station's has the configured lengths of R171 and R176, whatever its template
says. -/
def Package.out (p : Package) (st : Station) : Tensor :=
  let t := p.tensor st.outTensor
  match st.params with
  | .expand r =>
    let i := ((p.producer? st 0).map fun q => p.tensor q.outTensor).getD (p.tensor 0xFFFF)
    { t with dim0 := r.ke, dim1 := outLen i.dim1 r.pl r.pw r.dw r.kw r.sw, dim2 := outLen i.dim2 r.pt r.pb r.dh r.kh r.sh }
  | _ => t

/-- A station's primary input tensor (R112). -/
def Package.input (p : Package) (st : Station) : Tensor :=
  match p.producer? st 0 with
  | some q => p.out q
  | none => p.tensor 0xFFFF

/-- The numbers of all stations upstream of one, the station included: `n` rounds of adding producers. -/
def Package.upstreamIn (p : Package) : Nat → List Nat → List Nat
  | 0, l => l
  | n + 1, l =>
    p.upstreamIn n ((l ++ l.flatMap fun i => match p.st? i with
      | some st => p.producers st
      | none => []).eraseDups)

/-- The stations upstream of a station, itself included (R349). -/
def Package.upstream (p : Package) (n : Nat) : List Nat := p.upstreamIn p.stations.length [n]

/-- The stations downstream of a station, itself included. -/
def Package.downstream (p : Package) (n : Nat) : List Nat :=
  (List.range p.stations.length).filter fun i => (p.upstream i).contains n

/-- A station's kind code (R110). -/
def Station.kind (st : Station) : Nat :=
  match st.params with
  | .source _ _ => 1
  | .expand _ => 2
  | .matmul _ => 3
  | .pool _ => 4
  | .resample _ => 5
  | .vector _ => 6
  | .publish _ => 7

/-- The Ox blocks assigned to a station. -/
def Station.oxList (st : Station) : List Nat := bitList st.blocks 32

/-- The vector blocks assigned to a station. -/
def Station.vecList (st : Station) : List Nat := bitList st.vblocks 8

/-- Whether a station's tiles run on Ox blocks: a matmul of any shape but the vector shape. -/
def Station.onOx (st : Station) : Bool := decide (st.kind = 3) && decide (st.shape ≠ 5)

/-- Whether a station's tiles run on vector blocks. -/
def Station.onVec (st : Station) : Bool :=
  (decide (st.kind = 3) && decide (st.shape = 5)) || decide (st.kind = 4) || decide (st.kind = 5) || decide (st.kind = 6)

/-- The region of a station: that of its first unit, or of its primary output or input queue. -/
def Package.regionOf (p : Package) (st : Station) : Nat :=
  match st.oxList, st.vecList, used16 st.outQ, used16 st.inQ with
  | b :: _, _, _, _ => b / 8
  | _, v :: _, _, _ => v / 2
  | _, _, q :: _, _ => ((p.q? q).map fun e => e.region).getD 0
  | _, _, _, q :: _ => ((p.q? q).map fun e => e.region).getD 0
  | _, _, _, _ => 0

/-- Output rows and channels of a shape (R118); for a fused station the rows of a pass. -/
def shapeRows : Nat → Nat
  | 0 => 16
  | 1 => 64
  | 2 => 16
  | 3 => 32
  | 4 => 128
  | _ => 1

/-- Output channels of a shape (R118). -/
def shapeChans : Nat → Nat
  | 2 => 256
  | 3 => 128
  | 5 => 4096
  | _ => 64

/-- The bytes of `n` elements of a format, rounded up (R80, R85). -/
def elemBytes (f : Fmt) (n : Nat) : Nat := ceilDiv (n * f.width) 8

/-- The format of a code; INT8 for a code that names none (such a package is refused). -/
def fmtOr (c : Nat) : Fmt := (fmtOfCode c).getD .int8

/-- The number of position groups per axis-2 index and of channel groups of a matmul station (R152, R153). -/
def Package.groups (p : Package) (st : Station) : Nat × Nat :=
  (ceilDiv (p.out st).dim1 (shapeRows st.shape),
   if st.shape = 4 then st.groups else ceilDiv (p.out st).dim0 (shapeChans st.shape))

/-! ## Placement of tiles (R152, R153, R560) -/

/-- The origin and full extents of tile `i` of a station: axis 0, 1, 2. -/
def Package.tileBox (p : Package) : Nat → Station → Nat → (Nat × Nat × Nat) × (Nat × Nat × Nat)
  | 0, _, _ => ((0, 0, 0), (0, 0, 0))
  | fuel + 1, st, i =>
    let t := p.out st
    match st.params with
    | .matmul _ =>
      let (np, nc) := p.groups st
      let j := i / st.split
      let (r, pg, cg) := if st.tiling.order = 0 then (j / (np * nc), j / nc % np, j % nc)
        else (j / (np * nc), j % np, j / np % nc)
      let ch := if st.shape = 4 then 64 else shapeChans st.shape
      ((cg * ch, pg * shapeRows st.shape, r),
       (min ch (t.dim0 - cg * ch), min (shapeRows st.shape) (t.dim1 - pg * shapeRows st.shape), 1))
    | .pool r =>
      let np := ceilDiv t.dim1 r.tilePos
      ((0, i % np * r.tilePos, i / np), (t.dim0, min r.tilePos (t.dim1 - i % np * r.tilePos), 1))
    | .resample r =>
      let np := ceilDiv t.dim1 r.tilePos
      ((0, i % np * r.tilePos, i / np), (t.dim0, min r.tilePos (t.dim1 - i % np * r.tilePos), 1))
    | .vector _ =>
      match p.producer? st 0 with
      | some q => p.tileBox fuel q (i * (if ((st.inQ.head?.bind p.q?).map fun e => e.isPartial) = some true then q.split else 1))
      | none => ((0, 0, 0), (t.dim0, t.dim1, t.dim2))
    | .source _ _ =>
      -- an ISP output tile is 16 lines (R299); a point cloud is one tile (R285)
      ((0, 0, 16 * i), (t.dim0, t.dim1, min 16 (t.dim2 - 16 * i)))
    | _ => ((0, 0, 0), (t.dim0, t.dim1, t.dim2))

/-- The depth to which tile placements are followed. -/
def Package.depth (p : Package) : Nat := p.stations.length + 1

/-- Source rows read by output rows a to b of a window along one axis, without padding (R163). -/
def rowsRead (a b s d k pl len : Nat) : Option (Nat × Nat) :=
  let lo := a * s - pl
  let hi := b * s + d * (k - 1)
  if hi < pl ∨ len = 0 ∨ len ≤ lo then none else some (lo, min (hi - pl) (len - 1))

/-- The verification tiles of an expand station: for each consumer stripe, the source tiles that hold an element
the stripe uses, edge-replicated taps included (R173, R177, R560). -/
def Package.verTiles (p : Package) (st : Station) (r : ExpandRec) : List (Nat × Nat) :=
  let t := p.out st
  match p.producer? st 0 with
  | none => []
  | some q =>
    let n := st.tiling.stripes
    let h := ceilDiv t.dim2 n
    let src := p.out q
    let used (o sz k d pad len : Nat) : Option Nat :=
      let x := o * sz + k * d
      if pad ≤ x ∧ x - pad < len then some (x - pad)
      else if r.replicate ∧ len ≠ 0 then some (if x < pad then 0 else len - 1)
      else none
    let cols := (List.range t.dim1).flatMap fun o => (List.range r.kw).filterMap fun k => used o r.sw k r.dw r.pl src.dim1
    (List.range n).flatMap fun i =>
      let rows := (List.range (min h (t.dim2 - i * h))).flatMap fun o =>
        (List.range r.kh).filterMap fun k => used (i * h + o) r.sh k r.dh r.pt src.dim2
      ((List.range q.tiles).filter fun j =>
        let (o, e) := p.tileBox p.depth q j
        rows.any (fun y => decide (o.2.2 ≤ y ∧ y < o.2.2 + e.2.2))
          && cols.any (fun x => decide (o.2.1 ≤ x ∧ x < o.2.1 + e.2.1))).map fun j => (i, j)

/-- The tile count of a station at configured lengths (R152, R560). -/
def Package.tileCount (p : Package) (st : Station) : Nat :=
  let t := p.out st
  match st.params with
  | .matmul _ => let (np, nc) := p.groups st; t.dim2 * np * nc * st.split
  | .pool r => t.dim2 * ceilDiv t.dim1 r.tilePos
  | .resample r => t.dim2 * ceilDiv t.dim1 r.tilePos
  | .vector _ => match p.producer? st 0 with
    | some q => if ((st.inQ.head?.bind p.q?).map fun e => e.isPartial) = some true then q.tiles / q.split else q.tiles
    | none => 1
  | .publish _ => 1
  | .source pc _ => if pc then 1 else ceilDiv t.dim2 16
  | .expand r => (p.verTiles st r).length

/-! ## Worst-case beats (R76, R102, R123, R191, R196) -/

/-- Elements of one stationary load (R65). -/
def loadCap : Fmt → Nat
  | .int4 | .fp4 => 1024
  | .fp6 => 672
  | .fp16 | .bf16 | .int16 => 256
  | _ => 512

/-- The reduction elements of one tile of a matmul station: all K, or for a split reduction an equal share, rounded up to
whole steps and whole scale blocks, the last share being the rest (DESIGN CHOICE, notes/assumptions/124.md). -/
def Station.partLen (st : Station) (k : Nat) : Nat :=
  if st.split ≤ 1 then k
  else
    let f := fmtOr st.fmtIn
    let unit := if f.scaled then 32 else if st.shape = 5 then 1 else max 1 f.perBeat
    min k (ceilDiv (ceilDiv k st.split) unit * unit)

/-- The worst-case beats of one tile that the device computes, a partial tile over its share of the reduction; none
for a station without a bound. -/
def Package.worstBeats (p : Package) (st : Station) : Option Nat :=
  let f := fmtOr st.fmtIn
  match st.params with
  | .matmul r =>
    let init := if r.initOff = 0xFFFFFFFF then 0 else 1
    let k := st.partLen r.k
    if st.shape = 5 then some (8 * (k + init) + 16)
    else if st.shape = 4 then
      some (ceilDiv k (loadCap f) * 128 + st.groups * (ceilDiv k f.perBeat + init) + 127 + 6)
    else some (max (ceilDiv k f.perBeat + init) 4 + 15 + 6)
  | .pool r => some (ceilDiv (r.tilePos * (p.out st).dim0) 512 * (r.nTaps + if r.average then 1 else 0))
  | .resample r =>
    let b := if r.mode = 0 then 1 else if r.mode = 1 then 6 else r.fy * r.fx + 1
    some (ceilDiv (r.tilePos * (p.out st).dim0) 512 * b)
  | .vector _ => some 0
  | _ => none

/-! ## Operand buffers (R561) -/

/-- Bytes rounded up to whole 512-byte rows. -/
def rowBytes (n : Nat) : Nat := ceilDiv n 512 * 512

/-- The bytes of an expanded tile of Q positions (R181). -/
def expandedBytes (f : Fmt) (layout q ke e : Nat) : Nat :=
  let area := if layout = 0 then elemBytes f (q * (ceilDiv ke e * e)) else q * (ceilDiv (elemBytes f ke) 32 * 32)
  area + if f.scaled then q * ke / 32 else 0

/-- Bytes of elements with one scale byte for each started run of 32 along a row. -/
def withScales (f : Fmt) (rows len : Nat) : Nat := elemBytes f (rows * len) + if f.scaled then rows * ceilDiv len 32 else 0

/-- The bytes of one operand buffer of a station in one unit (R561); `head` is local block 0 of a chain. -/
def Package.bufferBytes (p : Package) (st : Station) (head : Bool) : Nat :=
  let fi := fmtOr st.fmtIn
  let fo := fmtOr st.fmtOut
  let c := (p.out st).dim0
  let expanded (q : Nat) : Option Nat := match p.producer? st 0 with
    | some pr => match pr.params with
      | .expand r => some (expandedBytes fi r.layout q r.ke r.step)
      | _ => none
    | none => none
  match st.params with
  | .matmul r =>
    let q := if st.shape = 5 then 1 else 16
    let ch := if st.shape = 5 then min 4096 (ceilDiv (max c 1) 512 * 512) else 64
    let k := st.partLen r.k
    let act := if st.tiling.reuse = 3 then 0 else (expanded q).getD (withScales fi q k)
    let w := if st.tiling.reuse = 2 ∨ (st.shape = 4 ∧ !head) then 0
      else if st.shape = 5 then elemBytes fi (k * ch) + (if fi.scaled then ceilDiv k 32 * ch else 0)
      else elemBytes fi (ceilDiv k fi.perBeat * fi.perBeat * 64) + (if fi.scaled then ceilDiv k 32 * 64 else 0)
    let n := min ch (max c 1)
    rowBytes act + rowBytes w + rowBytes (if 1 < st.split then 4 * (q * n) else withScales fo q n)
  | .pool r =>
    rowBytes ((expanded r.tilePos).getD 0) + rowBytes (withScales fo r.tilePos c)
  | .resample r =>
    let n := if r.mode = 0 then 1 else if r.mode = 1 then 4 else r.fy * r.fx
    rowBytes (withScales fi (r.tilePos * n) c) + rowBytes (withScales fo r.tilePos c)
  | .vector _ =>
    let (_, e) := p.tileBox p.depth st 0
    let n := e.2.1 * e.2.2
    let part := ((st.inQ.head?.bind p.q?).map fun x => x.isPartial) = some true
    (if part then ((p.producer? st 0).map fun q => q.split).getD 1 * rowBytes (4 * (n * e.1))
      else (used16 st.inQ).length * rowBytes (withScales fi n e.1)) + rowBytes (withScales fo n e.1)
  | _ => 0

/-- The segment bytes a station claims in a block. -/
def Package.claimed (p : Package) (st block : Nat) : Nat :=
  (p.claims.map fun c => match c with
    | .segments s b m => if s = st ∧ b = block then popCount m 64 * 65536 else 0
    | _ => 0).sum

/-- Whether a station's segment claims cover its residents and buffers (R159, R561). -/
def Package.claimsCover (p : Package) (st : Station) : Bool :=
  let res := if st.tiling.reuse = 3 then 2 * st.tiling.resident else if st.tiling.reuse = 2 then st.tiling.resident else 0
  if st.onOx then
    st.oxList.all fun b =>
      let head := decide (b % 8 = 0)
      let r := if st.shape = 4 ∧ !head then 0 else res
      decide (r + 2 * p.bufferBytes st head ≤ p.claimed st.number b)
  else if st.onVec then
    st.vecList.all fun v =>
      decide (res + 2 * p.bufferBytes st false ≤
        ((List.range 4).map fun k => p.claimed st.number (8 * (v / 2) + 4 * (v % 2) + k)).sum)
  else true

/-! ## Pairing (R366, R367) -/

/-- The copies of a paired station, by their lowest unit number. -/
def Station.copies (st : Station) : List Nat :=
  if st.onVec then st.vecList
  else if st.shape = 0 then st.oxList
  else if st.shape = 4 then st.oxList.filter fun b => b % 8 = 0
  else st.oxList.filter fun b => b % 4 = 0

/-- The adjacent partner of a copy, if its shape has one (R366). -/
def Station.adjacent (st : Station) (c : Nat) : Option Nat :=
  if st.onVec then some (c - c % 2 + (1 - c % 2))
  else if st.shape = 0 then some (c - c % 2 + (1 - c % 2))
  else if st.shape = 4 then none
  else some (c - c % 8 + (4 - c % 8))

/-- The fallback partner of a copy (R366). -/
def Station.fallback (st : Station) (c : Nat) : Nat :=
  if st.onVec then 2 * (3 - c / 2) + c % 2 else 8 * (3 - c / 8) + c % 8

/-- Forms the pairs of a station: (copy A, copy B, by fallback); none when a copy is left (R367). -/
def pairUp (st : Station) : Nat → List Nat → Option (List (Nat × Nat × Bool))
  | 0, l => if l = [] then some [] else none
  | n + 1, l =>
    match l with
    | [] => some []
    | c :: t =>
      match st.adjacent c with
      | some a => if t.contains a then (pairUp st n (t.erase a)).map ((c, a, false) :: ·)
        else if t.contains (st.fallback c) then (pairUp st n (t.erase (st.fallback c))).map ((c, st.fallback c, true) :: ·)
        else none
      | none =>
        if t.contains (st.fallback c) then (pairUp st n (t.erase (st.fallback c))).map ((c, st.fallback c, true) :: ·)
        else none

/-- The pairs of a station; none when they cannot be formed. -/
def Station.pairs (st : Station) : Option (List (Nat × Nat × Bool)) := pairUp st st.copies.length st.copies

/-- The partner of a unit in a paired station: the unit of the same place in the other copy. -/
def Station.partnerOf (st : Station) (u : Nat) : Option Nat :=
  match st.pairs with
  | none => none
  | some l =>
    let low := if st.onVec ∨ st.shape = 0 then u else if st.shape = 4 then u - u % 8 else u - u % 4
    match l.find? fun x => x.1 = low ∨ x.2.1 = low with
    | some x => some ((if x.1 = low then x.2.1 else x.1) + (u - low))
    | none => none

/-! ## The reasons of R139 -/

/-- Reason 0x0003. -/
def badHeader (b : Bytes) : Bool :=
  decide (slice b 0 4 ≠ [0x43#8, 0x54#8, 0x47#8, 0x50#8]) || decide (field b 4 2 ≠ 1)
    || decide (field b 8 4 ≠ b.length) || decide (0x80000000 < b.length) || decide (b.length < 112)

/-- Reason 0x000C. -/
def badDirectory (b : Bytes) : Bool :=
  let n := field b 0x16 1
  let ds := directory b
  let fin := b.length - 64
  decide (n < 1) || decide (16 < n) || decide (fin < 32 + 16 * n)
    || ds.any (fun d => decide (d.ty < 1) || decide (8 < d.ty) || decide (d.off % 64 ≠ 0)
      || decide (d.off < 32 + 16 * n) || decide (fin < d.off + d.size))
    || !decide (ds.map (fun d => d.ty)).Nodup
    || (List.range ds.length).any (fun i => (List.range i).any fun j =>
      match ds[i]?, ds[j]? with
      | some x, some y => rangesMeet x.off x.size y.off y.size
      | _, _ => false)
    || ([1, 3, 5, 7, 8].any fun t => !hasSection b t)
    || (decide (0 < field b 0x14 2) && !hasSection b 2)

/-- Whether a station entry and its parameters hold a nonzero reserved field. -/
def stationReserved (e params : Bytes) : Bool :=
  let q := paramBytes e params
  let k := field e 2 1
  !zeroAt e 0x22 2 || !zeroAt e 0x34 12 || decide (8 ≤ field e 7 1)
    || (decide (2 ≤ k ∧ k ≤ 6) && (!zeroAt q 3 1 || !zeroAt q 8 8))
    || (decide (k = 1) && !zeroAt q 2 14)
    || (decide (k = 2) && (decide (2 ≤ field q 0x16 1) || !zeroAt q 0x17 1 || !zeroAt q 0x22 2 || !zeroAt q 0x28 8))
    || (decide (k = 3) && (!zeroAt q 0x25 3 || !zeroAt q 0x38 8))
    || (decide (k = 4) && (decide (2 ≤ field q 0x11 1) || !zeroAt q 0x16 10))
    || (decide (k = 5) && (!zeroAt q 0x13 1 || !zeroAt q 0x1E 2))
    || (decide (k = 7) && (decide (2 ≤ field q 1 1) || !zeroAt q 5 11
      || (decide (field q 0 1 = 1) && (!zeroAt q 0x13 1 || !zeroAt q 0x19 7))))

/-- Whether a tensor template holds a nonzero reserved or device-filled field (R557). -/
def tensorReserved (e : Bytes) : Bool :=
  decide (2 ≤ field e 3 1) || !zeroAt e 0x10 12 || !zeroAt e 0x24 92

/-- Whether a claim holds a nonzero reserved field. -/
def claimReserved (e : Bytes) : Bool :=
  !zeroAt e 1 1 || (match field e 0 1 with
    | 0x01 => !zeroAt e 5 3 || bit (field e 8 8) 63
    | 0x02 => !zeroAt e 6 2
    | 0x03 => !zeroAt e 5 3 || !zeroAt e 14 2
    | 0x10 => !zeroAt e 5 11
    | 0x11 => !zeroAt e 5 11
    | 0x12 => !zeroAt e 6 10
    | _ => false)

/-- Reason 0x0004. -/
def badReserved (b : Bytes) : Bool :=
  let params := sectionOf b 5
  decide (4 ≤ field b 0x17 1) || !zeroAt b 0x18 8
    || (List.range (field b 0x16 1)).any (fun i => !zeroAt b (32 + 16 * i + 1) 3 || !zeroAt b (32 + 16 * i + 12) 4)
    || (entriesOf (sectionOf b 1) 64).any (fun e => stationReserved e params)
    || (entriesOf (sectionOf b 2) 16).any (fun e => decide (2 ≤ field e 13 1) || !zeroAt e 14 2)
    || (entriesOf (sectionOf b 3) 128).any tensorReserved
    || (entriesOf (sectionOf b 7) 16).any (fun e => decide (2 ≤ field e 1 1) || !zeroAt e 2 2)
    || (entriesOf (sectionOf b 8) 16).any claimReserved

/-- Whether a format code may stand in a package (R79, R113). -/
def fmtCodeOk (c : Nat) : Bool := (fmtOfCode c).isSome && decide (c ≠ 0x0C)

/-- Formats a zero-compressed tensor may have (R197). -/
def zcOk (c : Nat) : Bool := [0x02, 0x03, 0x05, 0x06, 0x07, 0x08].contains c

/-- Reason 0x0005. -/
def badFormat (p : Package) : Bool :=
  p.stations.any (fun st => !fmtCodeOk st.fmtIn || !fmtCodeOk st.fmtW || !fmtCodeOk st.fmtOut
      || (st.onOx && decide (st.fmtIn = 0x09)))
    || p.tensors.any (fun t => !fmtCodeOk t.format || (t.zc && !zcOk t.format))

/-- Whether a value lies in a range. -/
def within (v lo hi : Nat) : Bool := decide (lo ≤ v) && decide (v ≤ hi)

/-- The correctly rounded FP32 reciprocal of n (R187). -/
def recip (n : Nat) : BitVec 32 :=
  toFp32 (.fin false (2 * (2 ^ 60 / n) + (if 2 ^ 60 % n = 0 then 0 else 1)) (-61))

/-- Whether a reciprocal table is right (R187). -/
def tableOk (t : List (BitVec 32)) (n : Nat) : Bool :=
  decide (t.length = n) && (List.range n).all fun i => decide (t[i]? = some (recip (i + 1)))

/-- Whether the tiling record is permitted for the station (R151). -/
def tilingOk (st : Station) : Bool :=
  let t := st.tiling
  let shapeOk :=
    if st.kind ≠ 3 then decide (t.order = 0) && decide (t.reuse = 0)
    else match st.shape with
      | 0 | 5 => decide (t.order ≤ 1) && [0, 2, 3].contains t.reuse
      | 1 | 2 | 3 => decide (t.order ≤ 1) && decide (t.reuse = 1)
      | 4 => decide (t.order = 0) && [0, 2].contains t.reuse
      | _ => false
  shapeOk && within t.stripes 1 64
    && (if t.reuse ≤ 1 then decide (t.resident = 0) else decide (0 < t.resident) && decide (t.resident % 512 = 0))

/-- Whether a table at an offset of section 0x04 applies and fits (R565). -/
def tableFits (constants : Bytes) (off n : Nat) (applies : Bool) : Bool :=
  if applies then decide (off % 4 = 0) && decide (off + n ≤ constants.length) else decide (off = 0xFFFFFFFF)

/-- Whether a code is an integer format's. -/
def isIntCode (c : Nat) : Bool := (fmtOr c).isInt

/-- Whether a matmul record is in range (R565), its clamp apart. -/
def matmulOk (p : Package) (st : Station) (r : MatmulRec) : Bool :=
  let f := fmtOr st.fmtIn
  let chans := (p.out st).dim0
  let both := isIntCode st.fmtIn && isIntCode st.fmtOut
  let grp := ceilDiv chans 64
  let cr := ceilDiv chans 512 * 512
  let wlen := if st.shape = 5 then elemBytes f (r.k * cr) else grp * ceilDiv r.k (max f.perBeat 1) * (64 * elemBytes f f.perBeat)
  let slen := if st.shape = 5 then ceilDiv r.k 32 * cr else grp * ceilDiv r.k 32 * 64
  let nan (v : BitVec 32) : Bool := !isIntCode st.fmtOut && decide (ofFp32 v = .nan)
  let kin := match p.producer? st 0 with
    | some q => match q.params with
      | .expand e => e.ke
      | _ => (p.out q).dim0
    | none => 0
  decide (r.weightOff % 64 = 0) && tableFits p.constants r.weightOff wlen true
    && tableFits p.constants r.wscaleOff slen f.scaled
    && (decide (r.initOff = 0xFFFFFFFF) || tableFits p.constants r.initOff (4 * chans) true)
    && tableFits p.constants r.mOff (4 * chans) both
    && (if both then decide (r.fOff = 0xFFFFFFFF)
        else decide (r.fOff = 0xFFFFFFFF) || tableFits p.constants r.fOff (4 * chans) true)
    && decide (r.shift ≤ 31) && (both || (decide (r.shift = 0) && decide (r.zeroPoint = 0)))
    && decide (r.k ≠ 0) && decide (r.k = kin) && !nan r.lo && !nan r.hi

/-- TILE_POS, LAYOUT and STEP that an expand station's consumer needs (R182, R183). -/
def expandFits (p : Package) (st : Station) (r : ExpandRec) : Bool :=
  match p.consumers st with
  | [c] => match p.st? c with
    | none => false
    | some k =>
      let f := fmtOr k.fmtIn
      let same := decide (p.regionOf k = p.regionOf st) && decide (k.tiling.stripes = st.tiling.stripes)
      let kindOk := match k.params with
        | .matmul _ =>
          if k.shape = 4 ∨ k.shape = 5 then decide (r.tilePos = shapeRows k.shape) && decide (r.layout = 1) && decide (r.step = 0)
          else decide (r.tilePos = shapeRows k.shape) && decide (r.layout = 0) && decide (r.step = f.perBeat)
        | .pool pr => within r.tilePos 1 256 && decide (r.tilePos = pr.tilePos) && decide (r.layout = 1) && decide (r.step = 0)
        | _ => false
      same && kindOk
  | _ => false

/-- Whether an expand record is in range (R182, R183). -/
def expandOk (p : Package) (st : Station) (r : ExpandRec) : Bool :=
  let t := p.input st
  let f := fmtOr st.fmtIn
  let g := if f.scaled then 32 else if f = .int4 then 2 else 1
  within r.kh 1 32 && within r.kw 1 32 && within r.sh 1 32 && within r.sw 1 32 && within r.dh 1 16 && within r.dw 1 16
    && within r.pt 0 31 && within r.pb 0 31 && within r.pl 0 31 && within r.pw 0 31 && decide (r.layout ≤ 1)
    && decide (r.ct = ceilDiv t.dim0 g * g) && decide (r.ke = r.kh * r.kw * r.ct) && expandFits p st r

/-- Whether a pool record agrees with its expand station (R187). -/
def poolOk (p : Package) (st : Station) (r : PoolRec) : Bool :=
  match p.producer? st 0 with
  | some q => match q.params with
    | .expand e => decide (r.tilePos = e.tilePos) && decide (r.nTaps = e.kh * e.kw) && within r.nTaps 1 1024
        && (if r.average then tableOk r.table r.nTaps else decide (r.table = []))
    | _ => false
  | none => false

/-- Whether a resample record is in range (R192). -/
def resampleOk (p : Package) (st : Station) (r : ResampleRec) : Bool :=
  let i := p.input st
  let o := p.out st
  within r.tilePos 1 256 && (if r.mode ≤ 1 then
      decide (r.fy = 0) && decide (r.fx = 0) && decide (1 ≤ r.out1) && decide (1 ≤ r.out2)
        && decide (o.dim1 = r.out1) && decide (o.dim2 = r.out2) && decide (r.table = [])
    else decide (r.mode = 2) && within r.fy 1 16 && within r.fx 1 16 && decide (r.out1 = 0) && decide (r.out2 = 0)
        && decide (o.dim1 = ceilDiv i.dim1 r.fx) && decide (o.dim2 = ceilDiv i.dim2 r.fy) && tableOk r.table (r.fy * r.fx))

/-- Whether a publish record is in range and claimed (R470, R482, R506). -/
def publishOk (p : Package) (st : Station) (r : PublishRec) : Bool :=
  let streams := p.claims.filterMap fun c => match c with
    | .stream s n => if s = st.number then some n else none
    | _ => none
  let planes := p.claims.filter fun c => match c with
    | .plane s _ _ => decide (s = st.number)
    | _ => false
  if r.overlayTarget then
    decide (r.stream = 0xFF) && decide (planes.length = 1) && decide (streams = [])
      && (match r.overlay with
        | none => false
        | some o => decide (o.mode ≤ 1) && within o.line 1 8 && decide (o.shift ≤ 4)
            && decide (o.palette.head? = some 0) && (if o.mode = 1 then decide (o.fields = 0) else true)
            && decide ((p.input st).format = if o.mode = 0 then 0x03 else 0x02)
            && (if o.mode = 1 then decide ((p.input st).dim0 = 1) else true))
  else within r.stream 0 31 && decide (streams = [r.stream]) && decide (planes = [])

/-- The parameter bytes a station must carry. -/
def paramLenOk (st : Station) (len : Nat) : Bool :=
  match st.params with
  | .source _ _ => decide (16 ≤ len)
  | .expand _ => decide (16 + 32 ≤ len)
  | .matmul _ => decide (16 + 48 ≤ len)
  | .pool r => decide (len = 32 + 4 * r.table.length)
  | .resample r => decide (len = 32 + 4 * r.table.length)
  | .vector _ => decide (16 ≤ len)
  | .publish r => decide ((if r.overlayTarget then 96 else 16) ≤ len)

/-- The stripe check of R165 for one input of a station. -/
def stripeInputOk (p : Package) (st q : Station) : Bool :=
  let n := st.tiling.stripes
  if n ≤ 1 ∨ q.tiling.stripes ≠ n then true
  else
    let (k, s, d, pl) := match st.params with
      | .expand r => (r.kh, r.sh, r.dh, r.pt)
      | _ => (1, 1, 1, 0)
    let h := ceilDiv (p.out st).dim2 n
    let hp := ceilDiv (p.out q).dim2 n
    (List.range n).all fun i =>
      if (p.out st).dim2 ≤ i * h then true
      else match rowsRead (i * h) (min ((i + 1) * h) (p.out st).dim2 - 1) s d k pl (p.out q).dim2 with
        | none => true
        | some (lo, hi) => decide ((i - 1) * hp ≤ lo) && decide (hi < (i + 2) * hp)

/-- Whether one station is in range, its claims and stripes included. -/
def stationOk (p : Package) (i : Nat) (st : Station) (plen poff psize : Nat) : Bool :=
  decide (st.number = i) && (if st.kind = 3 then decide (st.shape ≤ 5) else decide (st.shape = 0xFF))
    && (if st.kind = 3 then within st.split 1 32 else decide (st.split = 1))
    && (if st.kind = 3 ∧ st.shape = 4 then true else decide (st.groups = 0))
    && decide (st.monitor < p.budgets.length)
    && (used16 st.inQ ++ used16 st.outQ).all (fun q => decide (q < p.queues.length))
    && (decide (st.kind ≠ 3) || decide (st.fmtW = st.fmtIn))
    && (decide (st.outTensor < p.tensors.length) || (decide (st.kind = 7) && decide (st.outTensor = 0xFFFF))) && decide (poff + plen ≤ psize) && paramLenOk st plen
    && (if within st.kind 2 6 then tilingOk st else true)
    && (match st.params with
      | .source pc n => decide (n < if pc then 16 else 36)
      | .expand r => expandOk p st r
      | .matmul r => matmulOk p st r
      | .pool r => poolOk p st r
      | .resample r => resampleOk p st r
      | .vector _ => true
      | .publish r => publishOk p st r)
    && (if st.kind = 1 ∨ st.kind = 3 then true else decide (st.tiles = p.tileCount st))
    && p.claimsCover st
    && (p.producers st).all (fun n => match p.st? n with
      | some q => stripeInputOk p st q
      | none => true)

/-- The strided size of a tensor in bytes (R116). -/
def tensorBytes (t : Tensor) : Nat := if t.dim2 ≤ 1 then t.dim1 * t.stride1 else t.dim2 * t.stride2

/-- Whether a station's output tiles are partial tiles of a split reduction (R113). -/
def Station.partial? (st : Station) : Bool := decide (st.kind = 3) && decide (1 < st.split)

/-- The format of a station's output tiles: the accumulation format for partial tiles (R113). -/
def tileFmt (st : Station) : Fmt :=
  if st.partial? then (if (fmtOr st.fmtIn).isInt then .int32 else .fp32) else fmtOr st.fmtOut

/-- The bytes from one axis-1 index of a plane of partials to the next (DESIGN CHOICE, notes/assumptions/125.md). -/
def partStride (t : Tensor) : Nat := ceilDiv (4 * t.dim0) 32 * 32

/-- The bytes of a station's element plane: the strided tensor, or one plane for each split partial. -/
def Package.elemPlane (p : Package) (st : Station) : Nat :=
  let t := p.out st
  if st.partial? then st.split * (t.dim2 * t.dim1 * partStride t) else tensorBytes t

/-- The bytes of a station's scale plane (R85). -/
def Package.scalePlane (p : Package) (st : Station) : Nat :=
  let t := p.out st
  if (tileFmt st).scaled then ceilDiv t.dim0 32 * t.dim1 * t.dim2 else 0

/-- Whether rows lie in segments of a mask. -/
def rowsInMask (m base limit : Nat) : Bool :=
  (List.range (ceilDiv limit 128 - base / 128)).all fun i => bit m (base / 128 + i)

/-- Whether a station claims the segments of some rows of a block. -/
def Package.ownsRows (p : Package) (st block base limit : Nat) : Bool :=
  let m := p.claims.foldl (fun m c => match c with
    | .segments s b k => if s = st ∧ b = block then (BitVec.ofNat 64 m ||| BitVec.ofNat 64 k).toNat else m
    | _ => m) 0
  rowsInMask m base limit

/-- Whether one claim is in range (R210, R211, R219, R470). -/
def claimOk (p : Package) (c : Claim) : Bool :=
  match c with
  | .segments st b _ => decide (st < p.stations.length) && decide (b < 32)
  | .window st b w base limit w0 w1 =>
    decide (st < p.stations.length) && decide (b < 32) && decide (w < 16) && within base 0 8063
      && within limit (base + 2) 8064 && decide ((limit - base) % 2 = 0) && p.ownsRows st b base limit
      && decide (w0 < p.stations.length) && (decide (w1 = 0xFFFF) || decide (w1 < p.stations.length))
      && (used16 [w0, w1]).all fun k => match p.st? k with
        | some q => decide (p.elemPlane q + p.scalePlane q ≤ (limit - base) / 2 * 512)
        | none => false
  | .weights st b _ first count =>
    decide (st < p.stations.length) && decide (b < 32) && decide (first ≤ 62) && within count 1 (63 - first)
      && p.residency && p.ownsRows st b (128 * first) (128 * (first + count))
      && (match p.st? st with
        | some q => decide (q.tiling.reuse = 2)
        | none => false)
  | .tick st t => decide (st < p.stations.length) && decide (t < 32)
  | .stream st n => decide (n < 32) && (match p.st? st with
      | some q => decide (q.kind = 7)
      | none => false)
  | .plane st d n => decide (d < 4) && decide (n < 4) && (match p.st? st with
      | some q => decide (q.kind = 7)
      | none => false)

/-- The segments a package's claims name: block times 64 plus segment. -/
def Package.segmentsClaimed (p : Package) : List Nat :=
  p.claims.flatMap fun c => match c with
    | .segments _ b m => (bitList m 64).map (64 * b + ·)
    | _ => []

/-- The windows a package claims: block times 16 plus number. -/
def Package.windowsClaimed (p : Package) : List Nat :=
  p.claims.filterMap fun c => match c with
    | .window _ b w _ _ _ _ => some (16 * b + w)
    | _ => none

/-- The names of the weight regions a package claims. -/
def Package.namesClaimed (p : Package) : List Nat :=
  p.claims.filterMap fun c => match c with
    | .weights _ _ n _ _ => some n
    | _ => none

/-- The trigger of a package's frame tick (R470). -/
def Package.trigger (p : Package) : Option Nat :=
  p.claims.findSome? fun c => match c with
    | .tick _ t => some t
    | _ => none

/-- The streams a package claims, with their stations. -/
def Package.streamsClaimed (p : Package) : List (Nat × Nat) :=
  p.claims.filterMap fun c => match c with
    | .stream s n => some (n, s)
    | _ => none

/-- The planes a package claims (4 times port plus plane), with their stations. -/
def Package.planesClaimed (p : Package) : List (Nat × Nat) :=
  p.claims.filterMap fun c => match c with
    | .plane s d n => some (4 * d + n, s)
    | _ => none

/-- Whether a task budget entry is in range (R357). -/
def budgetOk (e : Bytes) (i : Nat) : Bool :=
  let x := parseBudget e
  decide (field e 0 1 = i) && within x.budget 1 1000000
    && (if x.aliveEn then decide (x.aliveMax = 0) || within x.aliveMax (max x.aliveMin 1) 10000000
        else decide (x.aliveMin = 0) && decide (x.aliveMax = 0))

/-- Whether the code fields of a station's parameters hold a code that is used: SOURCE_KIND, OP, TARGET (R187, R482,
R559). -/
def paramCodesOk (e params : Bytes) : Bool :=
  let q := paramBytes e params
  match field e 2 1 with
  | 1 => decide (field q 0 1 ≤ 1)
  | 4 => decide (field q 16 1 ≤ 1)
  | 7 => decide (field q 0 1 ≤ 1)
  | _ => true

/-- Reason 0x0006. -/
def badRange (b : Bytes) (p : Package) : Bool :=
  let es := entriesOf (sectionOf b 1) 64
  let bs := entriesOf (sectionOf b 7) 16
  let psize := (sectionOf b 5).length
  !within (field b 6 2) 1 1024 || decide (2048 < field b 0x14 2)
    || decide ((sectionOf b 1).length ≠ 64 * field b 6 2) || decide ((sectionOf b 2).length ≠ 16 * field b 0x14 2)
    || decide ((sectionOf b 3).length % 128 ≠ 0) || decide ((sectionOf b 7).length % 16 ≠ 0)
    || decide ((sectionOf b 8).length % 16 ≠ 0) || !within p.budgets.length 1 256
    || es.any (fun e => !within (field e 2 1) 1 7 || !paramCodesOk e (sectionOf b 5))
    || (es.zipIdx.zip p.stations).any (fun x =>
        !stationOk p x.1.2 x.2 (field x.1.1 0x30 4) (field x.1.1 0x2C 4) psize)
    || (List.range 4).any (fun r => decide (12288 < ((p.queues.filter fun q => q.region = r).map fun q => q.depth).sum))
    || p.queues.any (fun q => !within q.depth 2 1024 || decide (4 ≤ q.region) || decide (q.consumers = []))
    || (entriesOf (sectionOf b 2) 16).any (fun e => decide (field e 2 2 = 0xFFFF))
    || (entriesOf (sectionOf b 3) 128).any (fun e => decide (field e 0 2 ≠ 1))
    || p.tensors.any (fun t => decide (t.stride1 % 32 ≠ 0) || decide (t.stride2 % 32 ≠ 0))
    || bs.zipIdx.any (fun x => !budgetOk x.1 x.2)
    || (List.range p.budgets.length).any (fun i => !p.stations.any fun st => st.monitor = i)
    || (entriesOf (sectionOf b 8) 16).any (fun e => (parseClaim e).isNone)
    || p.claims.any (fun c => !claimOk p c)
    || !decide p.segmentsClaimed.Nodup || !decide p.windowsClaimed.Nodup || !decide p.namesClaimed.Nodup
    || decide ((p.claims.filter fun c => match c with
        | .tick _ _ => true
        | _ => false).length ≠ 1)
    || !decide (p.streamsClaimed.map (·.1)).Nodup || !decide (p.planesClaimed.map (·.1)).Nodup
    || decide (254 < (Config.hostParams p.hostParams).length)

/-- Removes, round by round, the stations all of whose producers are already removed (R109). -/
def peel (p : Package) : Nat → List Nat → List Nat
  | 0, l => l
  | n + 1, l => peel p n (l.filter fun i => match p.st? i with
      | some st => (p.producers st).any l.contains
      | none => false)

/-- Reason 0x000A. -/
def badGraph (p : Package) : Bool :=
  let n := p.stations.length
  p.queues.any (fun q => decide (n ≤ q.producer) || q.consumers.any fun c => decide (n ≤ c))
    || p.queues.zipIdx.any (fun x => match p.st? x.1.producer with
        | some st => !st.outQ.contains x.2
        | none => true)
    || p.queues.zipIdx.any (fun x => x.1.consumers.any fun c => match p.st? c with
        | some st => !st.inQ.contains x.2
        | none => true)
    || p.stations.any (fun st => (used16 st.outQ).any (fun q => ((p.q? q).map fun e => e.producer) ≠ some st.number)
        || (used16 st.inQ).any (fun q => !((p.q? q).map fun e => e.consumers.contains st.number).getD false))
    || decide (peel p n (List.range n) ≠ [])

/-- Whether every block of `l` has its whole group of `n` in `l`. -/
def wholeGroups (l : List Nat) (n : Nat) : Bool := l.all fun b => (List.range n).all fun k => l.contains (b - b % n + k)

/-- Reason 0x000B. -/
def badUnits (p : Package) : Bool :=
  p.stations.any fun st =>
    (st.onOx && (decide (st.oxList = []) || (within st.shape 1 3 && !wholeGroups st.oxList 4)
      || (decide (st.shape = 4) && !wholeGroups st.oxList 8)))
    || (st.onVec && decide (st.vecList = []))
    || (st.paired && (st.onOx || st.onVec) && (match st.pairs with
      | none => true
      | some l => l.any (fun x => x.2.2) && !st.crossRegion))

/-- Reason 0x0007. -/
def badBeats (p : Package) : Bool :=
  p.stations.any fun st => match p.worstBeats st with
    | some n => decide (250000 < n) || decide (250000 < st.worst)
    | none => false

/-- Reason 0x0008. -/
def badGroups (p : Package) : Bool :=
  p.stations.any fun st => decide (st.kind = 3 ∧ st.shape = 4) && !within st.groups 1 16

/-- Reason 0x0009. -/
def badClamp (p : Package) : Bool :=
  p.stations.any fun st => match st.params with
    | .matmul r => if isIntCode st.fmtOut then decide (r.hi.toInt < r.lo.toInt) else (ofFp32 r.hi).lt (ofFp32 r.lo)
    | _ => false

/-- The load result code of an image (R139), with the package when it is accepted. `key` is the customer key. -/
def loadCheck (key : Option Bytes) (b : Bytes) : Nat × Option Package :=
  match key with
  | none => (0x0002, none)
  | some k =>
    if badHeader b then (0x0003, none)
    else if !ecdsaVerify k (sha256 (b.take (b.length - 64))) (b.drop (b.length - 64)) then (0x0001, none)
    else if badDirectory b then (0x000C, none)
    else
      let p := parsePackage b
      if badReserved b then (0x0004, none)
      else if badFormat p then (0x0005, none)
      else if badRange b p then (0x0006, none)
      else if badGraph p then (0x000A, none)
      else if badUnits p then (0x000B, none)
      else if badBeats p then (0x0007, none)
      else if badGroups p then (0x0008, none)
      else if badClamp p then (0x0009, none)
      else (0x0000, some p)

end Sys2Proof.Machine
end

