-- ==== Sys2Proof/Machine/Flags.lean ====
section
/-! DEFINITION. The frame status word (R111, R112): its bits and the words of tensors and records. -/

namespace Sys2Proof.Machine

open Sys2Proof

abbrev Fsw := BitVec 32

abbrev Fsw.VALID : Nat := 0
abbrev Fsw.SHORT : Nat := 1
abbrev Fsw.LONG : Nat := 2
abbrev Fsw.LINK_ERR : Nat := 3
abbrev Fsw.LATE : Nat := 4
abbrev Fsw.FROZEN : Nat := 5
abbrev Fsw.TEST_INCOMPLETE : Nat := 6
abbrev Fsw.CHECK_MISMATCH : Nat := 7
abbrev Fsw.RESTARTED : Nat := 8
abbrev Fsw.DEADLINE : Nat := 9
abbrev Fsw.DEGRADED : Nat := 10
abbrev Fsw.EMPTY : Nat := 11

/-- The marks of a word: bits [11:1] (R112). -/
def fswMarks (w : BitVec 32) : BitVec 32 := w &&& 0x00000FFE#32

/-- A word with one mark set (R25: no step clears a mark). -/
def fswMark (w : BitVec 32) (b : Nat) : BitVec 32 := w ||| (1#32 <<< b)

/-- A word with VALID cleared (R340). -/
def fswClearValid (w : BitVec 32) : BitVec 32 := w &&& ~~~(1#32 <<< Fsw.VALID)

/-- Whether a mark is set. -/
def fswHas (w : BitVec 32) (b : Nat) : Bool := w.getLsbD b

/-- A word as ingest opens it: port and context, no mark (R268). -/
def fswOpen (port ctx : Nat) : BitVec 32 :=
  BitVec.ofNat 32 (port % 256 * 2 ^ 24 + ctx % 256 * 2 ^ 16)

/-- The word of an output: the marks of all inputs, port and context of the primary one (R112). -/
def fswJoin (primary : BitVec 32) (inputs : List (BitVec 32)) : BitVec 32 :=
  (primary &&& 0xFFFF0000#32) ||| (inputs.foldl (fun a w => a ||| fswMarks w) (fswMarks primary))

/-- Whether a word has a bit that `withhold` names (R351). -/
def fswWithheld (w : BitVec 32) (withhold : Nat) : Bool :=
  decide (w &&& BitVec.ofNat 32 withhold ≠ 0#32)

/-- Which values of WITHHOLD are legal (R351, R364). -/
def withholdLegal (v : Nat) : Bool :=
  bitsOf v 15 11 = 0 && !bit v 0 && !bit v 8 && bit v 5 && bit v 6 && bit v 7 && bit v 9 && bit v 10

end Sys2Proof.Machine
end

