-- ==== Sys2Proof/Machine/Records.lean ====
section
/-! DEFINITION. Captures (12 R335), result records and the last-word frame (18 R486 to R494). -/

namespace Sys2Proof.Machine

open Sys2Proof

/-! ## Captures -/

/-- The record of all eight bases (R326, R335). -/
def captureRecord (s : State) : Bytes := (List.range 8).flatMap fun n => leBytes 8 (s.t n)

/-- An event of a capture source: the channel that owns it latches all bases and counts (R335). -/
def captureSource (src : Nat) (s : State) : State :=
  forEach (List.range 16) (fun c s =>
    if s.r (Reg.CAP_SOURCE c) = src ∧ src ≠ 0xFF then
      (s.setBlob (Reg.CAP_RECORD c) (captureRecord s)).bump (Reg.CAP_COUNT c)
    else s) s

/-! ## The record's bytes (R486) -/

/-- The bytes of a record; `word` is the word with VALID as the port fixes it (R492). -/
def recordBytes (s : State) (rec : Rec) (word : BitVec 32) : Bytes :=
  let b := [0x43#8, 0x52#8, 0x01#8] ++ leBytes 1 rec.kind ++ leBytes 1 rec.stream ++ leBytes 1 rec.graph
    ++ leBytes 2 (s.r Reg.NODE_ID) ++ leBytes 4 rec.seq ++ leBytes 4 word.toNat ++ leBytes 8 rec.timestamp
    ++ leBytes 4 rec.frameNo ++ leBytes 2 rec.recordType ++ leBytes 2 rec.payload.length ++ rec.payload
  b ++ leBytes 4 (crc32c b)

/-! ## The last-word frame -/

/-- The state of the health record (R439). -/
def health (s : State) : Nat := if s.fuses.health2 then 2 else if s.aon.health1 then 1 else 0

/-- The drain cause as reported (R433, R439). -/
def drainCause (s : State) : Nat :=
  if s.fuses.health2 then s.fuses.drainCause else if s.aon.health1 then s.aon.drainCause else 0

/-- The last-word frame's record (R493, R494). -/
def lastWordRec (s : State) : Rec :=
  { stream := 0xFF, graph := 0, kind := 2, seq := s.r Reg.SAFE_ENTRIES
    word := if s.drained then fswMark 0#32 Fsw.DEGRADED else 0#32
    timestamp := s.t 0, frameNo := 0, recordType := 0
    payload := leBytes 1 (s.r Reg.FIRST_SOURCE) ++ leBytes 1 (if s.drained then drainCause s else 0)
      ++ leBytes 1 (s.r Reg.OVERFLOW + (if s.drained then 2 else 0) + (if s.sys.handover then 4 else 0))
      ++ leBytes 1 (health s) ++ leBytes 4 0 }

/-- A CAN FD data field padded with 0x00 to the next data length (R491). -/
def canPad (b : Bytes) : Bytes :=
  match [0, 1, 2, 3, 4, 5, 6, 7, 8, 12, 16, 20, 24, 32, 48, 64].find? fun n => b.length ≤ n with
  | some n => b ++ List.replicate (n - b.length) 0#8
  | none => b

/-- One last-word frame on ETH-A, counted. -/
def emitLastWord (x : LwTemplate) (vlan : Nat) (b : Bytes) (s : State) : State :=
  ((s.emit (.lastWord 0 x.mac vlan x.ip (x.udp / 65536) (x.udp % 65536) b)).bump Reg.LW_SENT).bump (Reg.NET_TX_FRAMES 0)

/-- The last-word frame on ETH-A: once with LW_VLAN1, and once more with LW_VLAN2 unless that is 0xFFFF. -/
def lastWordEth (x : LwTemplate) (b : Bytes) (s : State) : State :=
  let s1 := emitLastWord x x.vlan1 b s
  if x.vlan2 = 0xFFFF then s1 else emitLastWord x x.vlan2 b s1

/-- The last-word frame on CAN0. -/
def lastWordCan (x : LwTemplate) (b : Bytes) (s : State) : State :=
  ((s.emit (.canLastWord 0 x.canId (canPad b))).bump Reg.LW_SENT).bump (Reg.CAN_TX_FRAMES 0)

/-- Whether an Ethernet port's link is up. -/
def ethUp (s : State) (e : Nat) : Bool := s.on (Reg.NET_ENABLE e) && decide (s.r (Reg.NET_LINK_STATE e) = 2)

/-- Whether a CAN controller takes part in its bus. -/
def canUp (s : State) (c : Nat) : Bool := s.on (Reg.CAN_ENABLE c) && decide (s.r (Reg.CAN_ERR_STATE c) ≠ 2)

/-- Sends the last-word frame on ETH-A and CAN0, or holds it while the link or bus is down (R493). -/
def sendLastWord (s : State) : State :=
  let b := recordBytes s (lastWordRec s) (lastWordRec s).word
  let x := s.net.lw
  let s1 := if ethUp s 0 then lastWordEth x b s else { s with net := { s.net with heldLwEth := some (x, b) } }
  if canUp s1 0 then lastWordCan x b s1 else { s1 with net := { s1.net with heldLwCan := some (x, b) } }

/-- Records that have not started when the safe state is entered are sent with VALID cleared (R340, R492). -/
def clearWaiting (s : State) : State :=
  { s with net := { s.net with waiting := s.net.waiting.map fun (p : Nat × List Rec) =>
      (p.1, p.2.map fun x => { x with word := fswClearValid x.word }) } }

/-! ## Transmit queues and the credit-based shaper (R479) -/

/-- A port's rate in units of 100 Mb/s (R495). -/
def portRate (s : State) (e : Nat) : Nat :=
  if e = 2 then 10 else match s.r (Reg.NET_RATE e) with
    | 1 => 25
    | 2 => 50
    | _ => 100

/-- The transmit queue of a VLAN tag (R479). -/
def queueOf (vlan : Nat) : Nat := if vlan = 0xFFFF then 0 else vlan / 8192

/-- The transmit queues that a stream's records wait for, one for each copy (R491). -/
def streamQueues (s : State) (n : Nat) : List Nat :=
  if 2 ≤ s.r (Reg.STR_PORT n) then []
  else queueOf (s.r (Reg.STR_VLAN1 n)) :: (if s.on (Reg.STR_FRER n) then [queueOf (s.r (Reg.STR_VLAN2 n))] else [])

/-- The idle slope of a queue in kbit/s; 0 leaves it unshaped. -/
def idleSlope (s : State) (e q : Nat) : Nat := field (s.blob (Reg.TSN_IDLE_SLOPE e)) (4 * q) 4

/-- The credit of a queue as it was last set. -/
def State.credit (s : State) (e q : Nat) : Credit := sget (fun _ => {}) s.net.credit (8 * e + q)

/-- Sets the credit of a queue. -/
def setCredit (e q : Nat) (x : Credit) (s : State) : State :=
  { s with net := { s.net with credit := sset (fun _ => {}) s.net.credit (8 * e + q) x } }

/-- The credit of a queue now: it grows by the idle slope while frames wait. -/
def creditNow (s : State) (e q : Nat) : Int := (s.credit e q).value + idleSlope s e q * (s.t3 - (s.credit e q).time)

/-- Whether some record waits for a queue of a port. -/
def queueWaits (s : State) (e q : Nat) : Bool :=
  s.net.waiting.any fun x => decide (x.2 ≠ []) && decide (s.r (Reg.STR_PORT x.1) = e) && (streamQueues s x.1).contains q

/-- A record joins its queues: one in which none waited begins with a credit that is not positive, as it stood or as it has
come back to 0 since. -/
def joinQueues (n : Nat) (s : State) : State :=
  let e := s.r (Reg.STR_PORT n)
  forEach (streamQueues s n) (fun q s =>
    if idleSlope s e q = 0 ∨ queueWaits s e q ∨ s.t3 < (s.credit e q).time then s
    else setCredit e q ⟨min 0 (creditNow s e q), s.t3⟩ s) s

/-! ## Release of records (R489, R490) -/

/-- Puts a record in its stream's queue; a fifth discards the oldest (R490). -/
def queueRecord (rec : Rec) (s : State) : State :=
  let l := sget (fun _ => []) s.net.waiting rec.stream ++ [rec]
  let (l, s) := if 4 < l.length then (l.drop 1, s.bump (Reg.STR_TX_DROP rec.stream)) else (l, s)
  { s with net := { s.net with waiting := sset (fun _ => []) s.net.waiting rec.stream l } }

/-- Releases a record on its stream: it takes the stream's next SEQ (R489) and waits for transmission, ahead of which it
joins its transmit queues. -/
def releaseStream (rec : Rec) (s : State) : State :=
  let n := s.r (Reg.STR_SEQ rec.stream)
  queueRecord { rec with seq := n } ((joinQueues rec.stream s).setR (Reg.STR_SEQ rec.stream) ((n + 1) % 2 ^ 32))

end Sys2Proof.Machine
end

