-- ==== Sys2Proof/Machine/Frames.lean ====
section
/-! DEFINITION. The frames of graphs: counter slots, marks attributed to stations, records at the publication
gate, abandoned frames, task monitors (05 R129, 13 R349 to R362). -/

namespace Sys2Proof.Machine

open Sys2Proof

/-- The state of graph slot `g` (0 to 63): entry 0x3012 (R140 to R148). -/
def gstate (s : State) (g : Nat) : Nat := s.r (Reg.GRAPH_STATE g)

/-- Applies a function to a graph slot. -/
def modSlot (g : Nat) (f : GraphSlot → GraphSlot) (s : State) : State := s.setSlot g (f (s.slot g))

/-- Whether a station frame is that of station `st` and frame `f`. -/
def StFrame.isFor (x : StFrame) (st f : Nat) : Bool := decide (x.station = st) && decide (x.frame = f)

/-- The station frame of a station, if it is open or not yet forgotten. -/
def stFrame? (s : State) (g st f : Nat) : Option StFrame := (s.slot g).frames.find? fun x => x.isFor st f

/-- Applies a function to one station frame. -/
def modFrame (g st f : Nat) (h : StFrame → StFrame) (s : State) : State :=
  modSlot g (fun x => { x with frames := x.frames.map fun y => if y.isFor st f then h y else y }) s

/-- The stations upstream of a station, itself included. -/
def upstreamOf (s : State) (g st : Nat) : List Nat :=
  match (s.slot g).pkg with
  | some p => p.upstream st
  | none => [st]

/-- The stations downstream of a station, itself included. -/
def downstreamOf (s : State) (g st : Nat) : List Nat :=
  match (s.slot g).pkg with
  | some p => p.downstream st
  | none => [st]

/-- A station of a slot's package. -/
def stationOf (s : State) (g st : Nat) : Option Station := (s.slot g).pkg.bind fun p => p.st? st

/-- The publish record of a station, if it is a publish station. -/
def publishOf (s : State) (g st : Nat) : Option PublishRec :=
  (stationOf s g st).bind fun x => match x.params with
    | .publish r => some r
    | _ => none

/-- The path of primary inputs from a station to its first station (R112, R488), at most `n` long. -/
def primaryPath (p : Package) : Nat → Nat → List Nat
  | 0, i => [i]
  | n + 1, i => i :: match p.st? i with
    | some st => match p.producer? st 0 with
      | some q => primaryPath p n q.number
      | none => []
    | none => []

/-- The record's frame status word: the words of every tensor upstream, port and context of the primary path
(R112, R350). -/
def recordWord (s : State) (g st f : Nat) : BitVec 32 :=
  let ups := upstreamOf s g st
  let marks := (s.slot g).frames.foldl (fun w x => if x.frame = f ∧ ups.contains x.station then w ||| fswMarks x.word else w) 0#32
  let prim := match (s.slot g).pkg with
    | some p => (primaryPath p p.stations.length st).findSome? fun i =>
        match p.st? i, stFrame? s g i f with
        | some q, some x => if q.kind = 1 then some x.word else none
        | _, _ => none
    | none => none
  let w := (prim.getD 0#32 &&& 0xFFFF0000#32) ||| marks
  if s.drained then fswMark w Fsw.DEGRADED else w

/-- The record's timestamp (R488): that of the primary source's frame, else of the tick that opened the frame. -/
def recordTime (s : State) (g st f : Nat) : Nat :=
  let own := ((stFrame? s g st f).map fun x => x.timestamp).getD 0
  match (s.slot g).pkg with
  | some p => ((primaryPath p p.stations.length st).findSome? fun i =>
      (match p.st? i, stFrame? s g i f with
      | some q, some x => if q.kind = 1 then some x.timestamp else none
      | _, _ => none)).getD own
  | none => own

/-- Starts the 10 ms of R352 for every unreleased record downstream whose withheld mark is now set. -/
def noteWithheld (g f : Nat) (s : State) : State :=
  let withheld (x : StFrame) : Bool := fswWithheld (recordWord s g x.station f) (s.r (Reg.WITHHOLD g))
  let note (x : StFrame) : StFrame :=
    if x.frame = f ∧ (publishOf s g x.station).isSome ∧ !x.released ∧ x.markAt = none ∧ withheld x then
      { x with markAt := some s.t3 }
    else x
  modSlot g (fun sl => { sl with frames := sl.frames.map note }) s

/-- Attributes a mark to a station's frame (R350). -/
def markStation (g st f b : Nat) (s : State) : State :=
  noteWithheld g f (modFrame g st f (fun x => { x with word := fswMark x.word b }) s)

/-- Closes counter slots: the slot of one station frame. -/
def closeSlot (g st f : Nat) (s : State) : State := modFrame g st f (fun x => { x with slotOpen := false }) s

/-! ## The gate -/

/-- The actual lengths of a publish station's input tensor. -/
def inputAct (s : State) (g st f : Nat) : Nat × Nat × Nat :=
  match ((s.slot g).pkg.bind fun p => (p.st? st).bind fun q => p.producer? q 0).bind fun z => stFrame? s g z.number f with
  | some x => (x.act0, x.act1, x.act2)
  | none => (0, 0, 0)

/-- The device releases one record of a publish station (R350, R351): kind 0 with its payload, or kind 1 without. -/
def releaseRecord (g st f kind : Nat) (payload : Bytes) (s : State) : State :=
  match publishOf s g st with
  | none => s
  | some p =>
    let w0 := recordWord s g st f
    let valid := kind = 0 ∧ !fswWithheld w0 (s.r (Reg.WITHHOLD g)) ∧ !s.safe ∧ !s.drained ∧ (s.slot g).admitAfter ≤ f
    let w := if valid then fswMark w0 Fsw.VALID else w0
    let out : Rec := { stream := p.stream, graph := g + 1, kind := kind, seq := 0, word := w
                       timestamp := recordTime s g st f, frameNo := f, recordType := p.recordType
                       payload := payload, act := inputAct s g st f }
    let s1 := s.bump (if valid then Reg.GATE_VALID g else Reg.GATE_NOT_VALID g)
    let s2 := modFrame g st f (fun x => { x with released := true, handed := true, slotOpen := false }) s1
    if p.overlayTarget then
      let planes := match (s.slot g).pkg with
        | some k => (k.planesClaimed.filter fun (x : Nat × Nat) => x.2 = st).map Prod.fst
        | none => []
      { s2 with net := { s2.net with overlayRec := planes.foldl (fun m d => sinsert d out m) s2.net.overlayRec } }
    else releaseStream out s2

/-! ## Task monitors (R357 to R362) -/

/-- The stations of the task a monitor holds. -/
def taskStations (s : State) (m : Nat) : List Nat :=
  let g := s.r (Reg.MON_GRAPH m)
  if g = 0 then [] else match (s.slot (g - 1)).pkg with
    | some p => (p.stations.filter fun st => st.monitor = s.r (Reg.MON_ENTRY m)).map fun st => st.number
    | none => []

/-- Whether a task has completed a frame: each station has sent LAST or handed its record (R359). -/
def taskDone (s : State) (m f : Nat) : Bool :=
  let g := s.r (Reg.MON_GRAPH m) - 1
  (taskStations s m).all fun st => match stFrame? s g st f with
    | some x => x.lastSent || x.handed
    | none => true

/-- Whether some station of the task abandoned the frame. -/
def taskAbandoned (s : State) (m f : Nat) : Bool :=
  let g := s.r (Reg.MON_GRAPH m) - 1
  (taskStations s m).any fun st => match stFrame? s g st f with
    | some x => x.abandoned
    | none => false

/-! ## Abandoned frames -/

/-- Whether an earlier record of a publish station is still at the gate (R354). -/
def earlierWaits (s : State) (g st f : Nat) : Bool :=
  (s.slot g).frames.any fun x => decide (x.station = st) && decide (x.frame < f) && !x.released

/-- Releases the empty records of a publish station's abandoned frames, in frame order (R354, R360): one waits while an
earlier record of the station is still at the gate. -/
def flushRecords (g st : Nat) (s : State) : State :=
  forEach (((s.slot g).frames.filter fun x => decide (x.station = st) && x.abandoned && !x.released).map fun x => x.frame)
    (fun f s => if earlierWaits s g st f then s else releaseRecord g st f 1 [] s) s

/-- A monitor stops timing a frame. -/
def endTask (m f : Nat) (s : State) : State :=
  s.setMon m { s.mon m with running := (s.mon m).running.filter fun p => p.1 ≠ f }

/-- A task whose stations have all sent LAST or handed a record, one of them by abandoning, has ended its frame
(R359) without a completion (R361). -/
def voidTasks (g f : Nat) (s : State) : State :=
  forEach (s.slot g).monitors (fun m s => if taskDone s m f ∧ taskAbandoned s m f then endTask m f s else s) s

/-- Abandons one station's frame (R360): no further tile, its slot closed; a publish station hands an empty record. -/
def abandonStation (g st f : Nat) (s : State) : State :=
  match stFrame? s g st f with
  | none => s
  | some x =>
    if x.abandoned ∨ x.released ∨ (x.lastSent ∧ (publishOf s g st).isNone) then s
    else
      let s1 := (modFrame g st f (fun y => { y with
        abandoned := true, slotOpen := false, issued := [], handed := y.handed || (publishOf s g st).isSome }) s).bump
        (Reg.ABANDONED g)
      if (publishOf s g st).isSome then voidTasks g f (flushRecords g st s1) else s1

/-- Abandons frame `f` for a list of stations. -/
def abandonStations (g f : Nat) (l : List Nat) (s : State) : State := forEach l (fun st s => abandonStation g st f s) s

/-- Abandons frame `f` for a station and everything downstream of it, with a mark (R360, R232). -/
def abandonDown (g st f b : Nat) (s : State) : State :=
  abandonStations g f (downstreamOf s g st) (markStation g st f b s)

/-- Abandons every open frame of a graph (R434 step 2). -/
def abandonGraph (g : Nat) (s : State) : State :=
  let l := ((s.slot g).frames.filter fun x => !x.released && !x.abandoned).map fun x => (x.station, x.frame)
  let s1 := forEach l (fun p s => abandonStation g p.1 p.2 s) s
  modSlot g (fun sl => { sl with frames := sl.frames.map fun x =>
    { x with slotOpen := false, abandoned := x.abandoned || !x.released, issued := [] } }) s1

/-- Forgets station frames that nothing needs: the records of the frame are released, every slot of the frame
closed, and no later station reads it. -/
def pruneFrames (g : Nat) (s : State) : State :=
  modSlot g (fun sl =>
    let live (f : Nat) : Bool := sl.frames.any fun x => decide (x.frame = f) &&
      (x.slotOpen || ((publishOf s g x.station).isSome && !x.released))
    { sl with frames := sl.frames.filter fun x => live x.frame }) s

/-! ## Monitors and frames (R357 to R362) -/

/-- The monitors that hold a graph. -/
def monitorsOf (s : State) (g : Nat) : List Nat :=
  (List.range 256).filter fun m => s.r (Reg.MON_GRAPH m) = g + 1

/-- Starts the task monitors of a graph for a new frame (R359, R362). -/
def startMonitors (g f : Nat) (s : State) : State :=
  forEach (s.slot g).monitors (fun m s => s.setMon m { s.mon m with running := (s.mon m).running ++ [(f, s.t3)] }) s

end Sys2Proof.Machine
end

