-- ==== Sys2Proof/Machine/Faults.lean ====
section
/-! DEFINITION. The fault collector (16): raising a source, the safe state, the chip drain, restarts of units
(14 R377 to R379), occurrences and the suspect rule (R380 to R382). -/

namespace Sys2Proof.Machine

open Sys2Proof

/-! ## History ring freeze (09 R256, R257) -/

/-- Whether some record of the ring is still without its header. -/
def ringBusy (s : State) : Bool := s.ring.recs.any fun x => !x.complete && decide (x.port ≠ 0xFE)

/-- A freezing ring becomes frozen once its last record in progress has its header (R256). -/
def ringSettle (s : State) : State :=
  if s.r Reg.RING_STATE = 1 ∧ !ringBusy s then s.setR Reg.RING_STATE 2 else s

/-- A freeze in the recording state (R256): T0 is recorded and no record is reserved from then on. -/
def ringFreezeNow (s : State) : State :=
  if s.r Reg.RING_STATE = 0 then ringSettle ((s.setR Reg.RING_STATE 1).setR Reg.RING_FREEZE_TIME (s.t 0)) else s

/-! ## The safe state (R338, R339) -/

/-- An entry into the safe state: ERR_N low, the last-word frame, auto-freeze of the ring. -/
def enterSafe (s : State) : State :=
  let s1 := if s.sys.errLow then s else captureSource 0x30 { s with sys := { s.sys with errLow := true } }
  let s2 := sendLastWord (clearWaiting ((s1.setR Reg.SAFE_STATE 1).bump Reg.SAFE_ENTRIES))
  if s2.on Reg.RING_AUTOFREEZE then ringFreezeNow s2 else s2

/-- Entry unless the device is in the safe state already. -/
def ensureSafe (s : State) : State := if s.safe then s else enterSafe s

/-- Whether any source holds ERR_N (R427, R432). -/
def errHeld (s : State) : Bool := decide (s.r (Reg.ERR_HOLD 0) ≠ 0) || decide (s.r (Reg.ERR_HOLD 1) ≠ 0)

/-- Exit from the safe state when no fault is uncleared and the chip is not drained (R341). Only frames that open
afterwards can carry VALID again. -/
def leaveSafe (s : State) : State :=
  if s.safe ∧ !errHeld s ∧ !s.drained then
    let s1 := s.setR Reg.SAFE_STATE 0
    let s2 := { s1 with sys := { s1.sys with errLow := decide (s1.sys.phase ≠ .ready) }
                        net := { s1.net with heldLwEth := none, heldLwCan := none } }
    forEach (List.range 64) (fun g s =>
      if within (gstate s g) 3 4 then modSlot g (fun x => { x with admitAfter := s.r (Reg.FRAME_NO g) + 1 }) s else s) s2
  else s

/-! ## Raising a source (R421, R425 to R431) -/

/-- The bit of a source in PENDING or ERR_HOLD. -/
def sourceBit (base : Nat → Key) (src : Nat) (s : State) : State :=
  s.setR (base (src / 64)) (setBit (s.r (base (src / 64))) (src % 64))

/-- The reaction in force for a raise: 3 and 4 act as 5 while the chip is drained (R425). -/
def reactionOf (s : State) (src : Nat) : Nat :=
  let c := s.r (Reg.REACTION (src - 1))
  if s.drained ∧ (c = 3 ∨ c = 4) then 5 else c

/-- The latch (R429). -/
def latchSource (src : Nat) (s : State) : State :=
  if s.r Reg.FIRST_SOURCE = 0 then s.setR Reg.FIRST_SOURCE src else s.setR Reg.OVERFLOW 1

/-- What the trio is told, with the identity the source carries (R431): an interrupt under reactions 1, 3 and 5, a trap under
2 (R421); nothing after a handover (R425). -/
def informTrio (c src : Nat) (who : Ident) (s : State) : State :=
  if s.sys.handover then s
  else if c = 2 then { s with sup := { s.sup with traps := s.sup.traps ++ [(src, who)] } }
  else if c = 4 then s
  else { s with sup := { s.sup with interrupts := s.sup.interrupts ++ [(src, who)] } }

/-- Counting, pending flag, latch, ERR_N hold and safe state of one raise. -/
def raiseCore (src : Nat) (who : Ident) (s : State) : State :=
  let c := reactionOf s src
  let s1 := sourceBit Reg.PENDING src (s.bump (Reg.FAULT_COUNT (src - 1)))
  let s2 := if 2 ≤ c then latchSource src s1 else s1
  let s3 := informTrio c src who s2
  if c = 4 ∨ c = 5 then ensureSafe (sourceBit Reg.ERR_HOLD src s3) else s3

/-! ## Chip drain (R433, R434) -/

/-- A compute unit stops and forgets its work. -/
def drainUnit (u : Nat) (s : State) : State := s.setUnit u { status := .drained }

/-- The drain sequence for one cause. A chip that is drained already keeps its cause. -/
def drainChip (cause : Nat) (s : State) : State :=
  if s.drained then s
  else
    let s1 := s.setR Reg.DRAINED 1
    let s2 := { s1 with aon := { s1.aon with
      health1 := true, drainCause := if s1.aon.health1 then s1.aon.drainCause else cause } }
    let s3 := raiseCore Src.DRAIN .none s2
    let s4 := forEach (List.range 64) (fun g s => if (s.slot g).frames = [] then s else abandonGraph g s) s3
    let s5 := forEach (List.range 60) drainUnit s4
    { s5 with
      acc := [], rows := [], lanes := [], gooses := []
      ift := { s5.ift with due := [], slots := [] }
      pipes := s5.pipes.map fun p => (p.1, { p.2 with slices := [] })
      ctxs := s5.ctxs.map fun (c : Nat × Ctx) => (c.1, { c.2 with
        bufs := c.2.bufs.map fun o => { o with goldenClosed := o.goldenClosed || o.isDone } }) }

/-! ## Restarts (R75, R230, R245, R377, R378, R562, R564) -/

/-- The blocks of a unit's quad or chain in a station, the unit itself included (R62, R69). -/
def shapeGroup (st : Station) (u : Nat) : List Nat :=
  if st.onVec ∨ st.shape = 0 then [u]
  else if st.shape = 4 then (List.range 8).map fun k => u - u % 8 + k
  else (List.range 4).map fun k => u - u % 4 + k

/-- Whether a station may run on a unit (numbers 0 to 31 Ox blocks, 32 to 39 vector blocks). -/
def Station.uses (st : Station) (u : Nat) : Bool :=
  if st.onOx then st.oxList.contains u else st.onVec && decide (32 ≤ u) && st.vecList.contains (u - 32)

/-- The units of a unit's quad, chain and pair in one station. -/
def stationGroup (st : Station) (u : Nat) : List Nat :=
  let base := if 32 ≤ u then 32 else 0
  let own := shapeGroup st (u - base)
  let other := if st.paired then match st.partnerOf (u - base) with
      | some v => shapeGroup st v
      | none => []
    else []
  (own ++ other).map (base + ·)

/-- The stations of activating, active or deactivating graphs that use a unit. -/
def activeStations (s : State) (u : Nat) : List Station :=
  (List.range 64).flatMap fun g =>
    if within (gstate s g) 2 4 then
      match (s.slot g).pkg with
      | some p => p.stations.filter fun st => st.uses u
      | none => []
    else []

/-- A unit with the units of its quads, chains and pairs. -/
def groupOnce (s : State) (u : Nat) : List Nat := u :: (activeStations s u).flatMap fun st => stationGroup st u

/-- Adds the quads, chains and pairs of every unit of a list until nothing is added, at most `n` times. -/
def closeGroup (s : State) : Nat → List Nat → List Nat
  | 0, us => us
  | n + 1, us =>
    let vs := (us.flatMap (groupOnce s)).eraseDups
    if vs.length = us.length then us else closeGroup s n vs

/-- The units that restart, withdraw and return with a unit (R69, R156, R368, R378, R403). -/
def groupOf (s : State) (u : Nat) : List Nat := closeGroup s 40 [u]

/-- The windows of a block that is reset close at once, without the handshake (R222). -/
def closeBlockWindows (b : Nat) (s : State) : State :=
  forEach (List.range 16) (fun w s =>
    let x := s.win (16 * b + w)
    if x.state = .closed then s else s.setWin (16 * b + w) { x with state := .closed, regionMark := false, chipMark := false }) s

/-- Clears the accumulator entries and the row registers of a block (R377 step 3). -/
def clearBlock (b : Nat) (s : State) : State :=
  { s with acc := s.acc.filter fun (p : Nat × AccEntry) => p.1 / 512 ≠ b
           rows := s.rows.filter fun (p : Nat × RowRegs) => p.1 / 16 ≠ b }

/-- Whether the frame of a tile was abandoned (R379), or its station completes no further tile of it (R245). -/
def tileAbandoned (s : State) (t : TileRef) : Bool :=
  match stFrame? s t.g.val t.station t.frame with
  | some x => x.abandoned || x.stalled
  | none => true

/-- Resets one unit: its log becomes the replay set, in index order (R377 steps 1 to 3). -/
def resetUnit (u : Nat) (s : State) : State :=
  let x := s.unit u
  let keep := x.log.filter fun e => !tileAbandoned s e.ref
  let together (e v : LogEntry) : Bool := decide (v.ref.g = e.ref.g ∧ v.ref.station = e.ref.station ∧ v.ref.frame = e.ref.frame)
  let fresh (e : LogEntry) : LogEntry := { e with
    replay := true, fed := 0, sentW := 0, sentA := 0
    pass := e.pass.filter fun i => keep.any fun v => together e v && decide (v.ref.index = i) }
  let set := (keep.map fresh).mergeSort fun a b => decide (a.ref.index ≤ b.ref.index)
  let s1 := s.setUnit u { x with log := set, replay := set, resetting := true, sig := 0, beat := 0, closed := [], compared := 0
                                 checks := [], port := [], portNext := [], opBuf := [], usedBuf := [], skewW := [], skewA := [], outBuf := [] }
  let s2 := if u < 32 then closeBlockWindows u (clearBlock u s1) else { s1 with lanes := sdel (u - 32) s1.lanes }
  forEach set (fun e s => markStation e.ref.g.val e.ref.station e.ref.frame Fsw.RESTARTED s) s2

/-- Restarts a unit with its quad, chain and pair; a unit already in a restart starts no further one (R379). -/
def restart (u : Nat) (s : State) : State :=
  if (s.unit u).resetting ∨ s.drained ∨ (s.unit u).status = .inTest ∨ (s.unit u).status = .withdrawn then s
  else
    let us := groupOf s u
    let n := (us.map fun v => ((s.unit v).log.filter fun e => !tileAbandoned s e.ref).length).sum
    let s1 := forEach us resetUnit (s.bump Reg.RESTARTS)
    s1.bumpBy Reg.REPLAYED_TILES n

/-! ## Raise with its reaction -/

/-- Raises a source with the identity it carries (R419, R421, R431). Reaction 3 resets the unit it names (R562), reaction 4
starts a chip reset, or drains the chip within 600 s of the last such reset (R424). -/
def raise (src : Nat) (who : Ident) (s : State) : State :=
  let c := reactionOf s src
  let s1 := raiseCore src who s
  if c = 3 then match who.unit? with
    | some u => restart u s1
    | none => s1
  else if c = 4 then
    if s.aon.lastFaultReset.any fun d => decide (s.t3 < d) then drainChip src s1
    else { s1 with sys := { s1.sys with faultReset := some (s.sys.faultReset.getD (s.t3 + 1000000)) } }
  else s1

/-- Raises several sources of one beat: the lowest number is latched first (R429). -/
def raiseAll (l : List Nat) (s : State) : State :=
  forEach (l.mergeSort fun a b => decide (a ≤ b)) (fun src s => raise src .none s) s

/-! ## Occurrences (R380 to R382) -/

/-- 600 s of T3. -/
def suspectSpan : Nat := 600 * 10 ^ 9

/-- The occurrence counter of a unit: Ox block, vector block or none (control pairs count elsewhere). -/
def occurrenceKey (u : Nat) : Option Key :=
  if u < 32 then some (Reg.OX_OCCURRENCES u) else if u < 40 then some (Reg.VEC_OCCURRENCES (u - 32)) else none

/-- Counts an occurrence against a unit (40 + p: control pair p) for a source; a second one while its suspect
timer runs makes it suspect and drains the chip. -/
def occurrence (src u : Nat) (s : State) : State :=
  let s1 := match occurrenceKey u with
    | some k => s.bump k
    | none => s
  match sfind u s1.aon.suspect with
  | some d =>
    if s1.t3 < d then drainChip src (s1.setR Reg.SUSPECT (setBit (s1.r Reg.SUSPECT) u))
    else { s1 with aon := { s1.aon with suspect := sinsert u (s1.t3 + suspectSpan) s1.aon.suspect } }
  | none => { s1 with aon := { s1.aon with suspect := sinsert u (s1.t3 + suspectSpan) s1.aon.suspect } }

/-- An event of R380 on one unit: the source is raised, the unit and its group restart, and one occurrence is
counted unless a restart of the unit already runs (R379). The restart is part of the mechanism (R422). -/
def unitFault (src u : Nat) (who : Ident) (s : State) : State :=
  let fresh := !(s.unit u).resetting
  let s1 := restart u s
  let s2 := raise src who s1
  if fresh then occurrence src u s2 else s2

/-! ## Withdrawn and abandoned tiles (R75, R230, R245, R564) -/

/-- How many indices one fetch hands out (R153): for a fused station every group and partial of a pass (the partials:
DESIGN CHOICE, notes/assumptions/126.md). -/
def fetchCount (st : Station) : Nat := if st.shape = 4 ∧ st.kind = 3 then max 1 st.groups * max 1 st.split else 1

/-- Whether two tiles come from one fetch of a station. -/
def sameFetch (st : Station) (t v : TileRef) : Bool :=
  decide (t.g = v.g) && decide (t.station = v.station) && decide (t.frame = v.frame)
    && decide (t.index / fetchCount st = v.index / fetchCount st)

/-- Whether the datapath of some unit has taken tokens of a tile, or of a tile of its pass. -/
def begun (s : State) (t : TileRef) : Bool :=
  match stationOf s t.g.val t.station with
  | some st => s.units.any fun u => u.2.log.any fun e => decide (0 < e.fed) && sameFetch st e.ref t
  | none => false

/-- A tile is abandoned without its frame: the station completes no further tile of it, and the logs release the tiles of it
that no datapath has begun (R245); one that has begun runs to its end and is then dropped (notes/assumptions/127.md). -/
def stallStation (t : TileRef) (s : State) : State :=
  let gone (v : TileRef) : Bool := decide (v.g = t.g) && decide (v.station = t.station) && decide (v.frame = t.frame) && !begun s v
  let s1 := modFrame t.g.val t.station t.frame (fun x => { x with stalled := true, issued := [] }) s
  { s1 with units := s1.units.map fun (p : Nat × UnitState) => (p.1, { p.2 with
      log := p.2.log.filter fun e => !gone e.ref, replay := p.2.replay.filter fun e => !gone e.ref
      opBuf := p.2.opBuf.filter fun o => !gone o.ref, usedBuf := p.2.usedBuf.filter fun o => !gone o.ref
      skewW := p.2.skewW.filter fun k => !gone k.ref
      skewA := p.2.skewA.filter fun k => !gone k.ref }) }

/-- Withdraws a tile and replays it once from its checkpoint; a second failure of the same input, burst or row abandons it
(R230, R245, R564). -/
def replayOrAbandon (u : Nat) (t : TileRef) (cause : Ident) (s : State) : State :=
  if (s.unit u).failedOnce.contains (t, cause) then stallStation t s
  else
    let us := groupOf s u
    let s1 := restart u s
    forEach us (fun v s => s.setUnit v { s.unit v with failedOnce := (s.unit v).failedOnce ++ [(t, cause)] }) s1

/-- TILE_CHECK on the input `src` that a unit reads for a tile (R420, R564). -/
def tileCheckFault (u : Nat) (t : TileRef) (src : Ident) (s : State) : State :=
  raise Src.TILE_CHECK src (replayOrAbandon u t src (markStation t.g.val t.station t.frame Fsw.CHECK_MISMATCH s))

/-- TILE_CHECK on a transfer from memory to memory or by a verification tile: the data is not used (R420, R564). -/
def transferCheckFault (t : TileRef) (src : Ident) (s : State) : State :=
  raise Src.TILE_CHECK src (markStation t.g.val t.station t.frame Fsw.CHECK_MISMATCH s)

/-! ## Test and slice calls (R404, R411, R413) -/

/-- Whether unit `u` is one of the two units of the reference slice of pipe `q` (R411). -/
def sliceOn (q u : Nat) : Bool := decide (u = 8 * q + 7) || decide (u = 33 + 2 * q)

/-- Whether a golden slice is pending on a unit: from presentation to completion (R413). -/
def slicePending (s : State) (u : Nat) : Bool :=
  (List.range 4).any fun q => sliceOn q u && (s.pipe q).slices.any fun x => x.presented

/-- Whether a unit is called for the reference slice: the memory lane has taken the golden input. -/
def sliceUnit (s : State) (u : Nat) : Bool :=
  (List.range 4).any fun q => sliceOn q u && (s.pipe q).slices.any fun x => x.presented && x.taken

/-- Whether a region's slot is in use (R402): a slot runs, or units other than `us` have withdrawn for one. -/
def slotUsed (s : State) (us : List Nat) (r : Nat) : Bool :=
  s.ift.slots.any (fun x => x.units.any fun v => regionOf v = r) || (List.range 56).any fun v => decide (regionOf v = r) &&
    decide ((s.unit v).status = .withdrawn) && !us.contains v

/-- Whether a due unit's group may be called for its slot at all: no golden slice pending on it, its regions' slots
free (R405). -/
def iftFree (s : State) (u : Nat) : Bool :=
  let us := groupOf s u
  !us.any fun v => slicePending s v || slotUsed s us (regionOf v)

/-- Whether a due unit's group is called for its slot: the slots are begun in order of falling due (R402, R405). -/
def iftCalled (s : State) (u : Nat) : Bool :=
  s.ift.due.contains u && decide (u < 56) && iftFree s u &&
    (s.ift.due.takeWhile (· ≠ u)).all fun w => decide (56 ≤ w) || !iftFree s w ||
      !(groupOf s w).any fun x => (groupOf s u).any fun y => regionOf x = regionOf y

/-- Whether a unit's group takes no further tile (R404, R411). -/
def heldBack (s : State) (u : Nat) : Bool := (groupOf s u).any fun v => iftCalled s v || sliceUnit s v

/-- Whether every unit of a group is idle in its work: logs empty, no restart, in no slot (R404, R405). -/
def groupIdle (s : State) (us : List Nat) : Bool :=
  us.all fun v => decide ((s.unit v).log = []) && !(s.unit v).resetting && decide ((s.unit v).replay = [])
    && [Status.inService, .withdrawn, .slice].contains (s.unit v).status

/-- Puts a status on every unit of a group. -/
def setStatus (us : List Nat) (st : Status) (s : State) : State :=
  forEach us (fun v s => s.setUnit v { s.unit v with status := st }) s

/-- Withdraws a unit's group when it is idle and called for the reference slice or for its test. -/
def tryWithdraw (u : Nat) (s : State) : State :=
  let us := groupOf s u
  if s.drained ∨ !groupIdle s us then s
  else if us.any (sliceUnit s) then setStatus us .slice s
  else if us.any (iftCalled s) then setStatus us .withdrawn s
  else s

/-- Due groups that are now free to go withdraw, in order of falling due (R402, R405). -/
def retryDue (s : State) : State := forEach s.ift.due tryWithdraw s

/-- Whether a unit stands withdrawn, or held for a reference slice, in a group that is called for neither. -/
def stray (s : State) (u : Nat) : Bool :=
  (decide ((s.unit u).status = .withdrawn) && !(groupOf s u).any fun v => s.ift.due.contains v)
    || (decide ((s.unit u).status = .slice) && !(groupOf s u).any (sliceUnit s))

/-- Follows a change of the groups or the end of a slot or slice (R403 to R405, R413): a unit whose group is no longer
called returns to service, and called groups that are idle withdraw. -/
def settleUnits (s : State) : State :=
  if s.drained then s
  else
    let called := (List.range 4).flatMap fun q =>
      if (s.pipe q).slices.any fun x => x.presented && x.taken then [8 * q + 7, 33 + 2 * q] else []
    retryDue (forEach called tryWithdraw (setStatus ((List.range 56).filter (stray s)) .inService s))

end Sys2Proof.Machine
end

