-- ==== Sys2Proof/Machine/Dram.lean ====
section
/-! DEFINITION. External memory as every unit meets it: the Reed-Solomon code of a burst, channels and counters, allocated
space, the region caches with their read and write paths, and writes from outside the fabric (08 R223 to R227, R231; 09 R234 to
R249). -/

namespace Sys2Proof.Machine

open Sys2Proof

/-! ## The Reed-Solomon code of a burst (R242, R243) -/

/-- Multiplication by α in GF(2^8) with x^8 + x^4 + x^3 + x^2 + 1. -/
def gfDouble (a : Byte) : Byte := if a.getLsbD 7 then (a <<< 1) ^^^ 0x1D#8 else a <<< 1

/-- Multiplication by α^n. -/
def gfShift : Nat → Byte → Byte
  | 0, a => a
  | n + 1, a => gfShift n (gfDouble a)

/-- Syndrome `j` of an error pattern; symbol `i` is the coefficient of x^(39 - i) (notes/assumptions/13.md). -/
def syndrome (j : Nat) (e : BurstErr) : Byte :=
  e.foldl (fun (a : Byte) (p : Fin 40 × Byte) => a ^^^ gfShift (j * (39 - p.1.val)) p.2) 0#8

/-- The XOR of two error patterns, in symbol order, without zero symbols. -/
def mergeErr (a b : BurstErr) : BurstErr :=
  (List.finRange 40).filterMap fun i =>
    let v := (a ++ b).foldl (fun (x : Byte) (p : Fin 40 × Byte) => if p.1 = i then x ^^^ p.2 else x) 0#8
    if v = 0#8 then none else some (i, v)

/-- The outcome of decoding a burst. -/
inductive BurstRead where
  | clean | corrected (fix : Fin 40 × Byte) | uncorrectable
  deriving DecidableEq, Repr

/-- Decodes an error pattern (R243): a single data or check symbol is corrected. -/
def decodeBurst (e : BurstErr) : BurstRead :=
  let s0 := syndrome 0 e
  if s0 = 0#8 ∧ syndrome 1 e = 0#8 ∧ syndrome 2 e = 0#8 ∧ syndrome 3 e = 0#8 then .clean
  else
    let fits (i : Fin 40) : Bool := (List.range 4).all fun j => decide (syndrome j e = gfShift (j * (39 - i.val)) s0)
    match (List.finRange 40).find? fits with
    | some i => if s0 = 0#8 ∨ i.val < 4 then .uncorrectable else .corrected (i, s0)
    | none => .uncorrectable

/-- What remains wrong of a pattern after decoding. -/
def residual (e : BurstErr) : BurstErr :=
  match decodeBurst e with
  | .corrected f => mergeErr e [f]
  | _ => e

/-! ## Device addresses (R237, R238) -/

/-- The channel of a device address (R238). -/
def channelOf (a : Nat) : Nat :=
  [bitsOf a 12 8, bitsOf a 17 13, bitsOf a 22 18, bitsOf a 27 23, bitsOf a 32 28, bitsOf a 37 33, bitsOf a 38 38].foldl (· ^^^ ·) 0

/-- The address within the channel (R238). -/
def channelAddress (a : Nat) : Nat := a / 2 ^ 13 * 256 + a % 256

/-- Counts a burst read against its graph and class (R249); classes are numbered from 0. -/
def countRead (g : Option (Fin 64)) (cls : Nat) (s : State) : State :=
  let s1 := s.bumpBy (Reg.DRAM_CLASS cls) 32
  match g with
  | some x => s1.bumpBy (Reg.DRAM_READ x.val) 32
  | none => s1

/-- Counts a burst written. -/
def countWrite (g : Option (Fin 64)) (cls : Nat) (s : State) : State :=
  let s1 := s.bumpBy (Reg.DRAM_CLASS cls) 32
  match g with
  | some x => s1.bumpBy (Reg.DRAM_WRITE x.val) 32
  | none => s1

/-- Decodes burst `n`, found with `err` beyond its stored errors, and reports what the controller finds (R243). -/
def readBurst (n : Nat) (err : BurstErr) (s : State) : BurstRead × State :=
  let e := mergeErr (s.burstErr n) err
  let s1 := s.setBurstErr n e
  let ch := channelOf (32 * n)
  match decodeBurst e with
  | .clean => (.clean, s1)
  | .corrected f => (.corrected f, raise Src.DRAM_CORR (.channel ch) (s1.bump (Reg.DRAM_CORR ch)))
  | .uncorrectable => (.uncorrectable, raise Src.DRAM_UNCORR (.dram ch (channelAddress (32 * n))) (s1.bump (Reg.DRAM_UNCORR ch)))

/-- The data bytes of burst `n` as the controller delivers them. -/
def deliveredBytes (s : State) (n : Nat) : Bytes :=
  let r := residual (s.burstErr n)
  (s.memRead (32 * n) 32).zipIdx.map fun x =>
    r.foldl (fun (b : Byte) (p : Fin 40 × Byte) => if p.1.val = 4 + x.2 then b ^^^ p.2 else b) x.1

/-- Replaces the bytes of a burst from an offset. -/
def overlay (old : Bytes) (off : Nat) (new : Bytes) : Bytes := old.take off ++ new ++ old.drop (off + new.length)

/-- A write into one burst (R244): a whole burst clears it; less is a read-modify-write, and writes nothing when the
burst is uncorrectable. -/
def writeBurst (addr : Nat) (bytes : Bytes) (g : Option (Fin 64)) (cls : Nat) (err : BurstErr) (s : State) : State :=
  let n := addr / 32
  if bytes = [] then s
  else if addr % 32 = 0 ∧ bytes.length = 32 then
    ((countWrite g cls s).memWrite addr bytes).setBurstErr n []
  else
    match readBurst n err (countRead g cls s) with
    | (.uncorrectable, s1) => s1
    | (_, s1) => ((countWrite g cls s1).memWrite (32 * n) (overlay (deliveredBytes s1 n) (addr % 32) bytes)).setBurstErr n []

/-- Writes bytes over as many bursts as they span. -/
def writeBursts : Nat → Nat → Bytes → Nat → State → State
  | 0, _, _, _, s => s
  | n + 1, addr, b, cls, s =>
    if b = [] then s
    else
      let k := 32 - addr % 32
      writeBursts n (addr + k) (b.drop k) cls (writeBurst addr (b.take k) none cls [] s)

/-- What a read brings: its bytes, or the identity of what could not be read. -/
inductive Got where
  | data (b : Bytes)
  | lost (who : Ident)
  deriving DecidableEq, Repr

/-- Two reads one after the other. -/
def Got.append : Got → Got → Got
  | .lost w, _ => .lost w
  | .data _, .lost w => .lost w
  | .data a, .data b => .data (a ++ b)

/-- Reads `k` bursts from burst `n` on; a burst that cannot be corrected ends the read (R243, R249). -/
def readBursts (g : Option (Fin 64)) (cls : Nat) : Nat → Nat → State → Got × State
  | 0, _, s => (.data [], s)
  | k + 1, n, s =>
    match readBurst n [] (countRead g cls s) with
    | (.uncorrectable, s1) => (.lost (.dram (channelOf (32 * n)) (channelAddress (32 * n))), s1)
    | (_, s1) => let r := readBursts g cls k (n + 1) s1; (Got.append (.data (deliveredBytes s1 n)) r.1, r.2)

/-- The bursts that `n` bytes from an address touch. -/
def burstSpan (a n : Nat) : Nat := if n = 0 then 0 else (a + n - 1) / 32 + 1 - a / 32

/-- The `n` bytes from an address of a read of its bursts. -/
def Got.cut (a n : Nat) : Got → Got
  | .data b => .data (slice b (a % 32) n)
  | x => x

/-- A read of `n` bytes by a unit outside the fabric, straight from DRAM. -/
def readDram (a n : Nat) (g : Option (Fin 64)) (cls : Nat) (s : State) : Got × State :=
  let r := readBursts g cls (burstSpan a n) (a / 32) s
  (r.1.cut a n, r.2)

/-- Reads `k` bursts from burst `n` on for a unit that goes on whatever the controller finds: the bytes of a burst that it cannot
correct are free (notes/assumptions/135.md). -/
def looseBursts (cls : Nat) : Nat → Nat → State → Bytes × State
  | 0, _, s => ([], s)
  | k + 1, n, s =>
    let x := readBurst n [] (countRead none cls s)
    let b := if x.1 = .uncorrectable then (List.range 32).map fun i => Config.freeByte (s.free + i) else deliveredBytes x.2 n
    let r := looseBursts cls k (n + 1) { x.2 with free := x.2.free + 32 }
    (b ++ r.1, r.2)

/-- Such a read of `n` bytes from an address. -/
def readLoose (a n cls : Nat) (s : State) : Bytes × State :=
  let x := looseBursts cls (burstSpan a n) (a / 32) s
  (slice x.1 (a % 32) n, x.2)

/-! ## Allocated space (R237) -/

/-- Bytes in whole 256-byte granules. -/
def granules (n : Nat) : Nat := ceilDiv n 256 * 256

/-- The ring's bytes (R250). -/
def ringBytes (s : State) : Nat := s.ring.size * 2 ^ 30

/-- Whether `size` bytes from `base` are free: whole granules above the device area and below the ring. -/
def spaceFree (s : State) (size base : Nat) : Bool :=
  decide (2 ^ 28 ≤ base) && decide (base + size ≤ s.capacity - ringBytes s)
    && s.space.all fun x => decide (base + size ≤ x.base) || decide (x.base + x.size ≤ base)

/-- Where the next `size` bytes go: the first place that fits (DESIGN CHOICE, notes/assumptions/128.md). -/
def firstFit (s : State) (size : Nat) : Option Nat :=
  ((2 ^ 28 :: s.space.map fun x => x.base + x.size).filter (spaceFree s size)).min?

/-- The space of an owner. -/
def State.spaceOf (s : State) (o : SpaceOwner) : Option Space := s.space.find? fun x => x.owner = o

/-- The first address of an owner's space. -/
def State.baseOf (s : State) (o : SpaceOwner) : Nat := ((s.spaceOf o).map fun x => x.base).getD 0

/-- Gives an owner space; none when it does not fit. -/
def allocate? (o : SpaceOwner) (size : Nat) (s : State) : Option State :=
  (firstFit s (granules size)).map fun b => { s with space := s.space ++ [⟨o, b, granules size⟩] }

/-- Gives an owner space where it fits. -/
def allocate (o : SpaceOwner) (size : Nat) (s : State) : State := (allocate? o size s).getD s

/-- Gives an owner at least `size` bytes: its space stays where it is large enough. -/
def ensureSpace (o : SpaceOwner) (size : Nat) (s : State) : Option State :=
  if ((s.spaceOf o).map fun x => decide (granules size ≤ x.size)) = some true then some s
  else allocate? o size { s with space := s.space.filter fun x => decide (x.owner ≠ o) }

/-- Gives several owners space, or none at all. -/
def allocateAll : List (SpaceOwner × Nat) → State → Option State
  | [], s => some s
  | x :: t, s => (allocate? x.1 x.2 s).bind (allocateAll t)

/-- Whether space is an open transfer's. -/
def SpaceOwner.isTransfer : SpaceOwner → Bool
  | .transfer _ _ => true
  | _ => false

/-- Frees the space of the owners that `f` picks. -/
def freeSpace (f : SpaceOwner → Bool) (s : State) : State := { s with space := s.space.filter fun x => !f x.owner }

/-! ## Region caches (R223 to R227, R231) -/

/-- The set of a device address (R223). -/
def cacheSet (a : Nat) : Nat := bitsOf a 18 7 ^^^ bitsOf a 30 19

/-- The key of a set of a region cache. -/
def setKey (r a : Nat) : Nat := 4096 * r + cacheSet a

/-- An empty line. -/
def emptyLine : CacheLine := ⟨0, 0, List.replicate 4 false, List.replicate 4 false, List.replicate 4 false, List.replicate 4 []⟩

/-- Whether a line holds an address. -/
def CacheLine.has (l : CacheLine) (a : Nat) : Bool := decide (l.tag = a / 128) && l.valid.any id

/-- Marks a way as the most recently used in the tree of 15 bits (R223). -/
def plruTouch (bits way : Nat) : Nat :=
  ([(0, 3), (1, 2), (2, 1), (3, 0)].foldl (fun (x : Nat × Nat) (l : Nat × Nat) =>
    let d := way / 2 ^ l.2 % 2
    ((if d = 0 then setBit x.1 x.2 else clearBit x.1 x.2), 2 * x.2 + 1 + d)) (bits, 0)).1

/-- The way the tree points at. -/
def plruVictim (bits : Nat) : Nat :=
  ([3, 2, 1, 0].foldl (fun (x : Nat × Nat) (_ : Nat) =>
    let d := if bit bits x.2 then 1 else 0
    (2 * x.1 + d, 2 * x.2 + 1 + d)) (0, 0)).1

/-- Writes the dirty sectors of a line back to DRAM, those in `skip` excepted (R224, R226). -/
def writeBack (r : Nat) (l : CacheLine) (skip : List Nat) (s : State) : State :=
  forEach (List.range 4) (fun i s =>
    if nth false l.dirty i && nth false l.valid i && !skip.contains i then
      (writeBurst (128 * l.tag + 32 * i) (nth [] l.data i) (if l.slot = 0 then none else some (Fin.ofNat 64 (l.slot - 1))) 3 [] s).bump (Reg.RC_WRITEBACKS r)
    else s) s

/-- Finds or allocates the way of an address, writing a victim back. -/
def allocWay (r g a : Nat) (s : State) : Nat × State :=
  let k := setKey r a
  let ls := s.set k
  match ls.findIdx? fun l => l.has a with
  | some w => (w, s)
  | none =>
    let free := ls.findIdx? fun l => !(l.valid.any id)
    let w := match free with
      | some w => w
      | none => if ls.length < 16 then ls.length else plruVictim (s.plruOf k)
    let s1 := writeBack r (nth emptyLine ls w) [] s
    (w, s1.setSet k (setAt emptyLine w { emptyLine with tag := a / 128, slot := g + 1 } (s1.set k)))

/-- Changes one line. -/
def modLine (k w : Nat) (f : CacheLine → CacheLine) (s : State) : State :=
  s.setSet k (setAt emptyLine w (f (nth emptyLine (s.set k) w)) (s.set k))

/-- Fetches one sector from DRAM; an uncorrectable burst leaves it invalid. -/
def fetchSector (r k w a i : Nat) (g : Fin 64) (s : State) : State :=
  let n := (128 * (a / 128) + 32 * i) / 32
  let (o, s1) := readBurst n [] (countRead (some g) 3 (s.bump (Reg.RC_MISSES r)))
  let ok := o ≠ .uncorrectable
  modLine k w (fun l => { l with
    valid := setAt false i (decide ok) l.valid, dirty := setAt false i false l.dirty, poison := setAt false i false l.poison
    data := setAt [] i (if ok then deliveredBytes s1 n else []) l.data }) s1

/-- Whether an error of a SEC-DED word is corrected, uncorrectable or passes; beyond two bits the verdict is a free
value (R204, R228). -/
def secDed (s : State) : ReadErr → Nat
  | .none => 0
  | .single => 1
  | .double => 2
  | .more _ => min 2 (Config.secDedBeyondTwo s.free)

/-- One sector of a cached read (R231). -/
def readSector (r k w a i : Nat) (g : Fin 64) (err : ReadErr) (s : State) : State :=
  let l := nth emptyLine (s.set k) w
  let verdict := secDed s err
  if !(nth false l.valid i) then fetchSector r k w a i g s
  else if nth false l.poison i then raise Src.RC_UNCORR (.cache r) s
  else if verdict = 2 then
    if nth false l.dirty i then
      raise Src.RC_UNCORR (.cache r) (modLine k w (fun l => { l with poison := setAt false i true l.poison }) s)
    else raise Src.RC_CORR (.cache r) (fetchSector r k w a i g s)
  else
    let s1 := s.bump (Reg.RC_HITS r)
    if verdict = 1 then raise Src.RC_CORR (.cache r) s1 else s1

/-- The bytes of a sector as the cache delivers them; none of an invalid or poisoned one. -/
def sectorBytes (s : State) (k w i : Nat) : Option Bytes :=
  let l := nth emptyLine (s.set k) w
  if nth false l.valid i && !nth false l.poison i then some (nth [] l.data i) else none

/-- The way whose tag entry an access meets: the line's own, else that of the way it would take. -/
def tagWay (s : State) (r a : Nat) : Nat :=
  let ls := s.set (setKey r a)
  match ls.findIdx? fun l => l.has a with
  | some w => w
  | none => plruVictim (s.plruOf (setKey r a))

/-- A tag entry found in error (R229, R231): corrected, or its line is invalid and its sectors are lost. -/
def readTag (r a : Nat) (tag : ReadErr) (s : State) : State :=
  let k := setKey r a
  let v := secDed s tag
  if v = 1 then raise Src.RC_CORR (.cache r) s
  else if v = 2 then
    raise Src.RC_UNCORR (.cache r) (if tagWay s r a < (s.set k).length then modLine k (tagWay s r a) (fun _ => emptyLine) s else s)
  else s

/-- A cached read of some sectors of one line. -/
def cachedRead (r : Nat) (g : Fin 64) (a : Nat) (sectors : List (Fin 4)) (err : List (Fin 4 × ReadErr)) (tag : ReadErr) (s : State) : State :=
  let k := setKey r a
  let (w, s1) := allocWay r g.val a (readTag r a tag s)
  let s2 := forEach sectors (fun i s =>
    readSector r k w a i.val g (((err.find? fun p => p.1 = i).map fun p => p.2).getD .none) s) s1
  (s2.setPlruOf k (plruTouch (s2.plruOf k) w)).nextFree

/-- An uncached read of some sectors of one line (R225). -/
def uncachedRead (r : Nat) (g : Fin 64) (a : Nat) (sectors : List (Fin 4)) (s : State) : State :=
  forEach sectors (fun i s =>
    (readBurst ((128 * (a / 128) + 32 * i.val) / 32) [] (countRead (some g) 3 (s.bump (Reg.RC_UNCACHED r)))).2) s

/-! ## Reads and writes of a Mule (R224, R225) -/

/-- One sector read by a Mule of region `r` for graph slot `g`. -/
def muleSector (r : Nat) (g : Fin 64) (cached : Bool) (n : Nat) (s : State) : Got × State :=
  let lost : Got := .lost (.dram (channelOf (32 * n)) (channelAddress (32 * n)))
  if cached then
    let s1 := cachedRead r g (32 * n) [Fin.ofNat 4 (n % 4)] [] .none s
    let k := setKey r (32 * n)
    match (s1.set k).findIdx? fun l => decide (l.tag = n / 4) && nth false l.valid (n % 4) with
    | some w => match sectorBytes s1 k w (n % 4) with
      | some b => (.data b, s1)
      | none => (lost, s1)
    | none => (lost, s1)
  else
    match readBurst n [] (countRead (some g) 3 (s.bump (Reg.RC_UNCACHED r))) with
    | (.uncorrectable, s1) => (lost, s1)
    | (_, s1) => (.data (deliveredBytes s1 n), s1)

/-- Some sectors read by a Mule, one after another, as far as they can be read. -/
def muleSectors (r : Nat) (g : Fin 64) (cached : Bool) : Nat → Nat → State → Got × State
  | 0, _, s => (.data [], s)
  | k + 1, n, s =>
    match muleSector r g cached n s with
    | (.lost w, s1) => (.lost w, s1)
    | (.data b, s1) => let x := muleSectors r g cached k (n + 1) s1; (Got.append (.data b) x.1, x.2)

/-- `n` bytes from an address read by a Mule. -/
def muleRead (r : Nat) (g : Fin 64) (cached : Bool) (a n : Nat) (s : State) : Got × State :=
  let x := muleSectors r g cached (burstSpan a n) (a / 32) s
  (x.1.cut a n, x.2)

/-- How a Mule writes a station's output (R225). -/
inductive WriteMode where
  | back | through | uncached
  deriving DecidableEq, Repr

/-- A write into one sector of a region cache: a whole sector is allocated without a fetch and clears its poison, part of one
is fetched first (R224, R231). Whether it was written, and the way. -/
def cacheWrite (r : Nat) (g : Fin 64) (a : Nat) (b : Bytes) (s : State) : Bool × Nat × State :=
  let k := setKey r a
  let i := a / 32 % 4
  let (w, s1) := allocWay r g.val a s
  let whole := a % 32 = 0 ∧ b.length = 32
  let s2 := if whole ∨ nth false (nth emptyLine (s1.set k) w).valid i then s1 else fetchSector r k w a i g s1
  let old := sectorBytes s2 k w i
  if whole ∨ old.isSome then
    let s3 := modLine k w (fun l => { l with
      valid := setAt false i true l.valid, dirty := setAt false i true l.dirty, poison := setAt false i false l.poison
      data := setAt [] i (overlay (old.getD []) (a % 32) b) l.data }) s2
    (true, w, s3.setPlruOf k (plruTouch (s3.plruOf k) w))
  else (false, w, if nth false (nth emptyLine (s2.set k) w).valid i then raise Src.RC_UNCORR (.cache r) s2 else s2)

/-- A Mule's write into one sector. -/
def muleWriteSector (r : Nat) (g : Fin 64) (m : WriteMode) (a : Nat) (b : Bytes) (s : State) : State :=
  match m with
  | .uncached => writeBurst a b (some g) 3 [] s
  | .back => (cacheWrite r g a b s).2.2
  | .through =>
    let x := cacheWrite r g a b s
    let k := setKey r a
    let i := a / 32 % 4
    if x.1 then
      modLine k x.2.1 (fun l => { l with dirty := setAt false i false l.dirty })
        (writeBurst (a / 32 * 32) ((sectorBytes x.2.2 k x.2.1 i).getD []) (some g) 3 [] x.2.2)
    else x.2.2

/-- A Mule's write of bytes from an address, over at most `n` sectors. -/
def muleWrite (r : Nat) (g : Fin 64) (m : WriteMode) : Nat → Nat → Bytes → State → State
  | 0, _, _, s => s
  | n + 1, a, b, s =>
    if b = [] then s
    else
      let k := 32 - a % 32
      muleWrite r g m n (a + k) (b.drop k) (muleWriteSector r g m a (b.take k) s)

/-! ## Writes from outside the fabric (R226) -/

/-- Invalidates the line of an address in one cache; a dirty sector that the write covers whole is discarded, any other
is written back first (R224, R226). -/
def invalidateLine (r a : Nat) (covered : List Nat) (s : State) : State :=
  let k := setKey r a
  match (s.set k).findIdx? fun l => l.has a with
  | some w =>
    let s1 := writeBack r (nth emptyLine (s.set k) w) covered s
    modLine k w (fun _ => emptyLine) s1
  | none => s

/-- The sectors of the line of `a` that bytes `lo` to `hi` - 1 cover whole. -/
def coveredSectors (a lo hi : Nat) : List Nat :=
  (List.range 4).filter fun i => decide (lo ≤ 128 * (a / 128) + 32 * i) && decide (128 * (a / 128) + 32 * i + 32 ≤ hi)

/-- A write from outside the fabric: every region cache invalidates the lines first (R226). -/
def outsideWrite (addr : Nat) (bytes : Bytes) (cls : Nat) (s : State) : State :=
  if bytes = [] then s
  else
    let first := addr / 128
    let last := (addr + bytes.length - 1) / 128
    let s1 := forEach (List.range (last + 1 - first)) (fun n s =>
      forEach (List.range 4) (fun r s =>
        invalidateLine r (128 * (first + n)) (coveredSectors (128 * (first + n)) addr (addr + bytes.length)) s) s) s
    writeBursts (bytes.length / 32 + 2) addr bytes cls s1

end Sys2Proof.Machine
end

