-- ==== Sys2Proof/Machine/Pads.lean ====
section
/-! DEFINITION. The scratchpads of the Ox blocks: power of their banks, words and their errors, reads and writes (08 R202 to
R217, R228 to R230). -/

namespace Sys2Proof.Machine

open Sys2Proof

/-- The power state of a bank of a block (R214): 0 off, 1 on, 2 retention. -/
def bankPower (s : State) (b k : Nat) : Nat :=
  let segs := (List.range 4).filterMap fun i => sfind (64 * b + 4 * k + i) s.segs
  if k = 15 ∨ segs.any (fun o => !o.retained) then 1 else if segs ≠ [] then 2 else 0

/-- The key of a scratchpad word in the record of wrong words. -/
def wordKey (b row word : Nat) : Nat := (8192 * b + row) * 64 + word

/-- The key of a scratchpad byte. -/
def padKey (b row i : Nat) : Nat := (8192 * b + row) * 512 + i

/-- Forgets the recorded errors of `n` words from a word on: they are written with valid check bits. -/
def cleanWords (k n : Nat) (s : State) : State :=
  { s with sram := s.sram.filter fun (p : Nat × Nat) => decide (p.1 < k) || decide (k + n ≤ p.1) }

/-- Clears the recorded errors of a row that is rewritten whole. -/
def rewriteRow (b row : Nat) (s : State) : State := cleanWords (wordKey b row 0) 64 s

/-- Empties a bank of a block: it goes off, or is written with zero data and valid check bits (R213, R214). -/
def clearBank (b k : Nat) (s : State) : State :=
  cleanWords (wordKey b (512 * k) 0) 32768
    { s with pad := s.pad.filter fun (p : Nat × Byte) => decide (p.1 / 262144 ≠ 16 * b + k) }

/-- Empties one segment (64 times block plus segment). -/
def clearSegment (n : Nat) (s : State) : State :=
  cleanWords (n * 8192) 8192 { s with pad := s.pad.filter fun (p : Nat × Byte) => decide (p.1 / 65536 ≠ n) }

/-- Banks that go off lose their contents (R214). -/
def powerDown (s : State) : State :=
  forEach (List.range 512) (fun n s => if bankPower s (n / 16) (n % 16) = 0 then clearBank (n / 16) (n % 16) s else s) s

/-- A write of part of one word, a read-modify-write (R204); the read of an uncorrectable word writes nothing. -/
def writePart (b a : Nat) (data : Bytes) (s : State) : State :=
  let k := (8192 * b * 512 + a) / 8
  let who : Ident := .word b (a / 512) (a / 8 % 64)
  let store (s : State) : State := cleanWords k 1 { s with pad := memStore s.pad (8192 * b * 512 + a) data }
  match min 2 (s.sramErr k) with
  | 0 => store s
  | 1 => raise Src.SCRATCH_CORR who (store s)
  | _ => raise Src.SCRATCH_UNCORR who s

/-- Writes bytes into a block's scratchpad from byte `a` of it on: whole words, and at the ends parts of words. -/
def writePad (b a : Nat) (data : Bytes) (s : State) : State :=
  if data = [] ∨ !((List.range ((a + data.length - 1) / 262144 + 1 - a / 262144)).all fun i => decide (bankPower s b (a / 262144 + i) = 1)) then s
  else
    let lead := if a % 8 = 0 then 0 else 8 - a % 8
    let d0 := data.take lead
    let mid := (data.drop lead).take ((data.length - lead) / 8 * 8)
    let d1 := data.drop (lead + mid.length)
    let s1 := if d0 = [] then s else writePart b a d0 s
    let s2 := if mid = [] then s1 else cleanWords ((8192 * b * 512 + a + lead) / 8) (mid.length / 8)
      { s1 with pad := memStore s1.pad (8192 * b * 512 + a + lead) mid }
    if d1 = [] then s2 else writePart b (a + lead + mid.length) d1 s2

/-- One byte of a block's scratchpad. -/
def State.padByte (s : State) (k : Nat) : Byte := sget (fun _ => 0#8) s.pad k

/-- `n` bytes of a block's scratchpad from byte `a` of it on. -/
def readPad (s : State) (b a n : Nat) : Bytes := (List.range n).map fun i => s.padByte (8192 * b * 512 + a + i)

/-- The bytes of a copy laid over a list of rows, each a block and a row. -/
def readRows (s : State) (rows : List (Nat × Nat)) (off n : Nat) : Bytes :=
  (List.range n).map fun i =>
    let r := nth (0, 0) rows ((off + i) / 512)
    s.padByte (padKey r.1 r.2 ((off + i) % 512))

/-- Writes a copy over a list of rows. -/
def writeRowsOf : List (Nat × Nat) → Bytes → State → State
  | [], _, s => s
  | r :: t, b, s => if b = [] then s else writeRowsOf t (b.drop 512) (writePad r.1 (512 * r.2) (b.take 512) s)

end Sys2Proof.Machine
end

