-- ==== Sys2Proof/Machine/Tiles.lean ====
section
/-! DEFINITION. Tiles and tensors: where a tile lies and what it reads, actual lengths and readiness (05 R130 to R135, 06 R150
to R169, 07 R171 to R178), headers and planes in memory (05 R114 to R121), zero compression (07 R197 to R201), and the reads
and writes of tiles (08 R219, R225). -/

namespace Sys2Proof.Machine

open Sys2Proof

/-! ## Places and reads of tiles -/

/-- Origin and configured extents of a tile of any station; a verification tile has its source tile's (R560). -/
def boxOf (p : Package) (st : Station) (i : Nat) : (Nat × Nat × Nat) × (Nat × Nat × Nat) :=
  match st.params with
  | .expand r => match (p.verTiles st r)[i]?, p.producer? st 0 with
    | some v, some q => p.tileBox p.depth q v.2
    | _, _ => ((0, 0, 0), (0, 0, 0))
  | _ => p.tileBox p.depth st i

/-- The stripe of a tile (R162); a verification tile carries its consumer stripe (R177). -/
def stripeOf (p : Package) (st : Station) (i : Nat) : Nat :=
  match st.params with
  | .expand r => ((p.verTiles st r)[i]?.map fun v => v.1).getD 0
  | _ => (boxOf p st i).1.2.2 / max 1 (ceilDiv (p.out st).dim2 st.tiling.stripes)

/-- Source indices of a resampled index along an axis: the first and the last one read (R193 to R195). -/
def resampleRange (mode f o i a : Nat) (k : Nat) : Nat × Nat :=
  match mode with
  | 0 => let x := min ((2 * k + 1) * i / (2 * max 1 o)) (a - 1); (x, x)
  | 1 => let n := (2 * k + 1) * i
    let x := if n < o then 0 else min ((n - o) / (2 * max 1 o)) (a - 1)
    (x, min (x + 1) (a - 1))
  | _ => (k * f, min (k * f + f) a - 1)

/-- The source rows or columns that a run of windows reads, padding excluded (R163); with edge replication the edge that
padding taps read instead (R173). None when it reads none. -/
def windowRange (replicate : Bool) (lo n sz pad d k len : Nat) : Option (Nat × Nat) :=
  match rowsRead lo (lo + n - 1) sz d k pad len with
  | some x => some x
  | none => if replicate ∧ len ≠ 0 then (if lo * sz < pad then some (0, 0) else some (len - 1, len - 1)) else none

/-- What tile `i` of a station reads of input `n`: (first, last) along axes 1 and 2 of the producer's tensor; of an expand
producer, of its source. -/
def readRange (p : Package) (st : Station) (n i : Nat) : Option ((Nat × Nat) × (Nat × Nat)) :=
  match p.producer? st n with
  | none => none
  | some q =>
    let (o, e) := boxOf p st i
    match q.params, st.params with
    | _, .publish _ => some ((0, 2 ^ 32), (0, 2 ^ 32))
    | .expand r, _ =>
      let src := p.input q
      match windowRange r.replicate o.2.1 e.2.1 r.sw r.pl r.dw r.kw src.dim1,
          windowRange r.replicate o.2.2 e.2.2 r.sh r.pt r.dh r.kh src.dim2 with
      | some x, some y => some (x, y)
      | _, _ => none
    | _, .resample r =>
      let src := p.out q
      let t := p.out st
      let c (k : Nat) := resampleRange r.mode r.fx t.dim1 src.dim1 src.dim1 k
      let y (k : Nat) := resampleRange r.mode r.fy t.dim2 src.dim2 src.dim2 k
      some (((c o.2.1).1, (c (o.2.1 + e.2.1 - 1)).2), ((y o.2.2).1, (y (o.2.2 + e.2.2 - 1)).2))
    | _, _ => some ((o.2.1, o.2.1 + e.2.1 - 1), (o.2.2, o.2.2 + e.2.2 - 1))

/-- Whether a vector station combines partial tiles (R560). -/
def combines (p : Package) (st : Station) : Bool :=
  decide (st.kind = 6) && decide (((st.inQ.head?.bind p.q?).map fun e => e.isPartial) = some true)

/-- The reduction elements that tile `i` of a matmul station covers: from, to (R152). -/
def shareOf (st : Station) (k i : Nat) : Nat × Nat :=
  let n := st.partLen k
  let j := i % max 1 st.split
  (min k (j * n), min k ((j + 1) * n))

/-- What tile `i` of a station reads of input `n` along axis 0 of an unexpanded producer: from, to. -/
def readChannels (p : Package) (st : Station) (i : Nat) : Nat × Nat :=
  match st.params with
  | .matmul r => shareOf st r.k i
  | .vector _ => let (o, e) := boxOf p st i; (o.1, o.1 + e.1)
  | _ => (0, 2 ^ 32)

/-- Whether tile `i` of a station reads the tile that descriptor index `j` of the producer of input `n` announces. An expand
station's descriptors are those of its verification tiles, which a consumer reads in its own stripe (R177, R178). -/
def readsTile (p : Package) (st : Station) (n i j : Nat) : Bool :=
  match p.producer? st n with
  | none => false
  | some q =>
    let (o, e) := boxOf p q j
    let meets := match readRange p st n i with
      | some (x, y) => decide (o.2.1 ≤ x.2 ∧ x.1 < o.2.1 + e.2.1) && decide (o.2.2 ≤ y.2 ∧ y.1 < o.2.2 + e.2.2)
      | none => false
    match st.params with
    | .expand r => decide (((p.verTiles st r)[i]?.map fun v => v.2) = some j)
    | _ =>
      if combines p st ∧ n = 0 then decide (j / max 1 q.split = i)
      else if q.kind = 2 then meets && (decide (q.tiling.stripes ≤ 1) || decide (stripeOf p q j = stripeOf p st i))
      else
        let c := readChannels p st i
        meets && decide (o.1 < c.2 ∧ c.1 < o.1 + e.1)

/-! ## Actual lengths (R132, R171, R172, R176, R184, R196) -/

/-- The actual lengths of a producer's frame. -/
def actOf (s : State) (g st f : Nat) : Nat × Nat × Nat :=
  match stFrame? s g st f with
  | some x => (x.act0, x.act1, x.act2)
  | none => (0, 0, 0)

/-- The actual output lengths of a station that follow from the headers of its inputs. -/
def finalLens (s : State) (g : Nat) (p : Package) (st : Station) (f : Nat) : Nat × Nat × Nat :=
  let t := p.out st
  match p.producer? st 0 with
  | none => actOf s g st.number f
  | some q =>
    let a := actOf s g q.number f
    match st.params with
    | .expand r => (t.dim0, outLen a.2.1 r.pl r.pw r.dw r.kw r.sw, outLen a.2.2 r.pt r.pb r.dh r.kh r.sh)
    | .matmul _ => (t.dim0, min t.dim1 a.2.1, min t.dim2 a.2.2)
    | .pool _ =>
      let src := match p.producer? q 0 with
        | some z => actOf s g z.number f
        | none => a
      (min t.dim0 src.1, min t.dim1 a.2.1, min t.dim2 a.2.2)
    | .resample r =>
      let i := p.out q
      if r.mode = 2 then (min t.dim0 a.1, ceilDiv a.2.1 (max 1 r.fx), ceilDiv a.2.2 (max 1 r.fy))
      else (min t.dim0 a.1, a.2.1 * t.dim1 / max 1 i.dim1, a.2.2 * t.dim2 / max 1 i.dim2)
    | _ => (min t.dim0 a.1, min t.dim1 a.2.1, min t.dim2 a.2.2)

/-- Whether every header from which a station's actual lengths are computed has ACT_FINAL. -/
def inputsFinal (s : State) (g : Nat) (p : Package) (st : Station) (f : Nat) : Bool :=
  match p.producer? st 0 with
  | none => false
  | some q => match stFrame? s g q.number f with
    | some x => x.final
    | none => false

/-- Whether a tile lies wholly beyond the actual lengths of what its place refers to (R132, R178). -/
def whollyBeyond (s : State) (g : Nat) (p : Package) (st : Station) (f i : Nat) : Bool :=
  let lens := match st.params, p.producer? st 0 with
    | .expand _, some q => actOf s g q.number f
    | _, _ => finalLens s g p st f
  let o := (boxOf p st i).1
  match st.params with
  | .publish _ => false
  | _ => decide (lens.1 ≤ o.1) || decide (lens.2.1 ≤ o.2.1) || decide (lens.2.2 ≤ o.2.2)

/-! ## Readiness (R131, R164, R167 to R169) -/

/-- Whether a producer's stripe is complete for a frame (R167). A tile counts as done only when its writes have been made, so
a stripe written through to DRAM is complete there too (R168, R225). -/
def stripeDone (p : Package) (q : Station) (x : StFrame) (k : Nat) : Bool :=
  (List.range x.limit).all fun j => stripeOf p q j ≠ k || x.done.contains j

/-- Whether input `n` lets tile `i` of a station run. -/
def inputReady (s : State) (g : Nat) (p : Package) (st : Station) (f i n : Nat) : Bool :=
  match p.producer? st n with
  | none => true
  | some q => match stFrame? s g q.number f with
    | none => false
    | some x =>
      if 1 < st.tiling.stripes ∧ q.tiling.stripes = st.tiling.stripes then
        let k := stripeOf p st i
        stripeDone p q x k && (decide (k = 0) || stripeDone p q x (k - 1)) && stripeDone p q x (k + 1)
      else x.lastSent

/-- Whether a tile's inputs have arrived. -/
def tileReady (s : State) (g : Nat) (p : Package) (st : Station) (f i : Nat) : Bool :=
  (List.range 4).all fun n => inputReady s g p st f i n

/-- Extents of a tile cut to the actual lengths when these are known (R135). -/
def validExtents (s : State) (g : Nat) (p : Package) (st : Station) (f i : Nat) : Nat × Nat × Nat :=
  let (o, e) := boxOf p st i
  let lens := match st.params, p.producer? st 0 with
    | .expand _, some q => actOf s g q.number f
    | _, _ => if inputsFinal s g p st f then finalLens s g p st f else ((p.out st).dim0, (p.out st).dim1, (p.out st).dim2)
  (min e.1 (lens.1 - o.1), min e.2.1 (lens.2.1 - o.2.1), min e.2.2 (lens.2.2 - o.2.2))

/-! ## Check words and packing (R80, R81, R84, R85, R119, R120) -/

/-- Bytes of elements for the check word (R120). -/
def checkBytes (f : Fmt) (codes scales : List Nat) : Bytes :=
  codes.flatMap (leBytes (max 1 (f.width / 8))) ++ (if f.scaled then scales.flatMap (leBytes 1) else [])

/-- Codes packed one after another from the lowest bit up, the last byte filled with zeros (R81, R85). -/
def packCodes (w : Nat) (l : List Nat) : Bytes := leBytes (ceilDiv (w * l.length) 8) (l.foldr (fun c a => c + 2 ^ w * a) 0)

/-- `n` codes unpacked. -/
def unpackCodes (w n : Nat) (b : Bytes) : List Nat := let v := leVal b; (List.range n).map fun i => v / 2 ^ (w * i) % 2 ^ w

/-- `n` codes cut or filled with zero codes. -/
def padCodes (n : Nat) (l : List Nat) : List Nat := l.take n ++ List.replicate (n - l.length) 0

/-! ## Zero compression (R197 to R201) -/

/-- One compressed group of at most 64 elements: the mask and the nonzero elements (R198). -/
def compressGroup (w : Nat) (l : List Nat) : Bytes :=
  let m := (l.zipIdx.foldl (fun (m : Nat) x => if x.1 = 0 then m else m + 2 ^ x.2) 0)
  leBytes 8 m ++ (l.filter (· ≠ 0)).flatMap (leBytes w)

/-- Places the stored elements of a group by its mask. -/
def placeMasked : List Bool → List Nat → List Nat
  | [], _ => []
  | false :: t, v => 0 :: placeMasked t v
  | true :: t, [] => 0 :: placeMasked t []
  | true :: t, x :: v => x :: placeMasked t v

/-- Decompresses a group of `n` valid elements; none when the mask is illegal (R199). -/
def decompressGroup (w n : Nat) (b : Bytes) : Option (List Nat) :=
  let m := field b 0 8
  if 2 ^ n ≤ m ∨ b.length < 8 + w * popCount m 64 then none
  else some (placeMasked ((List.range n).map (bit m)) ((List.range (popCount m n)).map fun i => field b (8 + w * i) w))

/-! ## Tensors in memory (R114 to R117, R219) -/

/-- The bytes of a tensor header before its planes (DESIGN CHOICE, notes/assumptions/125.md). -/
def headerRoom : Nat := 256

/-- The window into which a station writes its output, if any: block, first row, rows of one half (R219). -/
def windowOf (p : Package) (st : Nat) : Option (Nat × Nat × Nat) :=
  p.claims.findSome? fun c => match c with
    | .window _ b _ base limit w0 w1 => if w0 = st ∨ w1 = st then some (b, base, (limit - base) / 2) else none
    | _ => none

/-- The station that owns the window a station writes. -/
def windowOwner (p : Package) (st : Nat) : Option Nat :=
  p.claims.findSome? fun c => match c with
    | .window o _ _ _ _ w0 w1 => if w0 = st ∨ w1 = st then some o else none
    | _ => none

/-- The number of that window in its block. -/
def windowNo (p : Package) (st : Nat) : Nat :=
  (p.claims.findSome? fun c => match c with
    | .window _ _ w _ _ w0 w1 => if w0 = st ∨ w1 = st then some w else none
    | _ => none).getD 0

/-- Whether a station's output planes lie in DRAM: an expand station stores none, a window's writer stores into the window. -/
def planesInDram (p : Package) (st : Station) : Bool := within st.kind 3 6 && (windowOf p st.number).isNone

/-- The bytes of one of the two output buffers of a station: header, element plane, scale plane (R170). -/
def tensorHalf (p : Package) (st : Station) : Nat :=
  headerRoom + if planesInDram p st then granules (p.elemPlane st) + granules (p.scalePlane st) else 0

/-- The DRAM space a package's tensors take while it is active (R237). -/
def tensorSpaces (g : Nat) (p : Package) : List (SpaceOwner × Nat) :=
  (p.stations.filter fun st => within st.kind 2 6).map fun st => (.tensor g st.number, 2 * granules (tensorHalf p st))

/-- The header address of a station's frame: the two buffers take turns. -/
def headerBase (s : State) (g : Nat) (p : Package) (st : Station) (f : Nat) : Nat :=
  s.baseOf (.tensor g st.number) + f % 2 * granules (tensorHalf p st)

/-- The 128 bytes of a tensor header (R114), HDR_CHECK computed (R557). -/
def headerOf (g producer : Nat) (x : StFrame) (elemBase scaleBase : Nat) : Bytes :=
  let t := x.tensor
  let b := leBytes 2 1 ++ leBytes 1 t.format ++ leBytes 1 ((if t.zc then 1 else 0) + (if x.final then 2 else 0))
    ++ leBytes 4 t.dim0 ++ leBytes 4 t.dim1 ++ leBytes 4 t.dim2 ++ leBytes 4 x.act0 ++ leBytes 4 x.act1 ++ leBytes 4 x.act2
    ++ leBytes 4 t.stride1 ++ leBytes 4 t.stride2 ++ leBytes 4 0 ++ leBytes 8 elemBase ++ leBytes 8 scaleBase
    ++ leBytes 4 x.word.toNat ++ leBytes 4 x.frame ++ leBytes 8 x.timestamp ++ leBytes 1 g ++ leBytes 1 0 ++ leBytes 2 producer
  b ++ leBytes 4 (crc32c b) ++ List.replicate 48 0#8

/-- The ELEM_BASE and SCALE_BASE of a station's frame: 0 when the planes are not in DRAM (R176, R219). -/
def planeBases (p : Package) (st : Station) (base : Nat) : Nat × Nat :=
  if planesInDram p st then
    (base + headerRoom, if (fmtOr st.fmtOut).scaled ∧ !st.partial? then base + headerRoom + granules (p.elemPlane st) else 0)
  else (0, 0)

/-- A station writes the header of its frame (R115). -/
def writeHeader (g : Nat) (p : Package) (st : Station) (f : Nat) (s : State) : State :=
  match stFrame? s g st.number f with
  | some x =>
    let b := planeBases p st x.base
    muleWrite 0 (Fin.ofNat 64 g) .uncached 6 x.base (headerOf (g + 1) st.number x b.1 b.2) s
  | none => s

/-- A reader finds a header good: HDR_CHECK right and no actual length above its configured one (R117). -/
def headerGood (b : Bytes) : Bool :=
  decide (crc32c (b.take 0x4C) = field b 0x4C 4) && decide (field b 0x10 4 ≤ field b 4 4)
    && decide (field b 0x14 4 ≤ field b 8 4) && decide (field b 0x18 4 ≤ field b 12 4)

/-- A read of the header of a producer's frame, once it has one: what is wrong with it, if anything. -/
def readHeader (g : Fin 64) (st : Nat) (f : Nat) (cls : Nat) (s : State) : Option Ident × State :=
  match stFrame? s g.val st f with
  | none => (none, s)
  | some x => if x.base = 0 then (none, s) else match readDram x.base 128 (some g) cls s with
    | (.lost w, s1) => (some w, s1)
    | (.data b, s1) => (if headerGood b then none else some (.tensor g.val st f), s1)

/-- Where a tensor's elements lie: element and scale plane, strides, configured lengths 0 and 1, format, compression. -/
structure Plane where
  elem : Nat
  scale : Nat
  stride1 : Nat
  stride2 : Nat
  dim0 : Nat
  dim1 : Nat
  fmt : Fmt
  zc : Bool
  deriving DecidableEq, Repr

/-- The plane that holds tile `i` of a station's frame, from the first byte of its planes on; each partial of a split
reduction has a plane of its own. -/
def planeOf (p : Package) (st : Station) (x : StFrame) (first i : Nat) : Plane :=
  let t := x.tensor
  let f := tileFmt st
  if st.partial? then
    let s1 := partStride t
    { elem := first + i % st.split * (t.dim2 * t.dim1 * s1), scale := 0, stride1 := s1, stride2 := t.dim1 * s1, dim0 := t.dim0
      dim1 := t.dim1, fmt := f, zc := false }
  else
    { elem := first, scale := first + (if st.kind = 1 then tensorBytes t else granules (p.elemPlane st)), stride1 := t.stride1
      stride2 := t.stride2, dim0 := t.dim0, dim1 := t.dim1, fmt := fmtOr t.format, zc := t.zc }

/-- The address of row (x1, x2) (R116). -/
def Plane.rowAt (q : Plane) (x1 x2 : Nat) : Nat := q.elem + x2 * q.stride2 + x1 * q.stride1

/-- The address of the scale of block `k` of row (x1, x2) (R85). -/
def Plane.scaleAt (q : Plane) (x1 x2 k : Nat) : Nat := q.scale + (x2 * q.dim1 + x1) * ceilDiv q.dim0 32 + k

/-- The address of compression group `k` of row (x1, x2) (R198). -/
def Plane.slotAt (q : Plane) (x1 x2 k : Nat) : Nat := q.rowAt x1 x2 + k * (8 + 64 * (q.fmt.width / 8))

/-- Cuts a list into runs of `k`. -/
def runsOf {α : Type} (k : Nat) : Nat → List α → List (List α)
  | 0, _ => []
  | n + 1, l => if l = [] then [] else l.take k :: runsOf k n (l.drop k)

/-- The writes of one row of a tile: the elements (compressed groups for a ZC tensor), a partial last block filled with zero
codes, and the scales. -/
def rowWrites (q : Plane) (o0 x1 x2 : Nat) (codes scales : List Nat) : List (Nat × Bytes) :=
  let w := q.fmt.width
  if q.zc then
    (runsOf 64 codes.length codes).zipIdx.map fun r => (q.slotAt x1 x2 (o0 / 64 + r.2), compressGroup (w / 8) r.1)
  else
    let l := if q.fmt.scaled then padCodes (ceilDiv codes.length 32 * 32) codes else codes
    (q.rowAt x1 x2 + o0 * w / 8, packCodes w l)
      :: (if q.fmt.scaled then [(q.scaleAt x1 x2 (o0 / 32), scales.flatMap (leBytes 1))] else [])

/-- The writes of a tile with origin `o` and extents `e`. -/
def tileWrites (q : Plane) (o e : Nat × Nat × Nat) (codes scales : List Nat) : List (Nat × Bytes) :=
  let nb := ceilDiv e.1 32
  (List.range (e.2.1 * e.2.2)).flatMap fun k =>
    rowWrites q o.1 (o.2.1 + k % max 1 e.2.1) (o.2.2 + k / max 1 e.2.1) ((codes.drop (k * e.1)).take e.1) ((scales.drop (k * nb)).take nb)

/-! ## Reading a tile -/

/-- A way to read bytes: address and count. -/
abbrev Reader := Nat → Nat → State → Got × State

/-- XORs flips into bytes, the first of which has position `pos` in what the command reads. -/
def flipFrom (flips : List (Nat × Byte)) (pos : Nat) (b : Bytes) : Bytes :=
  if flips = [] then b
  else b.zipIdx.map fun x => flips.foldl (fun (v : Byte) (p : Nat × Byte) => if p.1 = pos + x.2 then v ^^^ p.2 else v) x.1

/-- One chunk of a read, with the next position. -/
def readChunk (rd : Reader) (flips : List (Nat × Byte)) (a n : Nat) (c : Nat × State) : Got × Nat × State :=
  let r := rd a n c.2
  (match r.1 with
    | .data b => .data (flipFrom flips c.1 b)
    | y => y, c.1 + n, r.2)

/-- What reading elements gives: their codes, what could not be read, or a compression mask that no tile can have (R199). -/
inductive Elems where
  | codes (l : List Nat)
  | lost (who : Ident)
  | wrong
  deriving DecidableEq, Repr

/-- Two reads one after the other. -/
def Elems.append : Elems → Elems → Elems
  | .codes a, .codes b => .codes (a ++ b)
  | .codes _, y => y
  | x, _ => x

/-- Reads one compression group of `n` valid elements: the bursts of its mask, then those of the rest (R200). -/
def readGroup (rd : Reader) (flips : List (Nat × Byte)) (w a n : Nat) (c : Nat × State) : Elems × Nat × State :=
  let n1 := min (8 + 64 * w) (32 - a % 32)
  match readChunk rd flips a n1 c with
  | (.lost x, c1) => (.lost x, c1)
  | (.data b, c1) =>
    let m := field b 0 8
    if 2 ^ n ≤ m then (.wrong, c1)
    else
      let more := 8 + w * popCount m 64 - n1
      match (if more = 0 then (Got.data [], c1) else readChunk rd flips (a + n1) more c1) with
      | (.lost x, c2) => (.lost x, c2)
      | (.data b', c2) => match decompressGroup w n (b ++ b') with
        | some l => (.codes l, c2)
        | none => (.wrong, c2)

/-- Reads the compression groups of one row, `k` of them from group `i` on, `n` elements in all. -/
def readGroups (rd : Reader) (flips : List (Nat × Byte)) (q : Plane) (x1 x2 : Nat) : Nat → Nat → Nat → Nat × State → Elems × Nat × State
  | 0, _, _, c => (.codes [], c)
  | k + 1, i, n, c =>
    match readGroup rd flips (q.fmt.width / 8) (q.slotAt x1 x2 i) (min 64 n) c with
    | (.codes l, c1) => let r := readGroups rd flips q x1 x2 k (i + 1) (n - 64) c1; (Elems.append (.codes l) r.1, r.2)
    | x => x

/-- Reads elements `o0` to `o0 + n - 1` of a row. -/
def readRow (rd : Reader) (flips : List (Nat × Byte)) (q : Plane) (o0 n x1 x2 : Nat) (c : Nat × State) : Elems × Nat × State :=
  if n = 0 then (.codes [], c)
  else if q.zc then readGroups rd flips q x1 x2 (ceilDiv n 64) (o0 / 64) n c
  else
    let w := q.fmt.width
    let a := o0 * w / 8
    match readChunk rd flips (q.rowAt x1 x2 + a) (ceilDiv ((o0 + n) * w) 8 - a) c with
    | (.data b, c1) => (.codes ((unpackCodes w (o0 + n - a * 8 / w) b).drop (o0 - a * 8 / w)), c1)
    | (.lost x, c1) => (.lost x, c1)

/-- Reads the scale bytes of blocks `k` to `k + n - 1` of a row. -/
def readScales (rd : Reader) (flips : List (Nat × Byte)) (q : Plane) (k n x1 x2 : Nat) (c : Nat × State) : Elems × Nat × State :=
  match readChunk rd flips (q.scaleAt x1 x2 k) n c with
  | (.data b, c1) => (.codes (b.map BitVec.toNat), c1)
  | (.lost x, c1) => (.lost x, c1)

/-- Reads row after row until one cannot be read. -/
def readLoop (f : Nat → Nat × State → Elems × Nat × State) : Nat → Nat → Nat × State → Elems × Nat × State
  | 0, _, c => (.codes [], c)
  | k + 1, i, c => match f i c with
    | (.codes l, c1) => let r := readLoop f k (i + 1) c1; (Elems.append (.codes l) r.1, r.2)
    | x => x

/-- Reads a tile with origin `o` and extents `e`: its codes and its scale bytes in canonical order. -/
def readTile (rd : Reader) (flips : List (Nat × Byte)) (q : Plane) (o e : Nat × Nat × Nat) (s : State) : Elems × Elems × State :=
  let rows := e.2.1 * e.2.2
  let at1 (k : Nat) : Nat := o.2.1 + k % max 1 e.2.1
  let at2 (k : Nat) : Nat := o.2.2 + k / max 1 e.2.1
  let x := readLoop (fun k c => readRow rd flips q o.1 e.1 (at1 k) (at2 k) c) rows 0 (0, s)
  let y := if q.fmt.scaled then readLoop (fun k c => readScales rd flips q (o.1 / 32) (ceilDiv e.1 32) (at1 k) (at2 k) c) rows 0 x.2
    else (.codes [], x.2)
  (x.1, y.1, y.2.2)

/-- The regions in which a station's units lie. -/
def stationRegions (p : Package) (st : Station) : List Nat :=
  match st.oxList.map (· / 8) ++ st.vecList.map (· / 2) with
  | [] => [p.regionOf st]
  | l => l.eraseDups

/-- Whether the Mules of region `r` read a station's output through the region cache (R225). -/
def readsCached (p : Package) (q : Station) (r : Nat) : Bool :=
  !q.crossRegion && (decide (q.kind = 1) || decide (stationRegions p q = [r]))

/-- How a Mule of region `r` writes a station's output (R225). The publication gate reads DRAM as a consumer outside the
region (notes/assumptions/129.md). -/
def writesAs (p : Package) (st : Station) (r : Nat) : WriteMode :=
  if st.crossRegion then .uncached
  else if decide (stationRegions p st = [r]) && (p.consumers st).all fun c => match p.st? c with
      | some k => decide (k.kind ≠ 7) && decide (stationRegions p k = [r])
      | none => false then .back
  else .through

/-- How the units of region `r` read the output of station `q`: its owner from the window, everyone else through a Mule. -/
def readerOf (g : Fin 64) (p : Package) (q : Station) (r : Nat) : Reader :=
  match windowOf p q.number with
  | some (b, _, _) => fun a n s => (.data (readPad s b a n), s)
  | none => muleRead r g (readsCached p q r)

/-- The first byte of a frame's planes: in DRAM, or in the half of the window that the frame uses (R219). -/
def planesAt (p : Package) (st : Station) (x : StFrame) : Nat :=
  match windowOf p st.number with
  | some (_, base, half) => (base + x.frame % 2 * half) * 512
  | none => x.base + headerRoom

/-- What reading a whole tile gives. -/
inductive TileRead where
  | good (o e : Nat × Nat × Nat) (codes scales : List Nat)
  | lost (who : Ident)
  | wrong
  | missing
  deriving DecidableEq, Repr

/-- Reads tile `j` of a producer's frame whole and recomputes its check word (R121, R199, R201). -/
def readChecked (rd : Reader) (g : Fin 64) (p : Package) (q : Station) (f j : Nat) (flips : List (Nat × Byte)) (s : State) : TileRead × State :=
  match stFrame? s g.val q.number f with
  | none => (.missing, s)
  | some x => match x.descs.find? fun d => decide (d.index = j) && decide (d.kind ≠ 2) with
    | none => (.missing, s)
    | some d =>
      let pl := planeOf p q x (planesAt p q x) j
      let o := (d.o0, d.o1, d.o2)
      let e := (d.e0, d.e1, d.e2)
      match readTile rd flips pl o e s with
      | (.codes c, .codes k, s1) => (if crc32c (checkBytes pl.fmt c k) = d.check then .good o e c k else .wrong, s1)
      | (.lost w, _, s1) => (.lost w, s1)
      | (_, .lost w, s1) => (.lost w, s1)
      | (_, _, s1) => (.wrong, s1)

/-- A Mule of region `r`, or the owner of its window, reads a tile whole. -/
def readWhole (g : Fin 64) (p : Package) (q : Station) (f j r : Nat) (flips : List (Nat × Byte)) (s : State) : TileRead × State :=
  readChecked (readerOf g p q r) g p q f j flips s

/-- Writes one chunk of a tile of a station with a window: through the check of its block arbiter (R220). -/
def dropWrite (b src : Nat) (who : Ident) (s : State) : State := raise src who (s.bump (Reg.WINDOW_DROPS b))

/-- A write of `data` from byte `a` of a block's scratchpad through window `w`, by station `st` of graph slot `g`. -/
def windowStore (b w g st a : Nat) (data : Bytes) (s : State) : State :=
  let x := s.win (16 * b + w)
  if x.state = .closed then dropWrite b Src.WINDOW_CLOSED (.writer b g st) s
  else if x.owner = g + 1 ∧ x.writers.contains st ∧ x.base * 512 ≤ a ∧ a + data.length ≤ x.limit * 512 then writePad b a data s
  else dropWrite b Src.WINDOW_BOUNDS (.writer b g st) s

/-- Writes a completed tile into its tensor by a Mule of region `r`, or into its window (R219, R225). -/
def storeTile (g : Fin 64) (p : Package) (st : Station) (f i r : Nat) (o e : Nat × Nat × Nat) (codes scales : List Nat) (s : State) : State :=
  match stFrame? s g.val st.number f with
  | none => s
  | some x =>
    forEach (tileWrites (planeOf p st x (planesAt p st x) i) o e codes scales) (fun w s =>
      match windowOf p st.number with
      | some (b, _, _) => windowStore b (windowNo p st.number) g.val st.number w.1 w.2 s
      | none => muleWrite r g (writesAs p st r) (w.2.length / 32 + 2) w.1 w.2 s) s

end Sys2Proof.Machine
end

