-- ==== Sys2Proof/Machine/Graphs.lean ====
section
/-! DEFINITION. Graph slots (05 R136 to R149): the package check's outcome, activation with its claims,
deactivation, unload, setup, frame ticks; scratchpad segments, windows and retained regions as graphs hold
them (08 R209 to R222). -/

namespace Sys2Proof.Machine

open Sys2Proof

/-- An abort code (17, abort codes). -/
abbrev Abort := Nat

/-! ## Ownership (17 R466, R467) -/

/-- The slots whose graph holds its claims: activating, active or deactivating. -/
def holds (s : State) (g : Nat) : Bool := within (gstate s g) 2 4

/-- The graph and station that own a stream (kind 10). -/
def streamOwner (s : State) (n : Nat) : Option (Nat × Nat) :=
  (List.range 64).findSome? fun g =>
    if holds s g then ((s.slot g).pkg.bind fun p => (p.streamsClaimed.find? fun x => x.1 = n).map fun x => (g, x.2)) else none

/-- The graph and station that own an overlay plane (kind 11): 4 times port plus plane. -/
def planeOwner (s : State) (n : Nat) : Option (Nat × Nat) :=
  (List.range 64).findSome? fun g =>
    if holds s g then ((s.slot g).pkg.bind fun p => (p.planesClaimed.find? fun x => x.1 = n).map fun x => (g, x.2)) else none

/-- The owners of UDP destination ports (kind 9): Ethernet port, UDP port, owner kind, number (R469); a stream owns the port that
its PCL_UDP takes, 0 taking none (R280, R466, notes/assumptions/138.md); the dictionary owns the last-word frame's source port
on ETH-A (R495). -/
def udpOwners (s : State) : List (Nat × Nat × Nat × Nat) :=
  (((List.range 3).flatMap fun e => [(e, s.r Reg.UDP_PORT, 9, 0), (e, s.rStaged Reg.UDP_PORT, 9, 0)])
      ++ [(0, s.r Reg.LW_UDP / 65536, 9, 0)])
    ++ (List.range 16).filterMap (fun n =>
      if s.r (Reg.PCL_UDP n) ≠ 0 then some (s.r (Reg.PCL_PORT n), s.r (Reg.PCL_UDP n), 8, n) else none)
    ++ (List.range 32).filterMap (fun n =>
      if (streamOwner s n).isSome ∧ s.r (Reg.STR_PORT n) < 2 then some (s.r (Reg.STR_PORT n), s.r (Reg.STR_SRC_UDP n), 10, n)
      else none)

/-- Whether a UDP port of an Ethernet port has an owner other than (kind, number). -/
def udpOwned (s : State) (eth udp kind num : Nat) : Bool :=
  (udpOwners s).any fun x => decide (x.1 = eth) && decide (x.2.1 = udp) && !(decide (x.2.2.1 = kind) && decide (x.2.2.2 = num))

/-! ## Activation checks (R140, R141, R212, R348, R355, R358, R484) -/

/-- R355: a safety publish station needs paired stations upstream and a SAFETY package. -/
def safetyOk (p : Package) : Bool :=
  p.stations.all fun st => match st.params with
    | .publish r => if r.safety then p.safety && (p.upstream st.number).all fun n => match p.st? n with
        | some q => if within q.kind 3 6 then q.paired else true
        | none => true
      else true
    | _ => true

/-- The configured payload of a tensor (R487). -/
def payloadSize (t : Tensor) : Nat :=
  let f := fmtOr t.format
  let n := t.dim0 * t.dim1 * t.dim2
  (if f.width < 8 then n else n * (f.width / 8)) + if f.scaled then ceilDiv t.dim0 32 * t.dim1 * t.dim2 else 0

/-- R484: the conditions on claimed streams. -/
def streamsOk (s : State) (p : Package) : Bool :=
  p.streamsClaimed.all fun x =>
    let port := s.r (Reg.STR_PORT x.1)
    match p.st? x.2 with
    | none => false
    | some st =>
      let safety := match st.params with
        | .publish r => r.safety
        | _ => false
      s.on (Reg.STR_ENABLE x.1) && (if port = 0 ∨ port = 4 then safety && p.safety else true)
        && decide (payloadSize (p.input st) ≤ if port < 2 then 1400 else 28)

/-- The source UDP ports that the streams of a package would take on Ethernet ports (R483). -/
def claimedUdp (s : State) (p : Package) : List (Nat × Nat) :=
  p.streamsClaimed.filterMap fun x =>
    if s.r (Reg.STR_PORT x.1) < 2 then some (s.r (Reg.STR_PORT x.1), s.r (Reg.STR_SRC_UDP x.1)) else none

/-- Whether a claim of the package is owned by another slot, or would give one UDP port two owners (R212, R467, R483). -/
def claimsOwned (s : State) (g : Nat) (p : Package) : Bool :=
  p.segmentsClaimed.any (fun k => match sfind k s.segs with
      | some o => decide (o.slot ≠ g + 1)
      | none => false)
    || p.windowsClaimed.any (fun k => decide ((s.win k).owner ≠ 0 ∧ (s.win k).owner ≠ g + 1))
    || p.streamsClaimed.any (fun x => (streamOwner s x.1).isSome
        || (decide (s.r (Reg.STR_PORT x.1) < 2) && udpOwned s (s.r (Reg.STR_PORT x.1)) (s.r (Reg.STR_SRC_UDP x.1)) 10 x.1))
    || !decide (claimedUdp s p).Nodup
    || p.planesClaimed.any (fun x => (planeOwner s x.1).isSome)

/-- The hardware queues held in a region by active graphs. -/
def heldQueues (s : State) : List Nat := (List.range 64).flatMap fun g => (s.slot g).hwQueues

/-- The descriptor slots of a region held by active graphs (0x3018). -/
def heldSlots (s : State) (r : Nat) : Nat :=
  ((List.range 64).map fun g => if holds s g then match (s.slot g).pkg with
    | some p => ((p.queues.filter fun q => q.region = r).map fun q => q.depth).sum
    | none => 0
  else 0).sum

/-- Hardware queue numbers for a package's queues: the lowest free ones of each queue's region (R124, R140). -/
def mapQueues (held : List Nat) : List Queue → Option (List Nat)
  | [] => some []
  | q :: t =>
    match (List.range 2048).find? fun k => !held.contains (2048 * q.region + k) with
    | some k =>
      let n := 2048 * q.region + k
      (mapQueues (n :: held) t).map fun l => n :: l
    | none => none

/-- The monitors free for a new graph. -/
def freeMonitors (s : State) : List Nat := (List.range 256).filter fun m => s.r (Reg.MON_GRAPH m) = 0

/-- The Goose demand of a package in a region, in µs per second (R348): blocks of matmul stations times
WORST_BEATS * 8 / 1,250, times the frame rate of the tick's trigger. -/
def gooseDemand (s : State) (p : Package) (r : Nat) : Nat :=
  let beats := (p.stations.map fun st => if st.kind = 3 then
    st.worst * 8 * (st.oxList.filter fun b => b / 8 = r).length else 0).sum
  ceilDiv (beats * 65536 * 10 ^ 9) (1250 * max 1 (s.r (Reg.TRG_PERIOD (p.trigger.getD 0))))

/-- The Goose load of the active graphs of a region (0x5022). -/
def gooseLoad (s : State) (r : Nat) : Nat :=
  ((List.range 64).map fun g => if holds s g then ((s.slot g).pkg.map fun p => gooseDemand s p r).getD 0 else 0).sum

/-- Whether resources would be exhausted (R141, R237, R348, R358). -/
def exhausted (s : State) (g : Nat) (p : Package) : Bool :=
  (mapQueues (heldQueues s) p.queues).isNone
    || (List.range 4).any (fun r => decide (12288 < heldSlots s r + ((p.queues.filter fun q => q.region = r).map fun q => q.depth).sum))
    || decide ((freeMonitors s).length < p.budgets.length)
    || (List.range 4).any (fun r => decide (500000 < gooseLoad s r + gooseDemand s p r))
    || (allocateAll (tensorSpaces g p) s).isNone

/-- The abort code of an activate command, in the order of R465; none when it is accepted. -/
def activateRefusal (s : State) (g : Nat) : Option Abort :=
  if s.drained ∨ gstate s g ≠ 1 then some 8
  else match (s.slot g).pkg with
    | none => some 8
    | some p =>
      if !safetyOk p || !streamsOk s p then some 5
      else if claimsOwned s g p then some 6
      else if exhausted s g p then some 7
      else none

/-! ## Activation, deactivation, unload -/

/-- Takes a package's segments, windows and overlay planes. -/
def takeClaims (g : Nat) (p : Package) (s : State) : State :=
  forEach p.claims (fun c s => match c with
    | .segments st b m => forEach (bitList m 64) (fun k s =>
        { s with segs := sinsert (64 * b + k) ⟨g + 1, st, false⟩ s.segs }) s
    | .window st b w base limit w0 w1 => s.setWin (16 * b + w)
        { state := .closed, owner := g + 1, station := st, base := base, limit := limit, writers := used16 [w0, w1] }
    | .plane _ d n => s.setR (Reg.PLN_SOURCE (4 * d + n)) 0xFE
    | _ => s) s

/-- Gives each budget entry of the package a monitor (R358). -/
def armMonitors (g : Nat) (p : Package) (ms : List Nat) (s : State) : State :=
  forEach (ms.zip p.budgets.zipIdx) (fun x s =>
    let m := x.1
    let b := x.2.1
    let s1 := (((s.setR (Reg.MON_GRAPH m) (g + 1)).setR (Reg.MON_ENTRY m) x.2.2).setR (Reg.MON_BUDGET m) b.budget)
    let s2 := (s1.setR (Reg.MON_ALIVE_MIN m) b.aliveMin).setR (Reg.MON_ALIVE_MAX m) b.aliveMax
    ((s2.setR (Reg.MON_LAST_US m) 0).setR (Reg.MON_MAX_US m) 0).setMon m { since := s.t3 }) s

/-- Writes every row of the banks that go on with zero data and valid check bits; retained segments keep theirs (R213). -/
def powerUp (s0 s : State) : State :=
  forEach (List.range 512) (fun n s =>
    if bankPower s (n / 16) (n % 16) = 1 ∧ bankPower s0 (n / 16) (n % 16) ≠ 1 then
      forEach (List.range 4) (fun i s =>
        match sfind (64 * (n / 16) + 4 * (n % 16) + i) s0.segs with
        | some o => if o.retained then s else clearSegment (64 * (n / 16) + 4 * (n % 16) + i) s
        | none => clearSegment (64 * (n / 16) + 4 * (n % 16) + i) s) s
    else s) s

/-- Accepts an activate command (R140): queues, monitors, claims and space for the tensors are taken, the slot is
activating. -/
def activateGraph (g : Nat) (s : State) : State :=
  match (s.slot g).pkg with
  | none => s
  | some p =>
    let ms := (freeMonitors s).take p.budgets.length
    let qs := (mapQueues (heldQueues s) p.queues).getD []
    let s0 := (allocateAll (tensorSpaces g p) s).getD s
    let s1 := armMonitors g p ms (powerUp s (takeClaims g p s0))
    let s2 := (((s1.setR (Reg.GRAPH_STATE g) 2).setR (Reg.FRAME_NO g) 0).setR (Reg.TICK_SKIP g) 0).setR (Reg.TILES_SKIPPED g) 0
    settleUnits (modSlot g (fun x => { x with setupStart := s.t3, setupDone := false, hwQueues := qs, monitors := ms, frames := []
                                              admitAfter := 0, closing := false }) s2)

/-- The named weight regions of a package: block, name, first segment, count. -/
def weightRegions (p : Package) : List (Nat × Nat × Nat × Nat) :=
  p.claims.filterMap fun c => match c with
    | .weights _ b n f k => some (b, n, f, k)
    | _ => none

/-- Whether a segment belongs to a named weight region. -/
def inWeightRegion (p : Package) (k : Nat) : Bool :=
  (weightRegions p).any fun x => decide (k / 64 = x.1) && within (k % 64) x.2.2.1 (x.2.2.1 + x.2.2.2 - 1)

/-- Releases a graph's segments; those of named weight regions stay owned as retained under RESIDENCY (R215,
R216). A bank that goes off loses its contents (R214). -/
def releaseSegments (g : Nat) (p : Package) (s : State) : State :=
  let keep (k : Nat) : Bool := p.residency && inWeightRegion p k
  let f (x : Nat × SegOwner) : Option (Nat × SegOwner) :=
    if x.2.slot = g + 1 then (if keep x.1 then some (x.1, { x.2 with retained := true }) else none) else some x
  powerDown { s with segs := s.segs.filterMap f }

/-- The owner closes its windows: an open one enters closing and its flush markers set out (R221). -/
def closeWindows (g : Nat) (s : State) : State :=
  forEach (List.range 512) (fun k s =>
    let x := s.win k
    if x.owner = g + 1 ∧ x.state = .isOpen then s.setWin k { x with state := .closing, regionMark := false, chipMark := false }
    else s) s

/-- Whether a window of a graph still waits for its close to be acknowledged. -/
def windowsClosing (s : State) (g : Nat) : Bool :=
  (List.range 512).any fun k => decide ((s.win k).owner = g + 1) && decide ((s.win k).state ≠ .closed)

/-- Gives a graph's windows back. -/
def freeWindows (g : Nat) (s : State) : State :=
  forEach (List.range 512) (fun k s => if (s.win k).owner = g + 1 then s.setWin k {} else s) s

/-- The region caches invalidate every line of a graph without writing any back (R227). -/
def walkCaches (g : Nat) (s : State) : State :=
  { s with lines := s.lines.filterMap fun (p : Nat × List CacheLine) =>
      let none4 := [false, false, false, false]
      match p.2.map (fun l => if l.slot = g + 1 then { l with slot := 0, valid := none4, dirty := none4, poison := none4 } else l) with
      | [] => none
      | l => some (p.1, l) }

/-- Frees everything an activation took and returns the slot to loaded (R145, R147). -/
def freeGraph (g : Nat) (s : State) : State :=
  match (s.slot g).pkg with
  | none => s
  | some p =>
    let mine (o : SpaceOwner) : Bool := match o with
      | .tensor k _ => decide (k = g)
      | _ => false
    let s1 := freeSpace mine (releaseSegments g p (walkCaches g (freeWindows g s)))
    let s2 := forEach (s.slot g).monitors (fun m s =>
      ((((s.setR (Reg.MON_GRAPH m) 0).setR (Reg.MON_ENTRY m) 0).setR (Reg.MON_BUDGET m) 0).setR (Reg.MON_ALIVE_MIN m) 0
        |>.setR (Reg.MON_ALIVE_MAX m) 0).setMon m {}) s1
    let s3 := forEach p.planesClaimed (fun x s =>
      let t := s.setR (Reg.PLN_SOURCE x.1) 0xFF
      { t with net := { t.net with overlayRec := sdel x.1 t.net.overlayRec } }) s2
    settleUnits (modSlot g (fun x => { x with hwQueues := [], monitors := [], frames := [], setupDone := false, closing := false
                                              retained := if p.residency then x.retained else [] })
      (s3.setR (Reg.GRAPH_STATE g) 1))

/-- Releases the retained regions of a slot (R217). -/
def releaseRetained (g : Nat) (s : State) : State :=
  modSlot g (fun x => { x with retained := [] })
    (powerDown { s with segs := s.segs.filter fun (p : Nat × SegOwner) => !(decide (p.2.slot = g + 1) && p.2.retained) })

/-- The host parameters a package declares (R149). -/
def hostDecls (p : Package) : List HostDecl := (Config.hostParams p.hostParams).take 254

/-- Forgets the host parameters of a slot. -/
def clearHost (g : Nat) (s : State) : State :=
  let other (k : Key) : Bool := decide (k / 256 ≠ 0x3400 + g)
  { s with regs := s.regs.filter fun p => other p.1, staged := s.staged.filter fun p => other p.1
           blobs := s.blobs.filter fun p => other p.1, stagedBlobs := s.stagedBlobs.filter fun p => other p.1 }

/-- The host parameters of an accepted package stand at their declared defaults (R149). -/
def initHost (g : Nat) (p : Package) (s : State) : State :=
  forEach (hostDecls p).zipIdx (fun x s =>
    let k : Key := (0x3400 + g) * 256 + x.2 + 1
    (s.setR k x.1.number).setBlob k (x.1.bytes.take x.1.size)) (clearHost g s)

/-- Frees the space of a slot's package. -/
def freePackage (g : Nat) (s : State) : State := freeSpace (fun o => decide (o = .package g)) s

/-- Empties a slot (R146). -/
def unloadGraph (g : Nat) (s : State) : State :=
  (((releaseRetained g (clearHost g (freePackage g s))).setSlot g {}).setR (Reg.GRAPH_STATE g) 0).setR (Reg.PKG_ID g) 0

/-- Bytes filled with 0x00 to whole granules, the contents of a package's space after its last byte. -/
def granuleFill (b : Bytes) : Bytes := b ++ List.replicate (granules b.length - b.length) 0#8

/-- The outcome of a package write (R139, R146, R148): the load result code; an accepted package lies in DRAM (R237),
written in class 4 from outside the fabric (R226, R240). -/
def loadPackage (g : Nat) (image : Bytes) (s : State) : State :=
  let key := if s.fuses.bank1.valid then some s.fuses.bank1.key else if s.fuses.bank0.valid then some s.fuses.bank0.key else none
  let (code, pkg) := loadCheck key image
  let s1 := s.setR (Reg.LOAD_STATUS g) code
  match pkg with
  | some p =>
    let s2 := allocate (.package g) image.length (freePackage g (releaseRetained g (initHost g p s1)))
    (((outsideWrite (s2.baseOf (.package g)) (granuleFill image) 3 s2).setSlot g { image := image, pkg := some p }).setR (Reg.GRAPH_STATE g) 1
      |>.setR (Reg.PKG_ID g) p.pkgId).setR (Reg.FRAME_NO g) 0
  | none => if gstate s g = 1 then s1 else ((s1.setSlot g {}).setR (Reg.GRAPH_STATE g) 5).setR (Reg.PKG_ID g) 0

/-- The abort code of a graph command (R138, R145 to R147, R438); none when it is accepted. -/
def graphCmdRefusal (s : State) (g cmd : Nat) : Option Abort :=
  match cmd with
  | 1 => activateRefusal s g
  | 2 => if gstate s g = 2 ∨ gstate s g = 3 then none else some 8
  | 3 => if gstate s g = 1 ∨ gstate s g = 5 then none else some 8
  | _ => some 5

/-- An accepted graph command. A graph deactivated while activating is freed at once (R147). -/
def graphCmd (g cmd : Nat) (s : State) : State :=
  match cmd with
  | 1 => activateGraph g s
  | 2 => if gstate s g = 2 then freeGraph g s else s.setR (Reg.GRAPH_STATE g) 4
  | 3 => unloadGraph g s
  | _ => s

/-! ## Resident operands (R157 to R159, R205, R216) -/

/-- The rows of a block that a station can use: named weight regions first, then its other claimed segments, rows of
windows left out (DESIGN CHOICE, notes/assumptions/39.md). -/
def claimRows (p : Package) (st b : Nat) : List (Nat × Nat) :=
  let named := p.claims.flatMap fun c => match c with
    | .weights s k _ first count => if s = st ∧ k = b then (List.range count).map (first + ·) else []
    | _ => []
  let claimed := p.claims.flatMap fun c => match c with
    | .segments s k m => if s = st ∧ k = b then (bitList m 63).filter fun i => !named.contains i else []
    | _ => []
  let inWindow (row : Nat) : Bool := p.claims.any fun c => match c with
    | .window _ k _ base limit _ _ => decide (k = b) && decide (base ≤ row ∧ row < limit)
    | _ => false
  ((named ++ claimed).flatMap fun s => (List.range 128).map (128 * s + ·)).filter (fun row => !inWindow row) |>.map fun row => (b, row)

/-- The block whose copy of resident weights a unit reads: its own, or local block 0 for a fused chain (R157). -/
def residentBlock (st : Station) (u : Nat) : Nat := if st.shape = 4 then u - u % 8 else u

/-- The rows that hold a unit's resident operand: those of its block, or of a vector block's quad (R205). -/
def residentRows (p : Package) (st : Station) (u : Nat) : List (Nat × Nat) :=
  if 32 ≤ u then
    let v := u - 32
    (List.range 4).flatMap fun k => claimRows p st.number (8 * (v / 2) + 4 * (v % 2) + k)
  else claimRows p st.number (residentBlock st u)

/-- The units that hold a copy of a station's resident weights. -/
def residentUnits (st : Station) : List Nat :=
  if st.onVec then st.vecList.map (32 + ·) else if st.shape = 4 then st.oxList.filter fun b => b % 8 = 0 else st.oxList

/-- The bytes of a station's weight operand in section 0x04 (R157, R558): weight slices, scales, initial values, m and f, as
offsets and lengths. -/
def weightParts (p : Package) (st : Station) (r : MatmulRec) : List (Nat × Nat) :=
  let f := fmtOr st.fmtIn
  let chans := (p.out st).dim0
  let grp := ceilDiv chans 64
  let cr := ceilDiv chans 512 * 512
  let wlen := if st.shape = 5 then elemBytes f (r.k * cr) else grp * ceilDiv r.k (max f.perBeat 1) * (64 * elemBytes f f.perBeat)
  let slen := if st.shape = 5 then ceilDiv r.k 32 * cr else grp * ceilDiv r.k 32 * 64
  let opt (off n : Nat) : Nat × Nat := (off, if off = 0xFFFFFFFF then 0 else n)
  [(r.weightOff, wlen), opt r.wscaleOff slen, opt r.initOff (4 * chans), opt r.mOff (4 * chans), opt r.fOff (4 * chans)]

/-- Where a part of the weight operand begins in a resident copy. -/
def partOffset (p : Package) (st : Station) (r : MatmulRec) (i : Nat) : Nat := (((weightParts p st r).take i).map Prod.snd).sum

/-- The device address of a byte of a package's constants. -/
def constAddr (s : State) (g off : Nat) : Nat :=
  s.baseOf (.package g) + (((directory (s.slot g).image).find? fun d => d.ty = 4).map fun d => d.off).getD 0 + off

/-- One resident copy, read uncached from the package by a Mule of the region (R225); what cannot be read stays 0x00
(notes/assumptions/130.md). -/
def copyWeights (g : Fin 64) (p : Package) (st : Station) (r : MatmulRec) (u : Nat) (s : State) : State :=
  let x := (weightParts p st r).foldl (fun (a : Bytes × State) q =>
    match muleRead (regionOf u) g false (constAddr a.2 g.val q.1) q.2 a.2 with
    | (.data b, s1) => (a.1 ++ b, s1)
    | (.lost _, s1) => (a.1 ++ List.replicate q.2 0#8, s1)) ([], s)
  writeRowsOf (residentRows p st u) x.1 x.2

/-! ## Setup (R142, R213, R216) -/

/-- The CRC-32C of some segments of a block, from segment 64 times block plus first on. -/
def segmentsCrc (s : State) (first count : Nat) : Nat := crc32c (readPad s (first / 64) (first % 64 * 65536) (count * 65536))

/-- Whether some word of a range of segments of a block carries an uncorrected error. -/
def segsDamaged (s : State) (first count : Nat) : Bool :=
  s.sram.any fun (p : Nat × Nat) => decide (p.1 < 2 ^ 32) && decide (1 < p.2) && within (p.1 / 8192) first (first + count - 1)

/-- Whether a retained weight region still is as it was first copied. -/
def regionKept (s : State) (g : Nat) (x : Nat × Nat × Nat × Nat) : Bool :=
  let first := x.1 * 64 + x.2.2.1
  (s.slot g).retained.contains (first, x.2.1, segmentsCrc s first x.2.2.2) && !segsDamaged s first x.2.2.2

/-- The copies and checks of setup: every resident operand is copied unless all of it lies in retained regions that have kept
their word; a retained region that differs is counted and reported (R157, R213, R216). -/
def setupGraph (g : Nat) (s : State) : State :=
  match (s.slot g).pkg with
  | none => s
  | some p =>
    let held := (weightRegions p).filter fun x => (s.slot g).retained.any fun y => decide (y.1 = x.1 * 64 + x.2.2.1 ∧ y.2.1 = x.2.1)
    let s1 := forEach (held.filter fun x => !regionKept s g x)
      (fun x s => raise Src.RETENTION_LOSS (.weights (g + 1) x.2.1) (s.bump (Reg.RETAIN_RECOPY g))) s
    let inKept (k : Nat × Nat) : Bool := held.any fun x =>
      regionKept s g x && decide (k.1 = x.1) && within (k.2 / 128) x.2.2.1 (x.2.2.1 + x.2.2.2 - 1)
    let s2 := forEach p.stations (fun st s => match st.params with
      | .matmul r =>
        if st.tiling.reuse ≠ 2 then s
        else forEach (residentUnits st) (fun u s =>
          let rows := (residentRows p st u).take (ceilDiv st.tiling.resident 512)
          if rows ≠ [] ∧ rows.all inKept then s else copyWeights (Fin.ofNat 64 g) p st r u s) s
      | _ => s) s1
    let words := (weightRegions p).map fun y => (y.1 * 64 + y.2.2.1, y.2.1, segmentsCrc s2 (y.1 * 64 + y.2.2.1) y.2.2.2)
    modSlot g (fun x => { x with setupDone := true, retained := if p.residency then words else [] }) s2

/-! ## Frame ticks (R142 to R144, R362, R435) -/

/-- Whether a counter slot of a station's frame is still open under R144: also while a consumer of a striped
station (R170) or of a writer into a window (R219) has its own slot open. -/
def slotHeld (s : State) (g : Nat) (p : Package) (st : Station) (x : StFrame) : Bool :=
  x.slotOpen || ((decide (1 < st.tiling.stripes) || p.claims.any fun c => match c with
      | .window _ _ _ _ _ w0 w1 => decide (w0 = st.number ∨ w1 = st.number)
      | _ => false)
    && (p.consumers st).any fun c => match stFrame? s g c x.frame with
      | some y => y.slotOpen
      | none => false)

/-- Whether both counter slots of some station are still open (R144). -/
def slotsFull (s : State) (g : Nat) (p : Package) : Bool :=
  p.stations.any fun st =>
    decide (2 ≤ (((s.slot g).frames.filter fun x => x.station = st.number && slotHeld s g p st x).length))

/-- The keys staged for a graph's frame tick: WITHHOLD and its host parameters (R143). -/
def tickKeys (g : Nat) (k : Key) : Bool := decide (k = Reg.WITHHOLD g) || decide (k / 256 = 0x3400 + g)

/-- Opens a frame in every station (R143) and writes the headers of its outputs (R115); the tick's T0 value is kept for
R488. -/
def openFrame (g f t0 : Nat) (p : Package) (s : State) : State :=
  let s1 := modSlot g (fun x => { x with tickT0 := t0, frames := x.frames ++ p.stations.map fun st =>
    { station := st.number, frame := f, limit := st.tiles, timestamp := t0, tensor := p.out st, base := if within st.kind 2 6 then headerBase s g p st f else 0,
      act0 := (p.out st).dim0, act1 := (p.out st).dim1, act2 := (p.out st).dim2 } }) (pruneFrames g s)
  startMonitors g f (forEach (p.stations.filter fun st => within st.kind 2 6) (fun st s => writeHeader g p st f s)
    (s1.setR (Reg.FRAME_NO g) f))

/-- The record each publish station sends at a tick of a drained chip (R435). -/
def drainedRecords (g t0 : Nat) (p : Package) (s : State) : State :=
  forEach p.stations (fun st s => match st.params with
    | .publish r =>
      if r.overlayTarget then s.bump (Reg.GATE_NOT_VALID g)
      else releaseStream { stream := r.stream, graph := g + 1, kind := 1, seq := 0
                           word := fswMark 0#32 Fsw.DEGRADED, timestamp := t0, frameNo := s.r (Reg.FRAME_NO g)
                           recordType := r.recordType, payload := [] } (s.bump (Reg.GATE_NOT_VALID g))
    | _ => s) s

/-- Opens the windows of a graph that becomes active (R218). -/
def openWindows (g : Nat) (s : State) : State :=
  forEach (List.range 512) (fun k s =>
    let x := s.win k
    if x.owner = g + 1 then s.setWin k { x with state := .isOpen } else s) s

/-- A frame tick of graph slot `g`; `t0` is T0 at the instant. -/
def frameTick (g t0 : Nat) (s : State) : State :=
  match (s.slot g).pkg with
  | none => s
  | some p =>
    if gstate s g = 2 ∧ (s.slot g).setupDone then
      let s1 := openWindows g ((s.setR (Reg.GRAPH_STATE g) 3).applyStaged (tickKeys g))
      let s2 := forEach (s.slot g).monitors (fun m s => s.setMon m { since := s.t3 }) s1
      if s.drained then drainedRecords g t0 p s2 else openFrame g 0 t0 p s2
    else if gstate s g = 3 then
      if s.drained then drainedRecords g t0 p (s.applyStaged (tickKeys g))
      else if slotsFull s g p then s.bump (Reg.TICK_SKIP g)
      else
        let first := (s.slot g).frames = [] ∧ s.r (Reg.FRAME_NO g) = 0 ∧ (s.slot g).tickT0 = 0
        openFrame g (if first then 0 else (s.r (Reg.FRAME_NO g) + 1) % 2 ^ 32) t0 p (s.applyStaged (tickKeys g))
    else s

/-! ## Meanings -/

/-- GRAPH_SETUP_COMPLETE (R142): the setup of an activating graph ends. -/
def execGraphSetupComplete (g : Fin 64) (s : State) : Host.Outcome State Fault Refusal :=
  .next (if gstate s g.val = 2 ∧ !(s.slot g.val).setupDone then setupGraph g.val s else s)

/-- Whether a check of a record of a graph is still open: a Goose sample, a freeze or a golden verdict (R145). -/
def checksOpen (s : State) (g : Nat) : Bool :=
  s.gooses.any (fun x => x.2.samples.any fun y => decide (y.ref.g.val = g))
    || s.ctxs.any fun c => c.2.bufs.any fun o => (!o.frozenClosed || !o.goldenClosed) && o.takers.any fun t => decide (t.1 = g)

/-- Whether open frames of a graph remain: a counter slot, a record at the gate or a check (R145). -/
def framesLeft (s : State) (g : Nat) : Bool :=
  (s.slot g).frames.any (fun x => x.slotOpen || ((publishOf s g x.station).isSome && !x.released)) || checksOpen s g

/-- The last steps of a deactivation: the close handshake of the windows, then the slot is loaded again (R145, R221). -/
def finishDeactivation (g : Nat) (s : State) : State :=
  let s1 := if (s.slot g).closing then s else modSlot g (fun x => { x with closing := true }) (closeWindows g s)
  if windowsClosing s1 g then s1 else freeGraph g s1

/-- DEACTIVATION_COMPLETE (R145): the last open frame has left the publication gate. -/
def execDeactivationComplete (g : Fin 64) (s : State) : Host.Outcome State Fault Refusal :=
  .next (if gstate s g.val = 4 ∧ !framesLeft s g.val then finishDeactivation g.val s else s)

/-- WINDOW_CLOSE_ACK (R221): flush markers arrive at a closing window; after both, the close is acknowledged, and with the
last window of a graph its deactivation ends. -/
def execWindowCloseAck (b : Fin 32) (w : CloseMarks) (s : State) : Host.Outcome State Fault Refusal :=
  let k := 16 * b.val + w.win.val
  let x := s.win k
  let y := { x with regionMark := x.regionMark || w.region, chipMark := x.chipMark || w.chip }
  .next (if x.state = .closing then
    (if y.regionMark && y.chipMark then
      let s1 := s.setWin k { x with state := .closed, regionMark := false, chipMark := false }
      if (s1.slot (x.owner - 1)).closing ∧ !windowsClosing s1 (x.owner - 1) then freeGraph (x.owner - 1) s1 else s1
     else s.setWin k y)
  else s)

end Sys2Proof.Machine
end

