-- ==== Sys2Proof/Machine/Cells.lean ====
section
/-! DEFINITION. The cells and lane rows of an Ox block: the tokens of a tile and of a fused pass, feeders and multicast, the
stagger, accumulation with its checks, the drain, and the signature units (03 R52 to R75, 04 R88 to R99, 14 R365 to R373). -/

namespace Sys2Proof.Machine

open Sys2Proof

/-! ## Pairs and their windows (R365 to R373) -/

/-- The paired station a unit (0 to 39) works for, if any. -/
def pairedStation (s : State) (u : Nat) : Option Station :=
  (activeStations s u).find? fun st => st.paired

/-- The partner of a unit of a pair (R366, R367). -/
def partner (s : State) (u : Nat) : Option Nat :=
  (pairedStation s u).bind fun st =>
    let base := if 32 ≤ u then 32 else 0
    (st.partnerOf (u - base)).map (base + ·)

/-- The copy of R365 that a unit belongs to: A has the lower lowest number. -/
def isCopyA (s : State) (u : Nat) : Bool :=
  match pairedStation s u with
  | none => true
  | some st =>
    let base := if 32 ≤ u then 32 else 0
    match st.partnerOf (u - base) with
    | none => true
    | some v => decide (((shapeGroup st (u - base)).foldl min (u - base)) < ((shapeGroup st v).foldl min v))

/-- Whether all 16 rows of a tile have drained in a block. -/
def rowsDrained (x : UnitState) (t : TileRef) : Bool :=
  (List.range 16).all fun r => x.outBuf.any fun o => decide (o.ref = t) && decide (o.row = r)

/-- Whether a unit has finished every tile it holds: for a block, every tile of its log has drained; for a vector block, every
one has run. -/
def finishedAll (s : State) (u : Nat) : Bool :=
  let x := s.unit u
  x.log.all fun e => if u < 32 then rowsDrained x e.ref else decide (0 < e.fed)

/-- R370 and R373: whether a copy may accept its next token. -/
def mayAccept (s : State) (u : Nat) : Bool :=
  match partner s u with
  | none => true
  | some v =>
    let x := s.unit u
    let y := s.unit v
    decide (x.beat < 256 * (x.compared + 2)) &&
      (if isCopyA s u then decide (x.beat < 8) || decide (x.beat < y.beat + 8)
       else decide (x.beat + 3 ≤ y.beat) || finishedAll s v)

/-- The XOR of a list of words. -/
def xorAll (l : List (BitVec 64)) : BitVec 64 := l.foldl (· ^^^ ·) 0#64

/-- Closes the window in progress with a signature; a unit without a partner compares nothing. -/
def closeWindow (u : Nat) (sig : BitVec 64) (beat : Nat) (s : State) : State :=
  let x := s.unit u
  s.setUnit u { x with sig := 0, beat := beat, closed := if (partner s u).isSome then x.closed ++ [(x.beat / 256, sig)] else [] }

/-- Folds the word of one beat and of the drain port in it into the signature; a 256th beat closes the window (R372). -/
def foldBeat (u : Nat) (w : BitVec 64) (s : State) : State :=
  let x := s.unit u
  let now := x.port.filter fun p => decide (p.1 ≤ x.beat)
  let sig := misr x.sig (w ^^^ xorAll (now.map Prod.snd))
  let s1 := s.setUnit u { x with port := x.port.filter fun p => !decide (p.1 ≤ x.beat) }
  if (x.beat + 1) % 256 = 0 then closeWindow u sig (x.beat + 1) s1
  else s1.setUnit u { s1.unit u with sig := sig, beat := x.beat + 1 }

/-- The early close of a window by a copy that has finished every tile it holds (R372); words still on the drain port are
folded in the order of their beats. -/
def closeEarly (u : Nat) (s : State) : State :=
  let x := s.unit u
  if (partner s u).isSome ∧ finishedAll s u ∧ (x.beat % 256 ≠ 0 ∨ x.port ≠ []) then
    let beats := (x.port.map Prod.fst).eraseDups.mergeSort
    let sig := beats.foldl (fun a n => misr a (xorAll ((x.port.filter fun p => decide (p.1 = n)).map Prod.snd))) x.sig
    closeWindow u sig (256 * (x.beat / 256 + 1)) (s.setUnit u { x with port := [] })
  else s

/-- Places a row's 34-bit value in the input word (R371). -/
def placeRow (k : Nat) (v : BitVec 64) : BitVec 64 := v.rotateLeft k

/-- A 32-bit value extended by its residue. -/
def value34 (c : BitVec 32 × Nat) : BitVec 64 := c.1.setWidth 64 ||| (BitVec.ofNat 64 c.2 <<< 32)

/-! ## Registers with parity (R52, R59, R65, R74) -/

/-- The even parity bit of a byte. -/
def parityBit (b : Byte) : Bool := (List.range 8).foldl (fun x j => x != b.getLsbD j) false

/-- Bytes with their parity bits. -/
def protect (b : Bytes) : Prot := b.map fun x => (x, parityBit x)

/-- The bytes of a register. -/
def Prot.bytes (p : Prot) : Bytes := p.map Prod.fst

/-- Whether the parity of every byte is right. -/
def Prot.good (p : Prot) : Bool := p.all fun x => parityBit x.1 == x.2

/-- A register as it is read, with the bits that a defect flips. -/
def flipReg (flips : List BeatFlip) (row : Nat) (name : RegName) (p : Prot) : Prot :=
  flips.foldl (fun q x => match x with
    | .reg r n i v => if r.val = row ∧ n = name then
        q.zipIdx.map fun y => if y.2 = i.val then (y.1.1 ^^^ v.setWidth 8, y.1.2 != v.getLsbD 8) else y.1
      else q
    | _ => q) p

/-- The bits a defect flips on the adder output of a cell. -/
def adderFlip (flips : List BeatFlip) (row cell : Nat) : BitVec 32 :=
  flips.foldl (fun v x => match x with
    | .adder r c b => if r.val = row ∧ c.val = cell then v ^^^ b else v
    | _ => v) 0#32

/-! ## The tokens of a tile and of a fused pass (R53, R57, R62 to R68) -/

/-- The first channel of a block's share of a tile (R62). -/
def shareChannel (st : Station) (b : Nat) : Nat :=
  if st.shape = 2 then 64 * (b % 4) else if st.shape = 3 then 64 * (b % 2) else 0

/-- The first row of a block's share of a tile (R62, R64). -/
def shareRow (st : Station) (b : Nat) : Nat :=
  if st.shape = 1 then 16 * (b % 4) else if st.shape = 3 then 16 * (b % 4 / 2) else if st.shape = 4 then 16 * (b % 8) else 0

/-- The blocks that receive a block's weights in one multicast, itself included (R62). -/
def castWeights (st : Station) (b : Nat) : List Nat :=
  if st.tiling.reuse = 2 then [b]
  else if st.shape = 1 then shapeGroup st b
  else if st.shape = 3 then (shapeGroup st b).filter fun v => decide (v % 2 = b % 2)
  else [b]

/-- The blocks that receive a block's activations in one multicast, itself included (R62). -/
def castActs (st : Station) (b : Nat) : List Nat :=
  if st.tiling.reuse = 3 then [b]
  else if st.shape = 2 then shapeGroup st b
  else if st.shape = 3 then (shapeGroup st b).filter fun v => decide (v % 4 / 2 = b % 4 / 2)
  else [b]

/-- Bytes of the elements of one operand latch (R53). -/
def chunkBytes (f : Fmt) : Nat := elemBytes f f.perBeat

/-- The package, station and record of a matmul tile. -/
def matmulOf (s : State) (t : TileRef) : Option (Package × Station × MatmulRec) :=
  match (s.slot t.g.val).pkg, stationOf s t.g.val t.station with
  | some p, some st => match st.params with
    | .matmul r => some (p, st, r)
    | _ => none
  | _, _ => none

/-- The actual length of a station's reduction: axis 0 of its input, of the source of an expanded input (R93, R184). -/
def redAct (s : State) (g : Nat) (p : Package) (st : Station) (f : Nat) : Nat :=
  match p.producer? st 0 with
  | none => 0
  | some q => match q.params, p.producer? q 0 with
    | .expand _, some z => (actOf s g z.number f).1
    | _, _ => (actOf s g q.number f).1

/-- Whether reduction element `j` lies inside the actual length (R93). -/
def elemLive (s : State) (g : Nat) (p : Package) (st : Station) (f j : Nat) : Bool :=
  match (p.producer? st 0).map (Station.params ·) with
  | some (Params.expand r) => decide (j % max 1 r.ct < redAct s g p st f)
  | _ => decide (j < redAct s g p st f)

/-- What a datapath takes for one tile, or for the groups of one fused pass: load tokens of a segment, groups, initial tokens
of a group, format, elements of a segment, first element and number of the elements of the share. -/
structure Run where
  p : Package
  st : Station
  par : MatmulRec
  fmt : Fmt
  loads : Nat
  groups : Nat
  init : Nat
  cap : Nat
  lo : Nat
  len : Nat
  deriving DecidableEq, Repr

/-- The run of a log entry: a reduction of actual length 0 has no slices (R57, R184). -/
def runOf (s : State) (e : LogEntry) : Option Run :=
  (matmulOf s e.ref).map fun x =>
    let st := x.2.1
    let f := fmtOr st.fmtIn
    let share := shareOf st x.2.2.k e.ref.index
    let len := if redAct s e.ref.g.val x.1 st e.ref.frame = 0 then 0 else share.2 - share.1
    { p := x.1, st := st, par := x.2.2, fmt := f, loads := if st.shape = 4 then 128 else 0
      groups := max 1 e.pass.length, init := if e.hasInit then 1 else 0
      cap := if st.shape = 4 then loadCap f else max 1 len, lo := share.1, len := len }

/-- Slices of one group. -/
def Run.slices (r : Run) : Nat := ceilDiv r.len (max 1 r.fmt.perBeat)

/-- Tokens of a run. -/
def Run.count (r : Run) : Nat := ceilDiv r.len (max 1 r.cap) * r.loads + r.groups * (r.init + r.slices)

/-- A place in a run: the stationary operand of a row, the initial values of a group, a slice of a group. -/
inductive Pos where
  | load (seg row : Nat) | initial (group : Nat) | slice (seg group step : Nat)
  deriving DecidableEq, Repr

/-- Place `n` of what remains of a run from segment `seg` on, `left` elements long: the load wave, last row first, then each
group's initial token in the first segment and its slices (R65 to R68). -/
def Run.placeFrom (r : Run) : Nat → Nat → Nat → Nat → Option Pos
  | 0, _, _, _ => none
  | fuel + 1, seg, left, n =>
    let e := max 1 r.fmt.perBeat
    let steps := ceilDiv (min r.cap left) e
    let a := if seg = 0 then r.init else 0
    let ld := if left = 0 then 0 else r.loads
    let m := r.groups * (a + steps)
    if n < ld then some (.load seg (r.loads - 1 - n))
    else if n - ld < m then
      let i := (n - ld) / (a + steps)
      let k := (n - ld) % (a + steps)
      if k < a then some (.initial i) else some (.slice seg i (seg * r.cap / e + (k - a)))
    else if left ≤ r.cap then none
    else r.placeFrom fuel (seg + 1) (left - r.cap) (n - ld - m)

/-- Place `n` of a run. -/
def Run.place (r : Run) (n : Nat) : Option Pos := r.placeFrom (r.len + 1) 0 r.len n

/-- Tokens of the run of a log entry; a tile without any still takes its turn. -/
def turns (s : State) (e : LogEntry) : Nat := max 1 (((runOf s e).map Run.count).getD 0)

/-- The entry whose tokens row 0 of a block takes next. -/
def unfed? (s : State) (b : Nat) : Option LogEntry := (s.unit b).log.find? fun e => decide (e.fed < turns s e)

/-- The tile of a pass's group `i`. -/
def LogEntry.tile (e : LogEntry) (i : Nat) : TileRef := { e.ref with index := nth e.ref.index e.pass i }

/-! ## Operand buffers (R155, R158, R181, R558, R561) -/

/-- The rows in which a unit keeps the activations of a frame (REUSE 3): the half for even or for odd frames (R158). -/
def frameRows (p : Package) (st : Station) (u f : Nat) : List (Nat × Nat) :=
  let rows := if 32 ≤ u then residentRows p st u else claimRows p st.number u
  rows.drop (f % 2 * ceilDiv st.tiling.resident 512)

/-- The buffer that holds the activations of a tile, or of its pass. -/
def actBuf (s : State) (u : Nat) (st : Station) (t : TileRef) : Option OpBuf :=
  (s.unit u).opBuf.find? fun o => sameFetch st o.ref t && (o.expanded || decide (o.got ≠ []))

/-- Bytes of one position in a frame's resident activation operand. -/
def positionBytes (p : Package) (st : Station) : Nat := elemBytes (fmtOr st.fmtIn) (p.input st).dim0

/-- `n` elements from element `j` of row `q` of a block's share of a tile, and the scale bytes of their blocks; `j` counts
within the share of a split reduction. -/
def actRun (s : State) (b : Nat) (r : Run) (t : TileRef) (q j n : Nat) : Bytes × Bytes :=
  let f := r.fmt
  let nb := if f.scaled then ceilDiv n 32 else 0
  if r.st.tiling.reuse = 3 then
    let src := r.p.input r.st
    let o := (boxOf r.p r.st t.index).1
    let pos := o.2.2 * src.dim1 + o.2.1 + shareRow r.st b + q
    let rows := frameRows r.p r.st b t.frame
    let w := positionBytes r.p r.st
    (readRows s rows (pos * w + elemBytes f (r.lo + j)) (elemBytes f n),
     readRows s rows (src.dim1 * src.dim2 * w + pos * ceilDiv src.dim0 32 + (r.lo + j) / 32) nb)
  else
    let a := ((actBuf s b r.st t).map fun o => o.acts).getD []
    let share := (shareOf r.st r.par.k t.index).2 - r.lo
    if r.st.shape = 4 then
      let w := ceilDiv (elemBytes f share) 32 * 32
      (slice a (q * w + elemBytes f j) (elemBytes f n), slice a (16 * w + q * ceilDiv share 32 + j / 32) nb)
    else
      let e := max 1 f.perBeat
      let c := chunkBytes f
      (slice a (j / e * (16 * c) + q * c) (elemBytes f n), slice a (ceilDiv share e * 16 * c + q * ceilDiv share 32 + j / 32) nb)

/-- The channel group of 64 that a block computes of a tile. -/
def shareGroup (r : Run) (b : Nat) (t : TileRef) : Nat := ((boxOf r.p r.st t.index).1.1 + shareChannel r.st b) / 64

/-- A weight slice of a tile and the scales of its block, from the resident copy or from the operand buffer (R558). -/
def weightSlice (s : State) (b : Nat) (r : Run) (t : TileRef) (step : Nat) : Bytes × Bytes :=
  let e := max 1 r.fmt.perBeat
  let n := 64 * chunkBytes r.fmt
  if r.st.tiling.reuse = 2 then
    let rows := residentRows r.p r.st b
    let g := shareGroup r b t
    (readRows s rows (partOffset r.p r.st r.par 0 + (g * ceilDiv r.par.k e + r.lo / e + step) * n) n,
     if r.fmt.scaled then readRows s rows (partOffset r.p r.st r.par 1 + (g * ceilDiv r.par.k 32 + (r.lo + step * e) / 32) * 64) 64 else [])
  else match ((s.unit b).opBuf.find? fun o => decide (o.ref = t)).bind fun o => o.weights with
    | some w => (slice w.1 (step * n) n, if r.fmt.scaled then slice w.2.1 (((r.lo + step * e) / 32 - r.lo / 32) * 64) 64 else [])
    | none => ([], [])

/-- The 64 initial values of a tile in a block. -/
def initialValues (s : State) (b : Nat) (r : Run) (t : TileRef) : Bytes :=
  if r.st.tiling.reuse = 2 then
    readRows s (residentRows r.p r.st b) (partOffset r.p r.st r.par 2 + shareGroup r b t * 256) 256
  else ((((s.unit b).opBuf.find? fun o => decide (o.ref = t)).bind fun o => o.weights).map fun w => w.2.2).getD []

/-- The source tiles that a unit fetches for a tile: input and the producer's index, as far as descriptors announce them. -/
def wantedTiles (s : State) (g : Nat) (p : Package) (st : Station) (f i : Nat) : List (Nat × Nat) :=
  (List.range 4).flatMap fun n => match p.producer? st n with
    | some q => match stFrame? s g q.number f with
      | some x => (x.descs.filter fun d => decide (d.kind ≠ 2) && readsTile p st n i d.index).map fun d => (n, d.index)
      | none => []
    | none => []

/-- Whether a unit has the activations of a tile: resident, expanded, or every source tile it reads. -/
def actsPresent (s : State) (u : Nat) (p : Package) (st : Station) (t : TileRef) : Bool :=
  if st.tiling.reuse = 3 then (s.unit u).resident.contains (t.g, t.station, t.frame)
  else if ((p.producer? st 0).map fun q => q.kind) = some 2 then ((actBuf s u st t).map fun o => o.expanded) = some true
  else (wantedTiles s t.g.val p st t.frame t.index).all fun x => ((actBuf s u st t).map fun o => o.got.contains x).getD false

/-- Whether a block holds a tile's weights. -/
def weightsPresent (s : State) (b : Nat) (st : Station) (t : TileRef) : Bool :=
  decide (st.tiling.reuse = 2) || (s.unit b).opBuf.any fun o => decide (o.ref = t) && o.weights.isSome

/-- The blocks whose rows form one stagger chain with a block's (R64). -/
def chainOf (st : Station) (b : Nat) : List Nat := if st.shape = 4 then shapeGroup st b else [b]

/-- Whether every operand of a run is in place. -/
def operandsIn (s : State) (b : Nat) (r : Run) (e : LogEntry) : Bool :=
  (decide (r.len = 0) || (chainOf r.st b).all fun v => actsPresent s v r.p r.st e.ref)
    && (decide (r.init + r.slices = 0) || (List.range r.groups).all fun i => weightsPresent s b r.st (e.tile i))

/-! ## Feeders and multicast sources (R61 to R63) -/

/-- Which of the elements of one step lie inside the actual length (R93). -/
def liveMask (s : State) (r : Run) (e : LogEntry) (step : Nat) : Nat :=
  (List.range r.fmt.perBeat).foldl (fun m i =>
    if elemLive s e.ref.g.val r.p r.st e.ref.frame (r.lo + step * r.fmt.perBeat + i) ∧ step * r.fmt.perBeat + i < r.len then setBit m i
    else m) 0

/-- The weight token at a place: initial values, or a slice with its scales. -/
def weightAt (s : State) (b : Nat) (r : Run) (e : LogEntry) : Pos → Bytes × Bytes
  | .initial i => (initialValues s b r (e.tile i), [])
  | .slice _ i k => weightSlice s b r (e.tile i) k
  | .load _ _ => ([], [])

/-- The broadcast operands of the 16 rows of a block at a place, with their scales. -/
def actsAt (s : State) (b : Nat) (r : Run) (e : LogEntry) : Pos → List (Bytes × Nat)
  | .slice _ i k => (List.range 16).map fun q =>
    let x := actRun s b r (e.tile i) q (k * r.fmt.perBeat) r.fmt.perBeat
    (x.1, field x.2 0 1)
  | _ => []

/-- Changes the log entry of a tile in some units. -/
def modEntries (us : List Nat) (t : TileRef) (f : LogEntry → LogEntry) (s : State) : State :=
  forEach us (fun u s => s.setUnit u { s.unit u with log := (s.unit u).log.map fun e => if e.ref = t then f e else e }) s

/-- The multicast source of a block's weights releases its next token when every receiver has room for it (R63). -/
def releaseWeights (b : Nat) (s : State) : State :=
  match (s.unit b).log.find? fun e => decide (e.sentW < (((runOf s e).map Run.count).getD 0)) with
  | none => s
  | some e => match runOf s e with
    | none => s
    | some r => match r.place e.sentW with
      | none => s
      | some pos =>
        let us := castWeights r.st b
        if 1 < us.length ∧ operandsIn s b r e ∧ us.all (fun u => decide ((s.unit u).skewW.length < 8)) then
          let w := weightAt s b r e pos
          modEntries us e.ref (fun y => { y with sentW := y.sentW + 1 }) (forEach us (fun u s =>
            s.setUnit u { s.unit u with skewW := (s.unit u).skewW ++ [{ ref := e.ref, slice := w.1, scales := w.2 }] }) s)
        else s

/-- The multicast source of a block's activations releases its next token. -/
def releaseActs (b : Nat) (s : State) : State :=
  match (s.unit b).log.find? fun e => decide (e.sentA < (((runOf s e).map Run.slices).getD 0)) with
  | none => s
  | some e => match runOf s e with
    | none => s
    | some r =>
      let us := castActs r.st b
      if 1 < us.length ∧ operandsIn s b r e ∧ us.all (fun u => decide ((s.unit u).skewA.length < 8)) then
        let a := actsAt s b r e (.slice 0 0 e.sentA)
        modEntries us e.ref (fun y => { y with sentA := y.sentA + 1 }) (forEach us (fun u s =>
          s.setUnit u { s.unit u with skewA := (s.unit u).skewA ++ [{ ref := e.ref, acts := a }] }) s)
      else s

/-- The next token of a block's weight stream: from its skew buffer when it is multicast. -/
def nextWeights (s : State) (b : Nat) (r : Run) (e : LogEntry) (pos : Pos) : Option (Bytes × Bytes) :=
  if (castWeights r.st b).length ≤ 1 then some (weightAt s b r e pos)
  else ((s.unit b).skewW.head?.filter fun k => decide (k.ref = e.ref)).map fun k => (k.slice, k.scales)

/-- The next operands of a block's feeders: from its skew buffer when they are multicast. -/
def nextActs (s : State) (b : Nat) (r : Run) (e : LogEntry) (pos : Pos) : Option (List (Bytes × Nat)) :=
  match pos with
  | .slice _ _ _ =>
    if (castActs r.st b).length ≤ 1 then some (if r.loads = 0 then actsAt s b r e pos else [])
    else ((s.unit b).skewA.head?.filter fun k => decide (k.ref = e.ref)).map fun k => k.acts
  | _ => some []

/-- The token at a place of a run, with its weight slice or initial values and the broadcast operands it meets (R57, R59, R65,
R66). -/
def tokenOf (s : State) (b : Nat) (r : Run) (e : LogEntry) (w : Bytes × Bytes) (a : List (Bytes × Nat)) : Pos → StagTok
  | .load seg row =>
    let n := min r.cap (r.len - seg * r.cap)
    let x := actRun s (b + row / 16) r e.ref (row % 16) (seg * r.cap) n
    { kind := .load, ref := e.ref, step := seg, last := decide (row = 0), fmt := r.fmt
      data := protect (x.1 ++ List.replicate (512 - x.1.length) 0#8)
      scales := protect (x.2 ++ List.replicate (64 - x.2.length) 0#8) }
  | .initial i =>
    { kind := .initial, ref := e.tile i, step := 0, last := decide (r.slices = 0), fmt := r.fmt
      data := protect (w.1 ++ List.replicate (256 - w.1.length) 0#8), scales := [] }
  | .slice seg i k =>
    { kind := .weights, ref := e.tile i, step := k, last := decide (k + 1 = r.slices), fmt := r.fmt, data := protect w.1
      scales := protect w.2, acts := a, chunk := if r.loads = 0 then none else some (k - seg * r.cap / max 1 r.fmt.perBeat)
      live := liveMask s r e k }

/-- The token that enters row 0 next, if its operands are there. -/
def nextToken (s : State) (b : Nat) (r : Run) (e : LogEntry) : Option StagTok :=
  match r.place e.fed with
  | none => none
  | some pos =>
    match nextWeights s b r e pos, nextActs s b r e pos with
    | some w, some a => some (tokenOf s b r e w a pos)
    | _, _ => none

/-- Drops the first token of a skew buffer when it belongs to a tile. -/
def popSkew (t : TileRef) (l : List SkewTok) : List SkewTok :=
  match l with
  | k :: r => if k.ref = t then r else k :: r
  | [] => []

/-- Row 0 has taken a token of a run: the cursors move on, and the operand buffers of a run that has been taken whole are free
for the next (R561), their contents kept until the Goose has taken its sample (R346). -/
def tokenTaken (b : Nat) (r : Run) (e : LogEntry) (isSlice : Bool) (s : State) : State :=
  let whole := turns s e ≤ e.fed + 1
  forEach (chainOf r.st b) (fun u s =>
    let x := s.unit u
    s.setUnit u { x with
      log := x.log.map fun y => if sameFetch r.st y.ref e.ref then { y with fed := y.fed + 1 } else y
      skewW := popSkew e.ref x.skewW
      skewA := if isSlice then popSkew e.ref x.skewA else x.skewA
      opBuf := if whole then x.opBuf.filter fun o => !sameFetch r.st o.ref e.ref else x.opBuf
      usedBuf := if whole then x.usedBuf ++ x.opBuf.filter fun o => sameFetch r.st o.ref e.ref else x.usedBuf }) s

/-! ## Accumulator entries (R52 to R58); rows are numbered through the device, 16 to a block -/

/-- The key of a row's entry in `acc`. -/
def accKey (row entry : Nat) : Nat := 32 * row + entry

/-- The entry a row uses for a tile: the one open for it, else the first free one (R55, R56). -/
def entryFor (s : State) (row : Nat) (t : TileRef) : Option Nat :=
  match (List.range 32).find? fun i => let e := s.accE (accKey row i); decide (e.state = .accumulating) && decide (e.owner = some t) with
  | some i => some i
  | none => (List.range 32).find? fun i => decide ((s.accE (accKey row i)).state = .free)

/-- The mask bits that the sequencer sets in a row of a block for a tile: positions and channels beyond its extents (R58,
R135, R185). -/
def maskBits (s : State) (row : Nat) (t : TileRef) : List Bool :=
  match matmulOf s t with
  | none => List.replicate 64 true
  | some x =>
    let e := validExtents s t.g.val x.1 x.2.1 t.frame t.index
    let b := row / 16
    (List.range 64).map fun c =>
      decide (e.2.1 * e.2.2 ≤ shareRow x.2.1 b + row % 16) || decide (e.1 ≤ shareChannel x.2.1 b + c)

/-- The operand of one beat in a latch, elements beyond the actual length forced to zero (R93). -/
def liveWord (f : Fmt) (live : Nat) (b : Bytes) : BitVec 64 :=
  let v := leVal b
  BitVec.ofNat 64 ((List.range f.perBeat).foldl (fun a i =>
    if bit live i then a + v / 2 ^ (f.width * i) % 2 ^ f.width * 2 ^ (f.width * i) else a) 0)

/-- What one beat does in one row: its registers, the entry written, parity faults, cells whose residue check fails, and the
values its cells write. -/
structure RowBeat where
  regs : RowRegs
  entry : Option (Nat × AccEntry) := none
  faults : List Ident := []
  checks : List Nat := []
  word : BitVec 64 := 0
  deriving DecidableEq, Repr

/-- The broadcast operand that a token meets in row `k` of the chain: the feeder's, or a chunk of the stationary register,
with its scale and whether the stationary registers read well (R61, R65, R74). -/
def broadcast (x : RowRegs) (tok : StagTok) (k : Nat) (flips : List BeatFlip) : Bytes × Nat × List RegName :=
  match tok.chunk with
  | none => let a := nth ([], 127) tok.acts (k % 16); (a.1, a.2, [])
  | some c =>
    let n := chunkBytes tok.fmt
    let d := ((flipReg flips k .stationary x.stat).drop (c * n)).take n
    let z := ((flipReg flips k .stationaryScales x.statScale).drop (c * tok.fmt.perBeat / 32)).take (if tok.fmt.scaled then 1 else 0)
    (Prot.bytes d, field (Prot.bytes z) 0 1, (if Prot.good d then [] else [.stationary]) ++ if Prot.good z then [] else [.stationaryScales])

/-- The latches of a row for a token: weight and broadcast operand of each cell, zero in masked cells (R52, R58). -/
def latchesFor (x : RowRegs) (tok : StagTok) (masks : List Bool) (bc : Bytes) (k : Nat) (flips : List BeatFlip) : List CellRegs :=
  let n := if tok.kind = .initial then 4 else chunkBytes tok.fmt
  (List.range 64).map fun c =>
    let m := nth false masks c
    let w := if m then List.replicate n 0#8 else slice tok.data.bytes (c * n) n
    let b := if m then List.replicate bc.length 0#8 else bc
    { weight := flipReg flips k (.weightLatch (Fin.ofNat 64 c)) (protect w)
      bcast := if tok.kind = .initial then (nth {} x.cells c).bcast else flipReg flips k (.broadcastLatch (Fin.ofNat 64 c)) (protect b)
      mask := m }

/-- The latches of a row whose parity fails. -/
def latchFaults (tok : StagTok) (l : List CellRegs) : List RegName :=
  l.zipIdx.flatMap fun x =>
    (if x.1.weight.good then [] else [.weightLatch (Fin.ofNat 64 x.2)])
      ++ if tok.kind = .initial ∨ x.1.bcast.good then [] else [.broadcastLatch (Fin.ofNat 64 x.2)]

/-- What a cell writes: its new value, residue, and whether its check passes (R53, R57, R72). -/
def cellWrite (tok : StagTok) (old : Option (BitVec 32 × Nat)) (l : CellRegs) (xw xa : Nat) (flip : BitVec 32) : BitVec 32 × Nat × Bool :=
  if tok.kind = .initial then
    let v := BitVec.ofNat 32 (leVal (Prot.bytes l.weight))
    (v, if tok.fmt.isInt then res3 v.toInt else floatResidue v, true)
  else
    let dead := l.mask ∨ tok.live = 0
    cellAccumulate tok.fmt old (liveWord tok.fmt tok.live l.weight.bytes) (liveWord tok.fmt tok.live l.bcast.bytes)
      (if dead then 127 else xw) (if dead then 127 else xa) flip

/-- What the 64 cells of a row write for a token; without an old value the entry opens (R53, R57). -/
def rowCells (tok : StagTok) (old : Option (List (BitVec 32 × Nat))) (l : List CellRegs) (xa k : Nat) (flips : List BeatFlip) :
    List (BitVec 32 × Nat × Bool) :=
  (List.range 64).map fun c =>
    cellWrite tok (old.map fun o => nth (0#32, 0) o c) (nth {} l c) (nth 127 (tok.scales.bytes.map BitVec.toNat) c) xa
      (adderFlip flips k c)

/-- One beat of row `k` of the chain whose first row is `base`, with the token that reaches it (R53 to R61, R72 to R74). -/
def rowBeat (s : State) (base k : Nat) (t : Option StagTok) (flips : List BeatFlip) : RowBeat :=
  let row := base + k
  let x := s.row row
  match t with
  | none => { regs := { x with tok := none } }
  | some t0 =>
    let tok := { t0 with data := flipReg flips k .stagger t0.data, scales := flipReg flips k .staggerScales t0.scales }
    let stag := (if tok.data.good then [] else [RegName.stagger]) ++ if tok.scales.good then [] else [.staggerScales]
    let who (n : RegName) : Ident := .register (row / 16) (row % 16) n
    match tok.kind, entryFor s row tok.ref with
    | .load, _ => { regs := { x with tok := some tok }, faults := stag.map who }
    | _, none => { regs := { x with tok := some tok }, faults := stag.map who }
    | _, some i =>
      let masks := maskBits s row tok.ref
      let bc := broadcast x tok k flips
      let l := latchesFor x tok masks bc.1 k flips
      let e := s.accE (accKey row i)
      let cells := rowCells tok (if e.state = .free then none else some e.cells) l bc.2.1 k flips
      { regs := { x with tok := some tok, cells := l }
        entry := some (i, { state := if tok.last then .closed else .accumulating, owner := some tok.ref, float := !tok.fmt.isInt
                            cells := cells.map fun c => (c.1, c.2.1), closedAt := (s.unit (row / 16)).beat, masked := masks })
        faults := (stag ++ bc.2.2 ++ latchFaults tok l).map who
        checks := (List.range 64).filter fun c => !(nth (0#32, 0, true) cells c).2.2
        word := placeRow (row % 16) (xorAll (cells.map fun c => value34 (c.1, c.2.1))) }

/-- Puts a row's part of a beat into the state. -/
def rowWrite (row : Nat) (x : RowBeat) (s : State) : State :=
  let s1 := s.setRow row x.regs
  match x.entry with
  | some e => s1.setAccE (accKey row e.1) e.2
  | none => s1

/-! ## The drain port (R55) -/

/-- The entry that a row's drain port serves next, and the beat in which its next quarter leaves: an entry begun, else the one
that closed first, three beats after it closed. -/
def rowDue (s : State) (row : Nat) : Option (Nat × Nat) :=
  let next := sget dflt0 (s.unit (row / 16)).portNext (row % 16)
  match (List.range 32).find? fun i => decide ((s.accE (accKey row i)).state = .draining) with
  | some i => some (i, next)
  | none =>
    let l := (List.range 32).filter fun i => decide ((s.accE (accKey row i)).state = .closed)
    match l.find? fun i => l.all fun j => decide ((s.accE (accKey row i)).closedAt ≤ (s.accE (accKey row j)).closedAt) with
    | some i => some (i, max ((s.accE (accKey row i)).closedAt + 3) next)
    | none => none

/-! ## One beat of a block or chain -/

/-- Whether the device lets its blocks run: the repair map has been applied and the block work begun (R71). -/
def working (s : State) : Bool := decide (s.sys.phase = .ready) || decide (s.sys.phase = .enteringStandby)

/-- Whether a block or chain may take part in a beat at all. -/
def mayBeat (s : State) (us : List Nat) : Bool :=
  working s && !s.drained && us.all fun u => !(s.unit u).resetting && decide ((s.unit u).status = .inService) && mayAccept s u

/-- The tokens of the rows after the beat: the new one in row 0, each other row's from the row before (R59, R60, R64). -/
def shifted (s : State) (base n : Nat) (t : Option StagTok) : List (Option StagTok) :=
  t :: (List.range (n - 1)).map fun k => (s.row (base + k)).tok

/-- Whether some row must open an entry and has none (R56). -/
def lacksEntry (s : State) (base : Nat) (toks : List (Option StagTok)) : Bool :=
  toks.zipIdx.any fun x => match x.1 with
    | some t => decide (t.kind ≠ .load) && (entryFor s (base + x.2) t.ref).isNone
    | none => false

/-- Whether a drain port has yet to serve a quarter that was due by now. -/
def portBehind (s : State) (base n beat : Nat) : Bool :=
  (List.range n).any fun k => match rowDue s (base + k) with
    | some x => decide (x.2 ≤ beat)
    | none => false

/-- Raises the faults of one beat on a block: one restart and one occurrence, every fault raised, the lowest number first
(R75, R429). -/
def cellFaults (b : Nat) (l : List (Nat × Ident)) (s : State) : State :=
  match l.mergeSort fun x y => decide (x.1 ≤ y.1) with
  | [] => s
  | x :: t => forEach t (fun y s => raise y.1 y.2 s) (unitFault x.1 b x.2 s)

/-- The stationary registers of all rows take their operands when the last one of a load wave enters row 0 (R66). -/
def latchLoads (base n : Nat) (t : Option StagTok) (s : State) : State :=
  if (t.map fun x => decide (x.kind = .load) && x.last) = some true then
    forEach (List.range n) (fun k s =>
      let x := s.row (base + k)
      match x.tok with
      | some y => if y.kind = .load then s.setRow (base + k) { x with stat := y.data, statScale := y.scales } else s
      | none => s) s
  else s

/-- The residue checks of a block that complete in its current beat and fail. -/
def dueChecks (s : State) (b : Nat) : List (Nat × Ident) :=
  ((s.unit b).checks.filter fun c => decide (c.1 ≤ (s.unit b).beat)).map fun c => (Src.CELL_RESIDUE, Ident.cell b c.2.1 c.2.2)

/-- One beat of a chain of blocks: tokens move one row, each row adds its part, words are folded, faults of this beat and of
residue checks that complete in it are raised (R53 to R61, R72 to R75). -/
def chainBeat (us : List Nat) (toks : List (Option StagTok)) (flips : List BeatFlip) (s : State) : State :=
  let base := 16 * (us.headD 0)
  let outs := toks.zipIdx.map fun x => (x.2, rowBeat s base x.2 x.1 flips)
  let due := us.map fun u => (u, dueChecks s u)
  let s1 := latchLoads base toks.length (toks.headD none) (forEach outs (fun x s => rowWrite (base + x.1) x.2 s) s)
  let s2 := forEach us (fun u s =>
    let mine := outs.filter fun x => (base + x.1) / 16 = u
    let n := (s.unit u).beat
    let failed := mine.flatMap fun x => x.2.checks.map fun c => (n + 2, (base + x.1) % 16, c)
    foldBeat u (xorAll (mine.map fun x => x.2.word))
      (s.setUnit u { s.unit u with checks := ((s.unit u).checks.filter fun c => !decide (c.1 ≤ n)) ++ failed })) s1
  forEach us (fun u s =>
    let parity := (outs.filter fun x => (base + x.1) / 16 = u).flatMap fun x => x.2.faults.map fun w => (Src.OPERAND_PARITY, w)
    cellFaults u (((due.find? fun d => d.1 = u).map Prod.snd).getD [] ++ parity) s) s2

/-- A tile without any token: in every row an entry opens and closes holding zero (R57). -/
def zeroTile (us : List Nat) (r : Run) (e : LogEntry) (s : State) : State :=
  let base := 16 * us.headD 0
  let rows := (List.range (16 * us.length)).map (base + ·)
  let refs := (List.range r.groups).map e.tile
  let room := rows.all fun row => decide (refs.length ≤ ((List.range 32).filter fun i => decide ((s.accE (accKey row i)).state = .free)).length)
  if !room then s
  else
    let open1 (t : TileRef) (row : Nat) (s : State) : State := match entryFor s row t with
      | some i => s.setAccE (accKey row i) { state := .closed, owner := some t, float := !r.fmt.isInt, cells := List.replicate 64 (0#32, 0)
                                             closedAt := (s.unit (row / 16)).beat - 1, masked := maskBits s row t }
      | none => s
    tokenTaken (us.headD 0) r e false (forEach refs (fun t s => forEach rows (open1 t) s) s)

/-- Whether a chain has work in it that further beats bring to its end. -/
def unfinished (s : State) (us : List Nat) : Bool := us.any fun u => !finishedAll s u

/-- Whether a chain can run its next beat with a token in row 0, or with none (R56). -/
def canAdvance (s : State) (us : List Nat) (tok : Option StagTok) : Bool :=
  let base := 16 * us.headD 0
  !lacksEntry s base (shifted s base (16 * us.length) tok) && !portBehind s base (16 * us.length) (s.unit (us.headD 0)).beat

/-- A beat of a chain with a token in row 0, or with none. -/
def advance (us : List Nat) (tok : Option StagTok) (flips : List BeatFlip) (s : State) : State :=
  chainBeat us (shifted s (16 * us.headD 0) (16 * us.length) tok) flips s

/-- One beat of the chain that begins with block `b`, if it has one to run. -/
def accumulateBeat (b : Nat) (flips : List BeatFlip) (s : State) : State :=
  match (s.unit b).log.head?.bind fun e => stationOf s e.ref.g.val e.ref.station with
  | none => s
  | some st =>
    let us := chainOf st b
    if us.headD b ≠ b ∨ !mayBeat s us then s
    else
      let s1 := releaseActs b (releaseWeights b s)
      match unfed? s1 b with
      | none => if unfinished s1 us && canAdvance s1 us none then advance us none flips s1 else s1
      | some e => match runOf s1 e with
        | none => s1
        | some r =>
          if !operandsIn s1 b r e then s1
          else if r.count = 0 then zeroTile us r e s1
          else match nextToken s1 b r e with
            | none => s1
            | some tok =>
              if canAdvance s1 us (some tok) then
                advance us (some tok) flips (tokenTaken b r e (decide (tok.kind = .weights)) s1)
              else s1

/-- A beat of a block that computes the golden slice (R411 to R413): its own checks report as in service. -/
def sliceBeat (b : Nat) (flips : List BeatFlip) (s : State) : State :=
  let zero (n : Nat) : Prot := protect (List.replicate n 0#8)
  let faults := flips.filterMap fun x => match x with
    | .adder r c v =>
      if r.val < 16 ∧ !(intAccumulate .int8 none 0#64 0#64 v).2.2 then some (Src.CELL_RESIDUE, Ident.cell b r.val c.val) else none
    | .reg r n _ _ =>
      if r.val < 16 ∧ !(flipReg flips r.val n (zero 512)).good then some (Src.OPERAND_PARITY, Ident.register b r.val n) else none
  cellFaults b faults.eraseDups s

/-- ACCUMULATE (R53): one beat of a block, of the whole chain when it is the first of a fused one. -/
def execAccumulate (b : Fin 32) (flips : List BeatFlip) (s : State) : Host.Outcome State Fault Refusal :=
  .next (if (s.unit b.val).status = .slice ∧ working s ∧ !s.drained ∧ !(s.unit b.val).resetting then sliceBeat b.val flips s
    else accumulateBeat b.val flips s)

/-! ## What leaves a row (R55, R58, R95, R98) -/

/-- A word of a per-channel table of the drain: from the resident copy under REUSE 2, else from the package. -/
def drainWord (s : State) (b : Nat) (p : Package) (st : Station) (r : MatmulRec) (part ch : Nat) : Nat :=
  if st.tiling.reuse = 2 then leVal (readRows s (residentRows p st b) (partOffset p st r part + 4 * ch) 4)
  else field p.constants ((if part = 3 then r.mOff else r.fOff) + 4 * ch) 4

/-- The drain parameters of an output channel (R95, R558). -/
def drainParams (s : State) (b : Nat) (p : Package) (st : Station) (r : MatmulRec) (ch : Nat) : DrainParams :=
  { m := if r.mOff = 0xFFFFFFFF then 0 else signed 32 (drainWord s b p st r 3 ch)
    shift := r.shift, zeroPoint := r.zeroPoint.toInt
    f := if r.fOff = 0xFFFFFFFF then 0x3F800000#32 else BitVec.ofNat 32 (drainWord s b p st r 4 ch)
    lo := r.lo, hi := r.hi }

/-- The codes and scale bytes of a run of output values (R97, R98). -/
def encodeRun (f : Fmt) (l : List Num) : List Nat × List Nat :=
  if f.scaled then
    let e := (runsOf 32 l.length l).map (encodeBlock f)
    (e.flatMap fun x => x.2, e.map fun x => x.1)
  else (l.map (toElem f), [])

/-- The codes and scale bytes of an entry's unmasked cells. A partial tile keeps the accumulation format (R113). -/
def drainRow (s : State) (p : Package) (st : Station) (r : MatmulRec) (b : Nat) (t : TileRef) (e : AccEntry) : List Nat × List Nat :=
  let ch0 := (p.tileBox p.depth st t.index).1.1 + shareChannel st b
  let kept := (List.range 64).filter fun i => !(nth false e.masked i)
  if 1 < st.split then (kept.map fun i => (nth (0#32, 0) e.cells i).1.toNat, [])
  else encodeRun (fmtOr st.fmtOut) (kept.map fun i =>
    drainValue (!e.float) (fmtOr st.fmtOut) (drainParams s b p st r (ch0 + i)) (nth (0#32, 0) e.cells i).1)

/-- The row of the output buffer that an entry becomes; its last value left in beat `due` (R369). -/
def outRow (s : State) (b row due : Nat) (e : AccEntry) : List OutRow :=
  match e.owner with
  | none => []
  | some t => match matmulOf s t with
    | some x => let d := drainRow s x.1 x.2.1 x.2.2 b t e; [⟨t, row, due, d.1, d.2⟩]
    | none => []

/-- The head of the chain that a block belongs to, with the chain. -/
def chainAt (s : State) (b : Nat) : List Nat :=
  match (s.unit b).log.head?.bind fun e => stationOf s e.ref.g.val e.ref.station with
  | some st => chainOf st (if st.shape = 4 then b - b % 8 else b)
  | none => [b]

/-- Whether the datapath of a block's chain waits for an entry (R56). -/
def awaitsEntry (s : State) (b : Nat) : Bool :=
  let us := chainAt s b
  let h := us.headD b
  let tok := (unfed? s h).bind fun e => (runOf s e).bind fun r =>
    if operandsIn s h r e then
      (if r.count = 0 then some { kind := .initial, ref := e.ref, step := 0, last := true, fmt := r.fmt, data := [], scales := [] }
       else nextToken s h r e)
    else none
  lacksEntry s (16 * h) (shifted s (16 * h) (16 * us.length) tok)

/-- A quarter of the earliest closed entry of a row leaves through its drain port: 16 values and the entry number; after the
fourth, the row is in the output buffer and the entry is free (R55, R371). An entry whose row has a failing residue check
does not leave (R75). -/
def drainQuarter (b row entry : Nat) (s : State) : State :=
  let k := 16 * b + row
  let x := s.unit b
  match rowDue s k with
  | none => s
  | some (i, due) =>
    if i ≠ entry ∨ x.resetting ∨ s.drained ∨ !(decide (due ≤ x.beat) || awaitsEntry s b) then s
    else match x.checks.filter fun c => decide (c.2.1 = row) with
      | c :: l => cellFaults b ((c :: l).map fun c => (Src.CELL_RESIDUE, Ident.cell b c.2.1 c.2.2))
          (s.setUnit b { x with checks := x.checks.filter fun c => !decide (c.2.1 = row) })
      | [] =>
        let e := s.accE (accKey k i)
        let w := xorAll (((e.cells.drop (16 * e.quarter)).take 16).map value34) ^^^ BitVec.ofNat 64 i
        let s1 := s.setUnit b { x with port := x.port ++ [(due, placeRow row w)], portNext := sset dflt0 x.portNext row (due + 1) }
        if e.quarter < 3 then s1.setAccE (accKey k i) { e with state := .draining, quarter := e.quarter + 1 }
        else
          let s2 := s1.setAccE (accKey k i) {}
          closeEarly b (s2.setUnit b { s2.unit b with outBuf := (s2.unit b).outBuf ++ outRow s b row due e })

/-- ACCUMULATOR_DRAIN (R55, R95). -/
def execAccumulatorDrain (b : Fin 32) (row : Fin 16) (entry : Fin 32) (s : State) : Host.Outcome State Fault Refusal :=
  .next (drainQuarter b.val row.val entry.val s)

end Sys2Proof.Machine
end

