-- ==== Sys2Proof/Machine/Vector.lean ====
section
/-! DEFINITION. Vector blocks: their lanes, and the tiles they compute from their operand buffers (04 R94 to R107, 07 R184 to
R196, 14 R371). -/

namespace Sys2Proof.Machine

open Sys2Proof

/-! ## Operand buffers of a vector block -/

/-- The code at a bit offset. -/
def codeAt (f : Fmt) (b : Bytes) (bits : Nat) : Nat := leVal (slice b (bits / 8) 5) / 2 ^ (bits % 8) % 2 ^ f.width

/-- The buffer of a tile. -/
def bufOf (s : State) (u : Nat) (t : TileRef) : OpBuf := ((s.unit u).opBuf.find? fun o => decide (o.ref = t)).getD { ref := t }

/-- The code and scale byte of element (x0, x1, x2) of input `n` in the source tiles of a buffer. -/
def srcElem (o : OpBuf) (n x0 x1 x2 : Nat) : Option (Nat × Nat) :=
  o.srcs.findSome? fun t =>
    if t.input = n ∧ t.o.1 ≤ x0 ∧ x0 < t.o.1 + t.e.1 ∧ t.o.2.1 ≤ x1 ∧ x1 < t.o.2.1 + t.e.2.1 ∧ t.o.2.2 ≤ x2 ∧ x2 < t.o.2.2 + t.e.2.2 then
      let row := (x2 - t.o.2.2) * t.e.2.1 + (x1 - t.o.2.1)
      (t.codes[row * t.e.1 + (x0 - t.o.1)]?).map fun c => (c, nth 127 t.scales (row * ceilDiv t.e.1 32 + (x0 - t.o.1) / 32))
    else none

/-- The code and scale byte of element `j` of position `q` of an expanded tile of `rows` positions of `len` elements (R181,
layout 1). -/
def expandedElem (f : Fmt) (b : Bytes) (rows len q j : Nat) : Nat × Nat :=
  let w := ceilDiv (elemBytes f len) 32 * 32
  (codeAt f b (8 * q * w + f.width * j), if f.scaled then field b (rows * w + q * ceilDiv len 32 + j / 32) 1 else 127)

/-- Whether a station's primary input is expanded, and its expand record. -/
def expandOf (p : Package) (st : Station) : Option ExpandRec :=
  (p.producer? st 0).bind fun q => match q.params with
    | .expand r => some r
    | _ => none

/-- Elements of a position in a unit's share of an expanded tile, and the positions. -/
def expandedSize (p : Package) (st : Station) (t : TileRef) (r : ExpandRec) : Nat × Nat :=
  match st.params with
  | .matmul k => let c := shareOf st k.k t.index; (1, c.2 - c.1)
  | _ => ((boxOf p st t.index).2.2.1, r.ke)

/-- The elements of an input of a tile in canonical order, with their scale bytes: of the expanded tile, or of the source
tiles as they arrived (R186). -/
def inputElems (s : State) (u n : Nat) : List (Nat × Nat) :=
  match (s.unit u).log.head? with
  | none => []
  | some e => match (s.slot e.ref.g.val).pkg, stationOf s e.ref.g.val e.ref.station with
    | some p, some st =>
      let o := bufOf s u e.ref
      match expandOf p st with
      | some r =>
        let z := expandedSize p st e.ref r
        if o.expanded ∧ n = 0 then
          (List.range (z.1 * z.2)).map fun i => expandedElem (fmtOr st.fmtIn) o.acts z.1 z.2 (i / max 1 z.2) (i % max 1 z.2)
        else []
      | none => (o.srcs.filter fun x => decide (x.input = n)).flatMap fun x =>
          (List.range x.codes.length).map fun i =>
            (nth 0 x.codes i, nth 127 x.scales (i / max 1 x.e.1 * ceilDiv x.e.1 32 + i % max 1 x.e.1 / 32))
    | _, _ => []

/-- The format in which a unit's operands arrive. -/
def inputFmt (s : State) (u : Nat) : Fmt :=
  match (s.unit u).log.head? with
  | none => .fp32
  | some e => ((stationOf s e.ref.g.val e.ref.station).map fun st => fmtOr st.fmtIn).getD .fp32

/-! ## Lanes (R100, R101, R371) -/

/-- The values of an operand in the 512 lanes; elements of an input are widened as they are loaded (R94, R99). -/
def laneOperand (s : State) (v : Nat) : LaneSrc → List (BitVec 32)
  | .given l => l
  | .lanes => (s.laneV v).take 512
  | .operand n k => (((inputElems s (32 + v) n.val).drop (512 * k)).take 512).map fun x =>
      laneLoad (inputFmt s (32 + v)) (BitVec.ofNat 32 x.1) x.2

/-- The results of the lanes; a store leaves the codes, and after them the scale bytes of the 16 blocks of a block-scaled
format (R97, R98). -/
def laneResults (op : VOp) (int : Bool) (fmt : Fmt) (loaded : Bool) (a b c : List (BitVec 32)) : List (BitVec 32) × List (BitVec 32) :=
  let full := (List.range 512).map fun i => nth 0#32 a i
  match op with
  | .load => (if loaded then full else full.map fun x => laneLoad fmt x 127, [])
  | .store =>
    let l := (runsOf 32 512 full).map (laneStore int fmt)
    (l.flatMap Prod.fst, (l.flatMap Prod.snd).map (BitVec.ofNat 32))
  | _ => ((List.range 512).map fun i =>
      if int then intLane op (nth 0#32 a i) (nth 0#32 b i) (nth 0#32 c i) else fpLane op (nth 0#32 a i) (nth 0#32 b i) (nth 0#32 c i), [])

/-- Bits that a defect flips in the lanes' results. -/
def flipLanes (flips : List (Nat × BitVec 32)) (l : List (BitVec 32)) : List (BitVec 32) :=
  l.zipIdx.map fun x => flips.foldl (fun (v : BitVec 32) (p : Nat × BitVec 32) => if p.1 = x.2 then v ^^^ p.2 else v) x.1

/-- The input word of a vector block's beat (R371). -/
def laneWord (l : List (BitVec 32)) : BitVec 64 :=
  xorAll ((List.range 16).map fun k =>
    let v := ((l.drop (32 * k)).take 32).foldl (· ^^^ ·) 0#32
    placeRow k (value34 (v, v.toNat % 3)))

/-- Whether an operand comes from an input of the tile. -/
def fromInput : LaneSrc → Bool
  | .operand _ _ => true
  | _ => false

/-- VECTOR_LANE_OPERATION (R100). -/
def execVectorLaneOperation (v : Fin 8) (op : VOp) (int : Bool) (fmt : Fmt) (a b c : LaneSrc)
    (flips : List (Nat × BitVec 32)) (s : State) : Host.Outcome State Fault Refusal :=
  let u := 32 + v.val
  .next (if !working s ∨ (s.unit u).resetting ∨ (s.unit u).status ≠ .inService ∨ s.drained ∨ !mayAccept s u then s
    else
      let x := laneResults op int fmt (fromInput a) (laneOperand s v.val a) (laneOperand s v.val b) (laneOperand s v.val c)
      let l := flipLanes flips x.1
      foldBeat u (laneWord l) (s.setLaneV v.val (l ++ x.2)))

/-! ## Tiles of a vector block (R102 to R105, R184, R187 to R196) -/

/-- The number of a code and scale. -/
def numAt (f : Fmt) (x : Nat × Nat) : Num := decodeScaled f x.1 x.2

/-- FP32 of a value (R94: the load stage widens). A scaled element beyond FP32's range gives an infinity, by the rounding of
R101 (DESIGN CHOICE, notes/assumptions/131.md). -/
def loadFp (f : Fmt) (x : Nat × Nat) : BitVec 32 := toFp32 (numAt f x)

/-- Collects all values, or none when one is missing. -/
def allOf {α : Type} : List (Option α) → Option (List α)
  | [] => some []
  | none :: _ => none
  | some a :: t => (allOf t).map (a :: ·)

/-- Fills values the spec leaves open with free bytes. -/
def fillFree (n : Nat) (l : List (Option Nat)) : List Nat :=
  l.zipIdx.map fun x => x.1.getD (Config.freeByte (n + x.2)).toNat

/-- FP32 sum in order. -/
def fpSum (l : List (BitVec 32)) : BitVec 32 := match l with
  | [] => 0#32
  | a :: t => t.foldl (fun x y => fpLane .add x y 0#32) a

/-- The average of taps in order, with table entry `n` - 1 (R189, R195). -/
def averageOf (f : Fmt) (l : List (Nat × Nat)) (n : Nat) (table : List (BitVec 32)) : Num :=
  let sum : BitVec 32 := if f.isInt then toFp32 (numOfInt (l.foldl (fun (a : BitVec 32) x => a + BitVec.ofInt 32 (signed f.width x.1)) 0#32).toInt)
    else fpSum (l.map (loadFp f))
  ofFp32 (fpLane .mul sum (nth 0#32 table (n - 1)) 0#32)

/-- The maximum of taps in order (R188). -/
def maxOf (f : Fmt) : List (Nat × Nat) → Num
  | [] => numOfInt 0
  | x :: t =>
    if f.isInt then numOfInt (t.foldl (fun (a : Int) y => max a (signed f.width y.1)) (signed f.width x.1))
    else ofFp32 (t.foldl (fun a y => fpMinMax false a (loadFp f y)) (loadFp f x))

/-- One output element of a pool tile, position `q` of it, from its expanded tile (R188 to R190). -/
def poolElem (s : State) (u : Nat) (p : Package) (st : Station) (t : TileRef) (r : PoolRec) (q o1 o2 c : Nat) : Num :=
  match expandOf p st with
  | none => numOfInt 0
  | some k =>
    let a := match (p.producer? st 0).bind fun x => p.producer? x 0 with
      | some z => actOf s t.g.val z.number t.frame
      | none => (0, 0, 0)
    let z := expandedSize p st t k
    let isIn (n : Nat) : Bool :=
      let y : Int := (o2 * k.sh + n / max 1 k.kw * k.dh : Nat) - (k.pt : Int)
      let x : Int := (o1 * k.sw + n % max 1 k.kw * k.dw : Nat) - (k.pl : Int)
      decide (0 ≤ y ∧ y < a.2.2 ∧ 0 ≤ x ∧ x < a.2.1)
    let used := (List.range (k.kh * k.kw)).filter fun n => r.includePad || isIn n
    let l := used.map fun n => expandedElem (fmtOr st.fmtIn) (bufOf s u t).acts z.1 z.2 q (n * k.ct + c)
    if l = [] then numOfInt 0
    else if r.average then averageOf (fmtOr st.fmtIn) l (if r.includePad then r.nTaps else l.length) r.table
    else maxOf (fmtOr st.fmtIn) l

/-- A bilinear weight rounded to FP32 (R194). -/
def bilinearFrac (i o k : Nat) : BitVec 32 :=
  let n := (2 * k + 1) * i
  if n < o then 0#32
  else
    let m := (n - o) % (2 * max 1 o)
    -- m / 2o with enough bits below the FP32 mantissa, and a sticky bit for the rest
    let q := m * 2 ^ 60 / (2 * max 1 o)
    toFp32 (.fin false (2 * q + (if m * 2 ^ 60 % (2 * max 1 o) = 0 then 0 else 1)) (-61))

/-- v0 + f (v1 - v0): one subtract and one fused multiply-add (R194). -/
def lerp (f v0 v1 : BitVec 32) : BitVec 32 := fpLane .fma f (fpLane .sub v1 v0 0#32) v0

/-- One output element of a resample tile (R193 to R195). -/
def resampleElem (s : State) (u : Nat) (p : Package) (st : Station) (t : TileRef) (r : ResampleRec) (o1 o2 c : Nat) : Option Num :=
  match p.producer? st 0 with
  | none => none
  | some q =>
    let i := p.out q
    let d := p.out st
    let a := actOf s t.g.val q.number t.frame
    let fi := fmtOr st.fmtIn
    let xs := resampleRange r.mode r.fx d.dim1 i.dim1 a.2.1 o1
    let ys := resampleRange r.mode r.fy d.dim2 i.dim2 a.2.2 o2
    let at' (x y : Nat) := srcElem (bufOf s u t) 0 c x y
    match r.mode with
    | 0 => (at' xs.1 ys.1).map (numAt fi)
    | 1 => match at' xs.1 ys.1, at' xs.2 ys.1, at' xs.1 ys.2, at' xs.2 ys.2 with
      | some v00, some v01, some v10, some v11 =>
        let fx := bilinearFrac i.dim1 d.dim1 o1
        some (ofFp32 (lerp (bilinearFrac i.dim2 d.dim2 o2) (lerp fx (loadFp fi v00) (loadFp fi v01)) (lerp fx (loadFp fi v10) (loadFp fi v11))))
      | _, _, _, _ => none
    | _ =>
      let taps := (List.range (ys.2 + 1 - ys.1)).flatMap fun y => (List.range (xs.2 + 1 - xs.1)).map fun x => at' (xs.1 + x) (ys.1 + y)
      (allOf taps).map fun l => averageOf fi l l.length r.table

/-- Channels of a vector tile from its first one on, as its weights are stored (R558). -/
def vecChannels (p : Package) (st : Station) (t : TileRef) : Nat :=
  min 4096 (ceilDiv (p.out st).dim0 512 * 512 - (boxOf p st t.index).1.1)

/-- The weight of reduction element `j` of a vector tile's share for channel `c` of the tile, with its scale byte. -/
def vecWeight (s : State) (u : Nat) (p : Package) (st : Station) (r : MatmulRec) (t : TileRef) (j c : Nat) : Nat × Nat :=
  let f := fmtOr st.fmtIn
  let lo := (shareOf st r.k t.index).1
  if st.tiling.reuse = 2 then
    let cr := ceilDiv (p.out st).dim0 512 * 512
    let rows := residentRows p st u
    let ch := (boxOf p st t.index).1.1 + c
    let bits := ((lo + j) * cr + ch) * f.width
    (leVal (readRows s rows (partOffset p st r 0 + bits / 8) 5) / 2 ^ (bits % 8) % 2 ^ f.width,
     if f.scaled then leVal (readRows s rows (partOffset p st r 1 + (lo + j) / 32 * cr + ch) 1) else 127)
  else
    let w := ((bufOf s u t).weights).getD ([], [], [])
    let n := vecChannels p st t
    (codeAt f w.1 ((j * n + c) * f.width), if f.scaled then field w.2.1 (((lo + j) / 32 - lo / 32) * n + c) 1 else 127)

/-- The initial value of channel `c` of a vector tile. -/
def vecInitial (s : State) (u : Nat) (p : Package) (st : Station) (r : MatmulRec) (t : TileRef) (c : Nat) : BitVec 32 :=
  if r.initOff = 0xFFFFFFFF then 0#32
  else if st.tiling.reuse = 2 then
    BitVec.ofNat 32 (leVal (readRows s (residentRows p st u) (partOffset p st r 2 + 4 * ((boxOf p st t.index).1.1 + c)) 4))
  else BitVec.ofNat 32 (field (((bufOf s u t).weights.map fun w => w.2.2).getD []) (4 * c) 4)

/-- Reduction element `j` of a vector tile's activation operand. -/
def vecActivation (s : State) (u : Nat) (p : Package) (st : Station) (r : MatmulRec) (t : TileRef) (j : Nat) : Nat × Nat :=
  let f := fmtOr st.fmtIn
  let c := shareOf st r.k t.index
  let o := (boxOf p st t.index).1
  if st.tiling.reuse = 3 then
    let src := p.input st
    let rows := frameRows p st u t.frame
    let w := positionBytes p st
    let pos := o.2.2 * src.dim1 + o.2.1
    let bits := (c.1 + j) * f.width
    (leVal (readRows s rows (pos * w + bits / 8) 5) / 2 ^ (bits % 8) % 2 ^ f.width,
     if f.scaled then leVal (readRows s rows (src.dim1 * src.dim2 * w + pos * ceilDiv src.dim0 32 + (c.1 + j) / 32) 1) else 127)
  else if (expandOf p st).isSome then expandedElem f (bufOf s u t).acts 1 (c.2 - c.1) 0 j
  else (srcElem (bufOf s u t) 0 (c.1 + j) o.2.1 o.2.2).getD (0, 127)

/-- One output element of a vector-shape matmul tile: one multiply-add a step from the initial value, both operands zero beyond
the actual length, then the drain sequence (R93, R95, R102, R184). -/
def vecMatmulElem (s : State) (u : Nat) (p : Package) (st : Station) (t : TileRef) (r : MatmulRec) (c : Nat) : Num :=
  let fi := fmtOr st.fmtIn
  let share := shareOf st r.k t.index
  let init := vecInitial s u p st r t c
  let ch := (boxOf p st t.index).1.1 + c
  let n := if redAct s t.g.val p st t.frame = 0 then 0 else share.2 - share.1
  let terms := (List.range n).map fun j =>
    if elemLive s t.g.val p st t.frame (share.1 + j) then (vecWeight s u p st r t j c, vecActivation s u p st r t j) else ((0, 127), (0, 127))
  if fi.isInt then
    let acc := terms.foldl (fun (a : BitVec 32) x => a + BitVec.ofInt 32 (signed fi.width x.1.1 * signed fi.width x.2.1)) init
    if 1 < st.split then numOfInt acc.toInt else drainValue true (fmtOr st.fmtOut) (drainParams s u p st r ch) acc
  else
    let acc := terms.foldl (fun (a : BitVec 32) x => fpLane .fma (loadFp fi x.1) (loadFp fi x.2) a) init
    if 1 < st.split then ofFp32 acc else drainValue false (fmtOr st.fmtOut) (drainParams s u p st r ch) acc

/-- One output element of a combining vector station: the partials in the order in which they arrived (R104). -/
def combineElem (s : State) (u : Nat) (q : Station) (t : TileRef) (x0 x1 x2 : Nat) : Option Num :=
  let l := (bufOf s u t).srcs.map fun x => srcElem { ref := t, srcs := [x] } 0 x0 x1 x2
  (allOf l).map fun v =>
    if (fmtOr q.fmtIn).isInt then numOfInt (v.foldl (fun (a : BitVec 32) x => a + BitVec.ofNat 32 x.1) 0#32).toInt
    else ofFp32 (fpSum (v.map fun x => BitVec.ofNat 32 x.1))

/-- One output element of a tile of a vector block, position `q` of the tile; none where the spec gives no value (a station's
own program). -/
def vecElem (s : State) (u : Nat) (p : Package) (st : Station) (t : TileRef) (q c o1 o2 : Nat) : Option Num :=
  match st.params with
  | .matmul r => some (vecMatmulElem s u p st t r (c - (boxOf p st t.index).1.1))
  | .pool r => some (poolElem s u p st t r q o1 o2 c)
  | .resample r => resampleElem s u p st t r o1 o2 c
  | .vector prog =>
    if prog ≠ [] then none
    else match p.producer? st 0 with
      | some k => if combines p st then combineElem s u k t c o1 o2 else (srcElem (bufOf s u t) 0 c o1 o2).map (numAt (fmtOr st.fmtIn))
      | none => none
  | _ => none

/-- The contents of a tile of a vector block, converted by the store stage (R97, R98, R191); the free-value
counter supplies the elements for which the spec states no value. -/
def vecTile (s : State) (u : Nat) (p : Package) (st : Station) (t : TileRef) (ext : Nat × Nat × Nat) : List Nat × List Nat :=
  let o := (boxOf p st t.index).1
  let rows := (List.range (ext.2.2 * ext.2.1)).map fun r =>
    let nums := (List.range ext.1).map fun c => vecElem s u p st t r (o.1 + c) (o.2.1 + r % max 1 ext.2.1) (o.2.2 + r / max 1 ext.2.1)
    match allOf nums with
    | some l => encodeRun (tileFmt st) l
    | none => (fillFree (s.free + r * ext.1) (nums.map fun _ => none), (List.range (ceilDiv ext.1 32)).map fun _ => 127)
  (rows.flatMap fun x => x.1, rows.flatMap fun x => x.2)

end Sys2Proof.Machine
end

