-- ==== Sys2Proof/Machine/Fabric.lean ====
section
/-! DEFINITION. Work counters, the sequencer, what Mules move and expand, verification tiles, completion of tiles
(05 R117 to R135, 06 R150 to R170, 07 R171 to R201, 13 R346, R359, 14 R375). -/

namespace Sys2Proof.Machine

open Sys2Proof

/-! ## Completion of a station's frame (R133, R359, R300) -/

/-- A task monitor's completed frame: LAST_US, MAX_US and the ALIVE_MIN check (R359, R361). -/
def completeTask (m f start : Nat) (s : State) : State :=
  let us := (s.t3 - start) / 1000
  let s1 := (s.setR (Reg.MON_LAST_US m) us).setR (Reg.MON_MAX_US m) (max us (s.r (Reg.MON_MAX_US m)))
  let x := s1.mon m
  let s2 := s1.setMon m { running := x.running.filter fun p => p.1 ≠ f, lastDone := some s.t3, since := s.t3 }
  match x.lastDone with
  | some d =>
    if s.r (Reg.MON_ALIVE_MIN m) ≠ 0 ∧ s.t3 - d < 1000 * s.r (Reg.MON_ALIVE_MIN m) then
      let g := s.r (Reg.MON_GRAPH m) - 1
      raise Src.TASK_ALIVE (.monitor m) ((forEach (taskStations s2 m) (fun st s => markStation g st f Fsw.DEADLINE s) s2).bump (Reg.MON_ALIVE_FAULTS m))
    else s2
  | none => s2

/-- Completes every task of a graph whose frame is now whole. -/
def completeTasks (g f : Nat) (s : State) : State :=
  forEach (s.slot g).monitors (fun m s =>
    match (s.mon m).running.find? fun p => p.1 = f with
    | some p =>
      if taskDone s m f then if taskAbandoned s m f then endTask m f s else completeTask m f p.2 s else s
    | none => s) s

/-- Whether a taker of an output buffer, a source station's frame, still holds it (R300). -/
def takerHolds (s : State) (t : Nat × Nat × Nat) : Bool :=
  match (s.slot t.1).pkg.bind fun p => (p.st? t.2.1).map fun q => p.consumers q with
  | some l => l.any fun c => match stFrame? s t.1 c t.2.2 with
    | some y => y.slotOpen
    | none => false
  | none => false

/-- Whether a compositor can still select frame `no` of a context (R300, R503): an output frame in progress shows it, or
it is the newest finished frame of a context that an enabled plane shows. -/
def compositorReads (s : State) (c no : Nat) : Bool :=
  s.disp.any (fun d => d.2.active && d.2.planes.any fun p => p.enable && decide (p.source = c) && decide (p.cam.map (fun o => o.no) = some no))
    || (decide (((s.ctx c).newest.map fun o => o.no) = some no) && (List.range 16).any fun k =>
      s.on (Reg.DSP_ENABLE (k / 4)) && s.on (Reg.PLN_ENABLE k) && decide (s.r (Reg.PLN_SOURCE k) = c))

/-- Frees output buffers that nothing reads any more; a frame is forgotten once its verdicts have closed. -/
def freeOutBufs (s : State) : State :=
  { s with ctxs := s.ctxs.map fun (c : Nat × Ctx) => (c.1, { c.2 with
      bufs := (c.2.bufs.map fun o =>
        if o.isDone ∧ !(o.takers.any (takerHolds s)) ∧ !compositorReads s c.1 o.no then { o with freed := true } else o).filter
          fun o => !o.freed || !o.frozenClosed || !o.goldenClosed }) }

/-! ## Queues (R126, R127) -/

/-- How many descriptors of a queue are held: those some consumer has still to complete a reader of, or that a checkpoint log
entry names (R126, R376). -/
def queueHeld (s : State) (g : Nat) (p : Package) (qn : Nat) : Nat :=
  match p.q? qn with
  | none => 0
  | some q =>
    let unread (c : Nat) (f j : Nat) : Bool := match p.st? c, stFrame? s g c f with
      | some st, some y => y.slotOpen && (List.range y.limit).any fun i => !y.done.contains i &&
          (List.range 4).any fun n => decide (st.inQ[n]? = some qn) && readsTile p st n i j
      | _, _ => false
    let named (f j : Nat) : Bool := s.units.any fun u => u.2.log.any fun e =>
      decide (e.ref.g.val = g) && decide (e.ref.frame = f) && e.inputs.contains (qn, j)
    (((s.slot g).frames.filter fun x => x.station = q.producer).map fun x =>
      (x.descs.filter fun d => (q.consumers.any fun c => unread c x.frame d.index) || named x.frame d.index).length).sum

/-- Whether every output queue of a station has a free slot (R127). -/
def queuesOpen (s : State) (g : Nat) (p : Package) (st : Station) : Bool :=
  (used16 st.outQ).all fun qn => match p.q? qn with
    | some q => decide (queueHeld s g p qn < q.depth)
    | none => true

/-- Sets LAST on the final descriptor of a frame. -/
def markLast : List Desc → List Desc
  | [] => []
  | [d] => [{ d with last := true }]
  | d :: t => d :: markLast t

/-- A descriptor of kind empty with LAST set (R133). -/
def emptyLast (st : Station) : Desc := ⟨0, 0, 0, 0, 0, 0, 0, 2, false, true, if st.kind = 3 then st.shape else 0xFF, 0⟩

/-- The station writes its final header and sends LAST (R133, R112), on the frame's last descriptor or, where it has none, as a
descriptor of kind empty (notes/assumptions/34.md); a zero-size output is EMPTY. A full queue is waited for (R127). -/
def finishStation (g : Nat) (p : Package) (st : Station) (f : Nat) (s : State) : State :=
  match stFrame? s g st.number f with
  | none => s
  | some x =>
    let lens := finalLens s g p st f
    let empty := lens.1 = 0 ∨ lens.2.1 = 0 ∨ lens.2.2 = 0
    if x.lastSent ∨ x.abandoned ∨ x.stalled ∨ x.next < x.limit ∨ x.issued ≠ [] ∨ ((empty ∨ x.descs = []) ∧ !queuesOpen s g p st) then s
    else
      let ins := (p.producers st).filterMap fun q => (stFrame? s g q f).map fun y => y.word
      let prim := ((p.producer? st 0).bind fun q => (stFrame? s g q.number f).map fun y => y.word).getD x.word
      let s1 := modFrame g st.number f (fun y => { y with
        final := true, lastSent := true, slotOpen := false, act0 := lens.1, act1 := lens.2.1, act2 := lens.2.2
        word := fswJoin prim (y.word :: ins)
        descs := if empty ∨ y.descs = [] then [emptyLast st] else markLast y.descs }) s
      let s2 := if empty then markStation g st.number f Fsw.EMPTY s1 else s1
      freeOutBufs (completeTasks g f (if within st.kind 2 6 then writeHeader g p st f s2 else s2))

/-- Descriptors of a source that wait for a slot enter its queues in order, as far as there is room (R127). -/
def admitHeld (g : Nat) (p : Package) (st : Station) (f : Nat) : Nat → State → State
  | 0, s => s
  | n + 1, s => match stFrame? s g st.number f with
    | none => s
    | some x => match x.held with
      | [] => s
      | d :: t =>
        if x.abandoned ∨ x.stalled ∨ !queuesOpen s g p st then s
        else admitHeld g p st f n (modFrame g st.number f (fun y => { y with
          held := t, descs := y.descs ++ [d], done := addNat d.index y.done, next := d.index + 1 }) s)

/-- A source station's frame goes on: held descriptors enter, and after the last tile of an ended frame LAST is sent. -/
def settleSource (g : Nat) (p : Package) (st : Station) (f : Nat) (s : State) : State :=
  match stFrame? s g st.number f with
  | none => s
  | some x =>
    let s1 := admitHeld g p st f x.held.length s
    match stFrame? s1 g st.number f with
    | none => s1
    | some y =>
      if !y.ended ∨ y.lastSent ∨ y.abandoned ∨ y.stalled ∨ y.held ≠ [] ∨ (y.descs = [] ∧ !queuesOpen s1 g p st) then s1
      else
        completeTasks g f (noteWithheld g f (modFrame g st.number f (fun z => { z with
          lastSent := true, slotOpen := false, next := z.limit
          descs := if z.descs = [] then [emptyLast st] else markLast z.descs }) s1))

/-- The producers of a station whose frames wait for room in its input queues go on. -/
def resumeProducers (g : Nat) (p : Package) (st : Station) (s : State) : State :=
  forEach (p.producers st) (fun q s => match p.st? q with
    | none => s
    | some k =>
      forEach (((s.slot g).frames.filter fun x => decide (x.station = q) && !x.lastSent).map fun x => x.frame) (fun f s =>
        if k.kind = 1 then settleSource g p k f s
        else match stFrame? s g q f with
          | some x => if x.limit ≤ x.next ∧ k.kind ≠ 7 then finishStation g p k f s else s
          | none => s) s) s

/-! ## Fetch (R129 to R135, R365, R375) -/

/-- The units that receive the index: the unit's quad or chain, and its partner copy. -/
def fetchGroup (st : Station) (u : Nat) : List Nat := (stationGroup st u).eraseDups

/-- How a block runs a station's tiles (R77, R78): 1 alone, 2 in a quad, 3 in a chain. -/
def stationMode (st : Station) : Nat := if st.shape = 0 then 1 else if st.shape = 4 then 3 else 2

/-- The mode of a block by the tiles it holds: 0 when it holds none. -/
def heldMode (s : State) (u : Nat) : Nat :=
  match (s.unit u).log.head? with
  | some e => ((stationOf s e.ref.g.val e.ref.station).map stationMode).getD 0
  | none => 0

/-- Whether a unit can take tiles: in service, no restart or replay under way, room in its log, not called away, and holding no
tile of another mode (notes/assumptions/132.md). -/
def canFetch (s : State) (st : Station) (u : Nat) : Bool :=
  let x := s.unit u
  decide (x.status = .inService) && !x.resetting && decide (x.replay = []) && decide (x.log.length + fetchCount st ≤ 32)
    && !heldBack s u && (decide (32 ≤ u) || decide (heldMode s u = 0) || decide (heldMode s u = stationMode st))

/-- Whether a unit holds a tile that its datapath has not begun. -/
def hasUnfed (s : State) (u : Nat) : Bool :=
  if u < 32 then (unfed? s u).isSome else (s.unit u).log.any fun e => decide (e.fed = 0)

/-- Whether the copies of a pair stand alike for a new tile: both still have one to begin, or both have finished all. -/
def pairLevel (s : State) (st : Station) (u : Nat) : Bool :=
  match (if st.paired then partner s u else none) with
  | some v => (hasUnfed s u && hasUnfed s v) || (finishedAll s u && finishedAll s v)
  | none => true

/-- Skips the tiles wholly beyond (R132): how many from NEXT on. -/
def skipCount (s : State) (g : Nat) (p : Package) (st : Station) (x : StFrame) : Nat :=
  if inputsFinal s g p st x.frame then
    ((List.range (x.limit - x.next)).takeWhile fun k => whollyBeyond s g p st x.frame (x.next + k)).length
  else 0

/-- Performs the skips of one counter slot. -/
def skipTiles (g : Nat) (p : Package) (st : Station) (x : StFrame) (s : State) : State :=
  let n := skipCount s g p st x
  if n = 0 then s
  else (modFrame g st.number x.frame (fun y => { y with
    next := y.next + n, skipped := y.skipped + n, done := y.done ++ (List.range n).map (y.next + ·) }) s).bumpBy (Reg.TILES_SKIPPED g) n

/-- The checkpoint entry of a fetched tile (R375). -/
def logEntry (g : Fin 64) (p : Package) (st : Station) (f : Nat) (pass : List Nat) (i : Nat) : LogEntry :=
  { ref := ⟨g, st.number, f, i⟩
    pass := pass
    inputs := (List.range 4).flatMap fun n => match p.producer? st n with
      | some q => ((List.range q.tiles).filter fun j => readsTile p st n i j).map fun j => (nth 0xFFFF st.inQ n, j)
      | none => []
    hasInit := match st.params with
      | .matmul r => r.initOff ≠ 0xFFFFFFFF
      | _ => false
    replay := false }

/-- Hands out indices from a slot to the units of a group. -/
def handOut (g : Fin 64) (p : Package) (st : Station) (x : StFrame) (us : List Nat) (s : State) : State :=
  let l := (List.range (min (fetchCount st) (x.limit - x.next))).map (x.next + ·)
  let s1 := modFrame g.val st.number x.frame (fun y => { y with next := y.next + l.length, issued := y.issued ++ l }) s
  forEach us (fun u s => s.setUnit u { s.unit u with log := (s.unit u).log ++ l.map (logEntry g p st x.frame l) }) s1

/-- Whether the open slots of a station may hand out tiles. -/
def openSlots (s : State) (g st : Nat) : List StFrame :=
  (s.slot g).frames.filter fun x => decide (x.station = st) && x.slotOpen && !x.abandoned && !x.stalled

/-- What the headers of a station's inputs show the sequencer for a frame: the identity of the first one that is wrong or
cannot be read (R117). -/
def inputHeaders (g : Fin 64) (p : Package) (st : Station) (f : Nat) : List Nat → State → Option Ident × State
  | [], s => (none, s)
  | n :: t, s => match p.producer? st n with
    | none => inputHeaders g p st f t s
    | some q => match readHeader g q.number f 3 s with
      | (some w, s1) => (some w, s1)
      | (none, s1) => inputHeaders g p st f t s1

/-- A station's frame whose input header is wrong reads none of the tensor's tiles: no tile of it is handed out any more (R117). -/
def headerStall (g st f : Nat) (who : Ident) (s : State) : State :=
  match who with
  | .tensor _ _ _ => modFrame g st f (fun x => { x with stalled := true })
      (raise Src.TILE_CHECK who (markStation g st f Fsw.CHECK_MISMATCH s))
  | _ => s

/-- Serves a fetch from the open slots, the older first (R129). -/
def serveFetch (g : Fin 64) (p : Package) (st : Station) (us : List Nat) : List StFrame → State → State
  | [], s => s
  | x :: t, s =>
    let h := inputHeaders g p st x.frame [0, 1, 2, 3] s
    match h.1 with
    | some w => serveFetch g p st us t (headerStall g.val st.number x.frame w h.2)
    | none =>
      let s1 := skipTiles g.val p st x h.2
      match stFrame? s1 g.val st.number x.frame with
      | none => s1
      | some y =>
        if y.limit ≤ y.next then serveFetch g p st us t (finishStation g.val p st y.frame s1)
        else if tileReady s1 g.val p st y.frame y.next then handOut g p st y us s1
        else serveFetch g p st us t s1

/-- TILE_FETCH (R130, R132): unit `u` fetches from the work counter of a station. -/
def execTileFetch (u : UnitRef) (g : Fin 64) (station : Nat) (s : State) : Host.Outcome State Fault Refusal :=
  .next (match (s.slot g.val).pkg, stationOf s g.val station with
    | some p, some st =>
      let us := fetchGroup st u.id
      if within (gstate s g.val) 3 4 ∧ !s.drained ∧ st.uses u.id ∧ us.all (canFetch s st) ∧ us.all (pairLevel s st) then
        serveFetch g p st us (openSlots s g.val station) s
      else s
    | _, _ => s)

/-! ## Operands brought by Mules (R121, R155, R158, R160, R179 to R181) -/

/-- Whether Mule `m` serves region `r` and can move data. -/
def muleServes (s : State) (m : Fin 16) (r : Nat) : Bool :=
  decide (m.val / 4 = r) && decide ((s.unit (40 + m.val)).status = .inService) && working s && !s.drained

/-- Whether a unit holds a tile that it has still to run, and has a buffer for it: the buffers are those of the first two
tiles or passes it has still to run (R561). -/
def bufferRoom (s : State) (u : Nat) (st : Station) (t : TileRef) : Bool :=
  let left := (s.unit u).log.filter fun e => if u < 32 then decide (e.fed < turns s e) else decide (e.fed = 0)
  let order := left.foldl (fun (a : List TileRef) e => if a.any fun x => sameFetch st x e.ref then a else a ++ [e.ref]) []
  !(s.unit u).resetting && (left.any fun e => decide (e.ref = t)) && (order.take 2).any fun x => sameFetch st x t

/-- Changes the operand buffer of a tile in some units, opening it where there is none. -/
def modBuf (us : List Nat) (t : TileRef) (f : OpBuf → OpBuf) (s : State) : State :=
  forEach us (fun u s =>
    let x := s.unit u
    s.setUnit u { x with opBuf := (x.opBuf.filter fun o => !decide (o.ref = t)) ++ [f (bufOf s u t)] }) s

/-- Activations in the layout of R181, which unexpanded operands take as well (DESIGN CHOICE, notes/assumptions/133.md): rows of
`len` codes with their scale bytes. -/
def layoutActs (st : Station) (len : Nat) (rows : List (List Nat × List Nat)) : Bytes :=
  let f := fmtOr st.fmtIn
  let scales := if f.scaled then rows.flatMap fun r => (r.2 ++ List.replicate (ceilDiv len 32 - r.2.length) 127).flatMap (leBytes 1) else []
  if st.onVec ∨ st.shape = 4 then
    (rows.flatMap fun r =>
      let b := packCodes f.width (padCodes len r.1)
      b ++ List.replicate (ceilDiv (elemBytes f len) 32 * 32 - b.length) 0#8) ++ scales
  else
    let e := max 1 f.perBeat
    ((List.range (ceilDiv len e)).flatMap fun k => rows.flatMap fun r => packCodes f.width (padCodes e ((r.1.drop (k * e)).take e))) ++ scales

/-- Position `q` of a unit's share of a tile: its place along axes 1 and 2, none beyond the tile's extents. -/
def positionOf (s : State) (p : Package) (st : Station) (t : TileRef) (u q : Nat) : Option (Nat × Nat) :=
  let o := (boxOf p st t.index).1
  let e := validExtents s t.g.val p st t.frame t.index
  let k := (if u < 32 then shareRow st u else 0) + q
  if k < e.2.1 * e.2.2 then some (o.2.1 + k % max 1 e.2.1, o.2.2 + k / max 1 e.2.1) else none

/-- Positions in a unit's share of a tile. -/
def sharePositions (p : Package) (st : Station) (t : TileRef) (u : Nat) : Nat :=
  if u < 32 then 16 else match st.params with
    | .pool _ => (boxOf p st t.index).2.2.1
    | _ => 1

/-- The source position of a tap (ty, tx) of an output position, none for a padding tap of zeros (R171, R173). -/
def tapAt (r : ExpandRec) (a : Nat × Nat × Nat) (o1 o2 tap : Nat) : Option (Nat × Nat) :=
  let y : Int := (o2 * r.sh + tap / max 1 r.kw * r.dh : Nat) - (r.pt : Int)
  let x : Int := (o1 * r.sw + tap % max 1 r.kw * r.dw : Nat) - (r.pl : Int)
  if 0 ≤ y ∧ y < a.2.2 ∧ 0 ≤ x ∧ x < a.2.1 then some (x.toNat, y.toNat)
  else if r.replicate ∧ 0 < a.2.1 ∧ 0 < a.2.2 then
    some ((min (max x 0) ((a.2.1 : Int) - 1)).toNat, (min (max y 0) ((a.2.2 : Int) - 1)).toNat)
  else none

/-- The codes and scale bytes of one source position. -/
abbrev SrcRow := (Nat × Nat) × List Nat × List Nat

/-- Reads some source positions of a tensor, each once. -/
def readPositions (rd : Reader) (q : Plane) (len : Nat) : List (Nat × Nat) → State → Except Ident (List SrcRow) × State
  | [], s => (.ok [], s)
  | x :: t, s =>
    let a := readRow rd [] q 0 len x.1 x.2 (0, s)
    let b := if q.fmt.scaled then readScales rd [] q 0 (ceilDiv len 32) x.1 x.2 a.2 else (.codes [], a.2)
    match a.1, b.1 with
    | .codes c, .codes k =>
      let r := readPositions rd q len t b.2.2
      (r.1.map fun l => ((x, c, k) : SrcRow) :: l, r.2)
    | .lost w, _ => (.error w, b.2.2)
    | _, .lost w => (.error w, b.2.2)
    | _, _ => (.error .none, b.2.2)

/-- Reduction elements `lo` to `hi - 1` of an expanded position with their blocks' scale bytes (R175, R179, R180); a block of
zero padding has the scale byte 127 (DESIGN CHOICE, notes/assumptions/134.md). -/
def expandRow (r : ExpandRec) (f : Fmt) (dim0 : Nat) (rows : List SrcRow) (taps : Nat → Option (Nat × Nat)) (lo hi : Nat) : List Nat × List Nat :=
  let at' (tap : Nat) : Option SrcRow := (taps tap).bind fun x => rows.find? fun y => decide (y.1 = x)
  let ct := max 1 r.ct
  ((List.range (hi - lo)).map fun i =>
      let j := lo + i
      if dim0 ≤ j % ct then 0 else ((at' (j / ct)).map fun y => nth 0 y.2.1 (j % ct)).getD 0,
   if f.scaled then (List.range (ceilDiv (hi - lo) 32)).map fun b =>
      let j := lo + 32 * b
      ((at' (j / ct)).map fun y => nth 127 y.2.2 (j % ct / 32)).getD 127
    else [])

/-- The expand station that feeds a station, its record and its source station. -/
def expansionOf (p : Package) (st : Station) : Option (Station × ExpandRec × Station) :=
  (p.producer? st 0).bind fun q => match q.params, p.producer? q 0 with
    | .expand r, some z => some (q, r, z)
    | _, _ => none

/-- Expanded rows of some positions: each distinct source position that a tap of the share uses is read once. -/
def expandRows (g : Fin 64) (p : Package) (q : Station) (r : ExpandRec) (z : Station) (f region lo hi : Nat)
    (pos : List (Option (Nat × Nat))) (s : State) : Except Ident (List (List Nat × List Nat)) × State :=
  match stFrame? s g.val z.number f with
  | none => (.error .none, s)
  | some x =>
    let a := (x.act0, x.act1, x.act2)
    let pl := planeOf p z x (planesAt p z x) 0
    let ct := max 1 r.ct
    let taps := (List.range (r.kh * r.kw)).filter fun n => decide (n * ct < hi ∧ lo < (n + 1) * ct)
    let need := (pos.flatMap fun o => match o with
      | some v => taps.filterMap fun n => tapAt r a v.1 v.2 n
      | none => []).eraseDups
    let got := readPositions (readerOf g p z region) pl pl.dim0 need s
    (got.1.map fun rows => pos.map fun o => match o with
      | some v => expandRow r (fmtOr q.fmtOut) pl.dim0 rows (fun n => tapAt r a v.1 v.2 n) lo hi
      | none => (List.replicate (hi - lo) 0, List.replicate (if pl.fmt.scaled then ceilDiv (hi - lo) 32 else 0) 127), got.2)

/-- Whether some flip strikes the tensor header: positions from 2^32 on (notes/assumptions/12.md). -/
def headerHit (flips : List (Nat × Byte)) : Bool := flips.any fun p => decide (2 ^ 32 ≤ p.1) && decide (p.2 ≠ 0#8)

/-- The codes that a string of element bytes holds (R120). -/
def codesOf (f : Fmt) : Nat → Bytes → List Nat
  | 0, _ => []
  | n + 1, b => leVal (b.take (max 1 (f.width / 8))) % 2 ^ f.width :: codesOf f n (b.drop (max 1 (f.width / 8)))

/-- The headers an operand's reader checks: those of its tensor and, for an expanded one, of the source (R117). -/
def readHeaders (g : Fin 64) (f : Nat) : List Nat → State → Option Ident × State
  | [], s => (none, s)
  | st :: t, s => match readHeader g st f 3 s with
    | (some w, s1) => (some w, s1)
    | (none, s1) => readHeaders g f t s1

/-- A unit's tile meets an input it cannot use: TILE_CHECK for what is wrong, the replay of R245 for what is lost. -/
def operandFault (u : Nat) (t : TileRef) (who : Ident) (s : State) : State :=
  match who with
  | .tensor _ _ _ => tileCheckFault u t who s
  | .tile _ => tileCheckFault u t who s
  | _ => replayOrAbandon u t who s

/-- Reduction elements of a tile's share of an expanded operand. -/
def expandShare (st : Station) (r : ExpandRec) (t : TileRef) : Nat × Nat :=
  match st.params with
  | .matmul k => shareOf st k.k t.index
  | _ => (0, r.ke)

/-- EXPAND_TILE (R179): a Mule of the unit's region writes the expanded tile into the operand buffer of the unit, and of every
block of its quad that shares the operand (R155); the unit recomputes the check word before use. -/
def execExpandTile (m : Fin 16) (u : UnitRef) (t : TileRef) (flips : List (Nat × Byte)) (s : State) : Host.Outcome State Fault Refusal :=
  .next (match (s.slot t.g.val).pkg, stationOf s t.g.val t.station with
    | some p, some st => match expansionOf p st with
      | none => s
      | some (q, r, z) =>
        let us := if u.id < 32 then castActs st u.id else [u.id]
        if !muleServes s m u.region ∨ st.tiling.reuse = 3 ∨ !(us.all fun v => bufferRoom s v st t) ∨ actsPresent s u.id p st t then s
        else match readHeaders t.g t.frame [q.number, z.number] s with
          | (some w, s1) => operandFault u.id t w s1
          | (none, s1) =>
            if headerHit flips then operandFault u.id t (.tensor t.g.val q.number t.frame) s1
            else
              let n := sharePositions p st t u.id
              let c := expandShare st r t
              let pos := (List.range n).map (positionOf s1 p st t u.id)
              match expandRows t.g p q r z t.frame u.region c.1 c.2 pos s1 with
              | (.error w, s2) => operandFault u.id t w s2
              | (.ok rows, s2) =>
                let f := fmtOr st.fmtIn
                let k := (pos.filter Option.isSome).length
                let codes := (rows.take k).flatMap Prod.fst
                let scales := (rows.take k).flatMap Prod.snd
                let b := checkBytes f codes scales
                let b' := flipFrom flips 0 b
                if crc32c b' ≠ crc32c b then operandFault u.id t (.tile { t with station := q.number }) s2
                else
                  let len := c.2 - c.1
                  let cs := codesOf f codes.length b'
                  let ss := (b'.drop (b'.length - scales.length)).map BitVec.toNat
                  let nb := if f.scaled then ceilDiv len 32 else 0
                  let good := if flips = [] then rows.take k
                    else (List.range k).map fun i => ((cs.drop (i * len)).take len, (ss.drop (i * nb)).take nb)
                  modBuf us t (fun o => { o with expanded := true, acts := layoutActs st len (good ++ rows.drop k) }) s2
    | _, _ => s)

/-- The unexpanded activations of a tile's share, assembled from its source tiles. -/
def assembleActs (s : State) (p : Package) (st : Station) (r : MatmulRec) (t : TileRef) (u : Nat) (o : OpBuf) : Bytes :=
  let c := shareOf st r.k t.index
  let f := fmtOr st.fmtIn
  layoutActs st (c.2 - c.1) ((List.range 16).map fun q => match positionOf s p st t u q with
    | some v => ((List.range (c.2 - c.1)).map fun j => ((srcElem o 0 (c.1 + j) v.1 v.2).getD (0, 127)).1,
        if f.scaled then (List.range (ceilDiv (c.2 - c.1) 32)).map fun b => ((srcElem o 0 (c.1 + 32 * b) v.1 v.2).getD (0, 127)).2 else [])
    | none => ([], []))

/-- The units that one transfer of a source tile reaches: the blocks of a quad that share the operand (R155); both copies of a
paired combining station (R107). -/
def castSource (s : State) (p : Package) (st : Station) (u : Nat) : List Nat :=
  if u < 32 then castActs st u
  else if combines p st ∧ st.paired then match partner s u with
    | some v => [u, v]
    | none => [u]
  else [u]

/-- A Mule brings source tile `j` of input `n` of a tile: read whole, its check word recomputed (R121, R160). -/
def fetchSource (u : Nat) (t : TileRef) (n : Fin 4) (j : Nat) (flips : List (Nat × Byte)) (p : Package) (st : Station) (s : State) : State :=
  let us := castSource s p st u
  match p.producer? st n.val with
  | none => s
  | some q =>
    if q.kind = 2 ∨ st.tiling.reuse = 3 ∨ !(us.all fun v => bufferRoom s v st t)
        ∨ !(wantedTiles s t.g.val p st t.frame t.index).contains (n.val, j) ∨ (bufOf s u t).got.contains (n.val, j) then s
    else match readHeader t.g q.number t.frame 3 s with
      | (some w, s1) => operandFault u t w s1
      | (none, s1) =>
        if headerHit flips then operandFault u t (.tensor t.g.val q.number t.frame) s1
        else match readWhole t.g p q t.frame j (regionOf u) flips s1 with
          | (.missing, s2) => s2
          | (.lost w, s2) => operandFault u t w s2
          | (.wrong, s2) => operandFault u t (.tile { t with station := q.number, index := j }) s2
          | (.good o e codes scales, s2) =>
            let x : SrcTile := { input := n.val, index := j, o := o, e := e, codes := codes, scales := scales }
            let s3 := modBuf us t (fun b => { b with got := b.got ++ [(n.val, j)], srcs := b.srcs ++ [x] }) s2
            match st.params with
            | .matmul r => if u < 32 then forEach us (fun v s => modBuf [v] t (fun b => { b with acts := assembleActs s p st r t v b }) s) s3 else s3
            | _ => s3

/-- Ranges of section 0x04 that hold the weights of a tile's share in a unit: slices, scales and initial values, each as
offsets and lengths (R558). -/
def weightRanges (p : Package) (st : Station) (r : MatmulRec) (u : Nat) (t : TileRef) : List (List (Nat × Nat)) :=
  let f := fmtOr st.fmtIn
  let c := shareOf st r.k t.index
  let c0 := (boxOf p st t.index).1.1
  let blocks := if f.scaled then ceilDiv c.2 32 - c.1 / 32 else 0
  let chans := (p.out st).dim0
  if st.shape = 5 then
    let cr := ceilDiv chans 512 * 512
    let n := vecChannels p st t
    [(List.range (c.2 - c.1)).map fun j => (r.weightOff + elemBytes f ((c.1 + j) * cr + c0), elemBytes f n),
     (List.range blocks).map fun b => (r.wscaleOff + (c.1 / 32 + b) * cr + c0, n),
     if r.initOff = 0xFFFFFFFF then [] else [(r.initOff + 4 * c0, 4 * min n (chans - c0))]]
  else
    let e := max 1 f.perBeat
    let n := 64 * chunkBytes f
    let ch := c0 + shareChannel st u
    let k := ch / 64
    [[(r.weightOff + (k * ceilDiv r.k e + c.1 / e) * n, (ceilDiv c.2 e - c.1 / e) * n)],
     if f.scaled then [(r.wscaleOff + (k * ceilDiv r.k 32 + c.1 / 32) * 64, blocks * 64)] else [],
     if r.initOff = 0xFFFFFFFF then [] else [(r.initOff + 4 * ch, 4 * min 64 (chans - ch))]]

/-- Reads ranges of a package's constants through the region cache (R225). -/
def readConstants (g : Fin 64) (region : Nat) : List (Nat × Nat) → State → Got × State
  | [], s => (.data [], s)
  | x :: t, s => match muleRead region g true (constAddr s g.val x.1) x.2 s with
    | (.lost w, s1) => (.lost w, s1)
    | (.data b, s1) => let r := readConstants g region t s1; (Got.append (.data b) r.1, r.2)

/-- A Mule brings the weights of a tile's share: once for all blocks of a quad that share them, into local block 0 for a
fused chain (R155, R160). -/
def fetchWeights (u : Nat) (t : TileRef) (p : Package) (st : Station) (s : State) : State :=
  let us := if u < 32 then castWeights st u else [u]
  match st.params with
  | .matmul r =>
    if st.tiling.reuse = 2 ∨ (st.shape = 4 ∧ u % 8 ≠ 0) ∨ !(us.all fun v => bufferRoom s v st t) ∨ (bufOf s u t).weights.isSome then s
    else
      let l := weightRanges p st r u t
      match readConstants t.g (regionOf u) (nth [] l 0) s with
      | (.lost w, s1) => operandFault u t w s1
      | (.data a, s1) => match readConstants t.g (regionOf u) (nth [] l 1) s1 with
        | (.lost w, s2) => operandFault u t w s2
        | (.data b, s2) => match readConstants t.g (regionOf u) (nth [] l 2) s2 with
          | (.lost w, s3) => operandFault u t w s3
          | (.data c, s3) => modBuf us t (fun o => { o with weights := some (a, b, c) }) s3
  | _ => s

/-- The positions of a frame's whole activation operand, in order, none beyond the actual lengths. -/
def framePositions (t : Tensor) (a : Nat × Nat × Nat) : List (Option (Nat × Nat)) :=
  (List.range (t.dim1 * t.dim2)).map fun i =>
    let x := (i % max 1 t.dim1, i / max 1 t.dim1)
    if x.1 < a.2.1 ∧ x.2 < a.2.2 then some x else none

/-- Reads every tile of a producer's frame whole. -/
def readAllTiles (g : Fin 64) (p : Package) (q : Station) (f region : Nat) (flips : List (Nat × Byte)) :
    List Nat → State → Except Ident (List SrcTile) × State
  | [], s => (.ok [], s)
  | j :: t, s => match readWhole g p q f j region flips s with
    | (.good o e c k, s1) =>
      let r := readAllTiles g p q f region [] t s1
      (r.1.map fun l => { input := 0, index := j, o := o, e := e, codes := c, scales := k } :: l, r.2)
    | (.lost w, s1) => (.error w, s1)
    | (.wrong, s1) => (.error (.tile ⟨g, q.number, f, j⟩), s1)
    | (.missing, s1) => readAllTiles g p q f region [] t s1

/-- A frame's activation operand as it lies in a resident copy: positions one after another, then the scales. -/
def residentBytes (p : Package) (st : Station) (rows : List (List Nat × List Nat)) : Bytes :=
  let f := fmtOr st.fmtIn
  let src := p.input st
  (rows.flatMap fun r => packCodes f.width (padCodes src.dim0 r.1))
    ++ (if f.scaled then rows.flatMap fun r => ((List.range (ceilDiv src.dim0 32)).map fun b => nth 127 r.2 b).flatMap (leBytes 1) else [])

/-- The rows of a frame's whole activation operand, expanded or from its source tiles (R158, R179). -/
def frameOperand (u : Nat) (t : TileRef) (flips : List (Nat × Byte)) (p : Package) (st q : Station) (s : State) :
    Except Ident (List (List Nat × List Nat)) × State :=
  let src := p.out q
  let pos := framePositions src (actOf s t.g.val q.number t.frame)
  match expansionOf p st with
  | some (_, r, z) => expandRows t.g p q r z t.frame (regionOf u) 0 r.ke pos s
  | none =>
    let js := ((stFrame? s t.g.val q.number t.frame).map fun x => x.descs.map fun d => d.index).getD []
    let x := readAllTiles t.g p q t.frame (regionOf u) flips js s
    (x.1.map fun l =>
      let b : OpBuf := { ref := t, srcs := l }
      pos.map fun o => match o with
        | some v => ((List.range src.dim0).map fun j => ((srcElem b 0 j v.1 v.2).getD (0, 127)).1,
            if (fmtOr st.fmtIn).scaled then (List.range (ceilDiv src.dim0 32)).map fun k => ((srcElem b 0 (32 * k) v.1 v.2).getD (0, 127)).2 else [])
        | none => ([], []), x.2)

/-- REUSE 3: a unit receives its copy of a frame's activations once, before its first tile of the frame, into the half of the
frame's parity, once no tile of an earlier frame in that half is left (R158). -/
def fetchResident (u : Nat) (t : TileRef) (flips : List (Nat × Byte)) (p : Package) (st : Station) (s : State) : State :=
  let x := s.unit u
  let busy := x.log.any fun e => decide (e.ref.g = t.g) && decide (e.ref.station = t.station) && decide (e.ref.frame % 2 = t.frame % 2)
    && decide (e.ref.frame ≠ t.frame)
  match p.producer? st 0 with
  | none => s
  | some q =>
    if st.tiling.reuse ≠ 3 ∨ x.resetting ∨ x.resident.contains (t.g, t.station, t.frame) ∨ busy
        ∨ !(x.log.any fun e => decide (e.ref = t)) ∨ !((stFrame? s t.g.val q.number t.frame).map fun y => y.lastSent).getD false then s
    else match readHeaders t.g t.frame (q.number :: ((expansionOf p st).map fun y => y.2.2.number).toList) s with
      | (some w, s1) => operandFault u t w s1
      | (none, s1) =>
        if headerHit flips then operandFault u t (.tensor t.g.val q.number t.frame) s1
        else match frameOperand u t flips p st q s1 with
          | (.error w, s2) => operandFault u t w s2
          | (.ok rows, s2) =>
            let s3 := writeRowsOf (frameRows p st u t.frame) (residentBytes p st rows) s2
            s3.setUnit u { s3.unit u with resident := ((s3.unit u).resident.filter fun k =>
              !(decide (k.1 = t.g) && decide (k.2.1 = t.station) && decide (k.2.2 % 2 = t.frame % 2))) ++ [(t.g, t.station, t.frame)] }

/-- A Mule reads a tile from memory, to move it in memory, and recomputes its check word (R121, R564). -/
def copyTile (m : Fin 16) (t : TileRef) (flips : List (Nat × Byte)) (p : Package) (st : Station) (s : State) : State :=
  match readHeader t.g st.number t.frame 3 s with
  | (some w, s1) => (match w with
      | .tensor _ _ _ => transferCheckFault t w s1
      | _ => s1)
  | (none, s1) =>
    if headerHit flips then transferCheckFault t (.tensor t.g.val st.number t.frame) s1
    else match readWhole t.g p st t.frame t.index (m.val / 4) flips s1 with
      | (.wrong, s2) => transferCheckFault t (.tile t) s2
      | (_, s2) => s2

/-- MULE_TRANSFER (R121, R155, R158, R160): a Mule moves data of a tile, recomputing the check word of what carries one. -/
def execMuleTransfer (m : Fin 16) (t : TileRef) (move : Move) (flips : List (Nat × Byte)) (s : State) : Host.Outcome State Fault Refusal :=
  .next (match (s.slot t.g.val).pkg, stationOf s t.g.val t.station with
    | some p, some st => match move with
      | .fetch u n j => if muleServes s m u.region then fetchSource u.id t n j flips p st s else s
      | .weights u => if muleServes s m u.region then fetchWeights u.id t p st s else s
      | .resident u => if muleServes s m u.region then fetchResident u.id t flips p st s else s
      | .copy => if muleServes s m (m.val / 4) then copyTile m t flips p st s else s
    | _, _ => s)

/-! ## Completion of a tile (R128, R346, R375) -/

/-- A tile drained by Ox blocks: its rows in order, each row's channels from the blocks that share it (R62). -/
def oxTile (s : State) (st : Station) (u : Nat) (t : TileRef) (e1 : Nat) : List Nat × List Nat :=
  let us := shapeGroup st u
  let rowOf (k : Nat) : List Nat × List Nat :=
    let parts := us.filterMap fun b =>
      if shareRow st b ≤ k ∧ k < shareRow st b + 16 then
        ((s.unit b).outBuf.find? fun o => decide (o.ref = t) && decide (o.row + shareRow st b = k)).map fun o => (o.codes, o.scales)
      else none
    (parts.flatMap fun x => x.1, parts.flatMap fun x => x.2)
  let rows := (List.range e1).map rowOf
  (rows.flatMap fun x => x.1, rows.flatMap fun x => x.2)

/-- The units of copy A (all of an unpaired tile's units) that hold a tile together with `u`. -/
def copyUnits (st : Station) (u : Nat) : List Nat :=
  let base := if 32 ≤ u then 32 else 0
  (shapeGroup st (u - base)).map (base + ·)

/-- Whether a tile's block-level checks have closed on the units of its copy (R128, R369). -/
def checksPassed (s : State) (st : Station) (u : Nat) (t : TileRef) : Bool :=
  (copyUnits st u).all fun v =>
    let x := s.unit v
    let paired := (partner s v).isSome
    if v < 32 then
      rowsDrained x t && (!paired || x.outBuf.all fun o => decide (o.ref ≠ t) || decide (o.beat < 256 * x.compared))
    else !paired || decide (x.beat ≤ 256 * x.compared)

/-- The tokens that a tile took in a block, with the operands that its 16 rows met, from the buffers that held them (R346). -/
def sampleToks (s : State) (st : Station) (t : TileRef) (b : Nat) : List StagTok :=
  let us := chainOf st b
  let h := us.headD b
  let s1 := forEach us (fun v s => s.setUnit v { s.unit v with opBuf := (s.unit v).usedBuf }) s
  match (s.unit h).log.find? fun e => decide (e.ref = t) with
  | none => []
  | some e => match runOf s1 e with
    | none => []
    | some r => (List.range r.count).filterMap fun n => match r.place n with
      | none => none
      | some pos =>
        let k := tokenOf s1 h r e (weightAt s1 h r e pos) (actsAt s1 b r e pos) pos
        if k.kind ≠ .load ∧ k.ref = t then some { k with chunk := none } else none

/-- Samples a block's share of a completed tile for the Goose: output and inputs (R108, R346). -/
def gooseSample (st : Station) (t : TileRef) (b : Nat) (s : State) : State :=
  let x := s.unit b
  let key := (t.g.val, st.number, t.frame)
  let first := !x.sampled.contains key
  let r := b / 8
  let gz := s.goose r
  let shift := s.r Reg.GOOSE_SHIFT
  let drawn := (shift = 0 ∨ Config.gooseDraw s.free shift) ∧ gz.samples = [] ∧ !s.ift.due.contains (56 + r)
  let rows := (List.range 16).filterMap fun row => x.outBuf.find? fun o => decide (o.ref = t) && decide (o.row = row)
  if first ∨ drawn then
    let y : Sample := { ref := t, block := Fin.ofNat 32 b, codes := rows.flatMap fun o => o.codes, scales := rows.flatMap fun o => o.scales
                        toks := sampleToks s st t b, masks := (List.range 16).map fun row => maskBits s (16 * b + row) t }
    let s1 := s.setGoose r { gz with samples := gz.samples ++ [y] }
    (s1.setUnit b { x with sampled := if first then (x.sampled.filter fun k => !(decide (k.1 = t.g.val) && decide (k.2.1 = st.number) && decide (k.2.2 + 2 ≤ t.frame))) ++ [key] else x.sampled }).nextFree
  else s.nextFree

/-- Releases a tile from a unit's checkpoint log and buffers (R375). -/
def releaseTile (t : TileRef) (u : Nat) (s : State) : State :=
  let x := s.unit u
  let gone (o : OpBuf) : Bool := decide (o.ref = t) && !(x.log.any fun e => decide (e.ref ≠ t) && e.pass.contains t.index
    && decide (e.ref.g = t.g ∧ e.ref.station = t.station ∧ e.ref.frame = t.frame))
  s.setUnit u { x with
    log := x.log.filter fun e => e.ref ≠ t, replay := x.replay.filter fun e => e.ref ≠ t, outBuf := x.outBuf.filter fun o => o.ref ≠ t
    opBuf := x.opBuf.filter fun o => !gone o, usedBuf := x.usedBuf.filter fun o => !gone o
    failedOnce := x.failedOnce.filter fun r => r.1 ≠ t, retired := x.retired + 1 }

/-- Writes a completed tile into its tensor by a Mule of region `r`, then its descriptor and the counter slot (R128, R122,
R225). -/
def announceTile (p : Package) (st : Station) (t : TileRef) (r : Nat) (replay : Bool) (data : List Nat × List Nat) (s : State) : State :=
  let g := t.g.val
  let o := (boxOf p st t.index).1
  let e := validExtents s g p st t.frame t.index
  let d : Desc := { index := t.index, o0 := o.1, o1 := o.2.1, o2 := o.2.2, e0 := e.1, e1 := e.2.1, e2 := e.2.2
                    kind := if st.kind = 3 ∧ 1 < st.split then 1 else 0, replay := replay, last := false
                    shape := if st.kind = 3 then st.shape else 0xFF, check := crc32c (checkBytes (tileFmt st) data.1 data.2) }
  modFrame g st.number t.frame (fun x => { x with
    issued := x.issued.filter fun i => i ≠ t.index, done := addNat t.index x.done
    descs := x.descs ++ [d] }) (storeTile t.g p st t.frame t.index r o e data.1 data.2 s)

/-- A vector block runs a tile whose operands are in place. -/
def runVecTile (u : Nat) (t : TileRef) (p : Package) (st : Station) (s : State) : State :=
  if u < 32 ∨ !working s ∨ (s.unit u).resetting ∨ (s.unit u).status ≠ .inService ∨ !actsPresent s u p st t
      ∨ (st.kind = 3 ∧ !weightsPresent s u st t) then s
  else closeEarly u (modEntries [u] t (fun e => { e with fed := max 1 e.fed }) s)

/-- Whether every unit that holds a tile has run it to its end. -/
def ranOut (s : State) (us : List Nat) (t : TileRef) : Bool :=
  us.all fun v => (s.unit v).log.all fun e => decide (e.ref ≠ t) || if v < 32 then rowsDrained (s.unit v) t else decide (0 < e.fed)

/-- The completion of a tile on the units that hold it: tiles complete in the order in which their unit took them (R30). -/
def completeTile (u : Nat) (t : TileRef) (p : Package) (st : Station) (s0 : State) : State :=
  let g := t.g.val
  let s := runVecTile u t p st s0
  let us := copyUnits st u
  let all := fetchGroup st u
  match stFrame? s g st.number t.frame with
  | none => if !begun s t ∨ ranOut s all t then forEach all (releaseTile t) s else s
  | some x =>
    if x.abandoned ∨ x.stalled then (if !begun s t ∨ ranOut s all t then forEach all (releaseTile t) s else s)
    else if !checksPassed s st u t ∨ !queuesOpen s g p st ∨ (s.unit u).resetting ∨ !isCopyA s u
        ∨ !(us.all fun v => ((s.unit v).log.head?.map fun e => e.ref) = some t) ∨ (32 ≤ u ∧ !ranOut s [u] t) then s
    else
      let replay := ((s.unit u).log.find? fun e => e.ref = t).map (fun e => e.replay) = some true
      let ext := validExtents s g p st t.frame t.index
      let data := if u < 32 then oxTile s st u t ext.2.1 else vecTile s u p st t ext
      let s1 := announceTile p st t (regionOf u) replay data { s with free := s.free + data.1.length }
      let s2 := if u < 32 then forEach us (gooseSample st t) s1 else s1
      let s3 := forEach us (releaseTile t) s2
      resumeProducers g p st (finishStation g p st t.frame s3)

/-- TILE_COMPLETE (R128). -/
def execTileComplete (u : UnitRef) (t : TileRef) (s : State) : Host.Outcome State Fault Refusal :=
  .next (match (s.slot t.g.val).pkg, stationOf s t.g.val t.station with
    | some p, some st =>
      if (s.unit u.id).log.any fun e => e.ref = t then
        let s1 := completeTile u.id t p st s
        if (s1.unit u.id).log.any fun e => e.ref = t then s1
        else forEach (u.id :: (match partner s u.id with
          | some v => [v]
          | none => [])) tryWithdraw s1
      else s
    | _, _ => s)

/-! ## Verification tiles (R177, R178) -/

/-- A verification tile that has read its source tile: announced when the data is good, else TILE_CHECK. -/
def verified (p : Package) (st q : Station) (t : TileRef) (j : Nat) (x : TileRead) (s : State) : State :=
  let g := t.g.val
  match x, (stFrame? s g q.number t.frame).bind fun y => y.descs.find? fun d => decide (d.index = j) with
  | .good _ _ _ _, some d =>
    resumeProducers g p st (finishStation g p st t.frame (modFrame g t.station t.frame (fun y => { y with
      next := y.next + 1, done := addNat t.index y.done
      descs := y.descs ++ [{ d with index := t.index, kind := 0, replay := false, last := false, shape := 0xFF }] }) s))
  | .wrong, _ => transferCheckFault t (.tile { t with station := q.number, index := j })
      (modFrame g t.station t.frame (fun y => { y with next := y.next + 1, issued := y.issued ++ [t.index] }) s)
  | _, _ => s

/-- VERIFICATION_TILE (R177, R178): a Mule reads a source tile whole and recomputes its check word against the descriptor's. -/
def execVerificationTile (m : Fin 16) (t : TileRef) (flips : List (Nat × Byte)) (s : State) : Host.Outcome State Fault Refusal :=
  let g := t.g.val
  .next (match (s.slot g).pkg, stationOf s g t.station with
    | some p, some st => match st.params, p.producer? st 0, stFrame? s g t.station t.frame with
      | .expand r, some q, some x0 =>
        if muleServes s m (p.regionOf st) ∧ x0.slotOpen ∧ !x0.abandoned ∧ !x0.stalled then
          match readHeader t.g q.number t.frame 3 s with
          | (some w, s1) => headerStall g t.station t.frame w s1
          | (none, s0) =>
            if headerHit flips then headerStall g t.station t.frame (.tensor g q.number t.frame) s0
            else
              let s1 := skipTiles g p st x0 s0
              match stFrame? s1 g t.station t.frame with
              | none => s1
              | some x =>
                if x.limit ≤ x.next then finishStation g p st t.frame s1
                else if t.index ≠ x.next ∨ !tileReady s1 g p st t.frame t.index ∨ !queuesOpen s1 g p st then s1
                else
                  let j := (nth (0, 0) (p.verTiles st r) t.index).2
                  let y := readWhole t.g p q t.frame j (m.val / 4) flips s1
                  verified p st q t j y.1 y.2
        else s
      | _, _, _ => s
    | _, _ => s)

end Sys2Proof.Machine
end

