-- ==== Sys2Proof/Machine/Redundancy.lean ====
section
/-! DEFINITION. Pair comparison, restarts, the Goose, control pairs, the supervisor trio and its voter
(13 R346, R347; 14 R365 to R391). -/

namespace Sys2Proof.Machine

open Sys2Proof

/-! ## Pair comparison (R369, R372, R377) -/

/-- Copy B discards the outputs of every tile whose last beat an equal comparison covers (R369, R375). -/
def discardCovered (v : Nat) (s : State) : State :=
  let x := s.unit v
  let done (t : TileRef) : Bool :=
    if v < 32 then rowsDrained x t && x.outBuf.all fun o => decide (o.ref ≠ t) || decide (o.beat < 256 * x.compared)
    else decide (x.beat ≤ 256 * x.compared)
  forEach ((x.log.map fun e => e.ref).filter done) (fun t s => releaseTile t v s) s

/-- An equal comparison: both copies move on to the next window. -/
def windowEqual (a b w : Nat) (s : State) : State :=
  let f (u : Nat) (s : State) : State := s.setUnit u { s.unit u with closed := (s.unit u).closed.drop 1, compared := w + 1 }
  discardCovered b (f b (f a s))

/-- PAIR_MISMATCH (R377, R380): mark, restart of both copies, one raise, one occurrence for each unit of both. -/
def pairMismatch (a b w : Nat) (s : State) : State :=
  let us := match pairedStation s a with
    | some st => stationGroup st a
    | none => [a, b]
  let refs := ((s.unit a).log ++ (s.unit b).log).map fun e => e.ref
  let s1 := forEach refs (fun t s => markStation t.g.val t.station t.frame Fsw.CHECK_MISMATCH s) s
  let s2 := raise Src.PAIR_MISMATCH (.pair a b refs.head? w) (restart a s1)
  forEach us (fun u s => occurrence Src.PAIR_MISMATCH u s) s2

/-- PAIR_COMPARE (R372): the comparator compares the oldest window that both copies have closed. -/
def execPairCompare (u : UnitRef) (s : State) : Host.Outcome State Fault Refusal :=
  .next (match partner s u.id with
    | none => s
    | some v =>
      let a := if isCopyA s u.id then u.id else v
      let b := if isCopyA s u.id then v else u.id
      match (s.unit a).closed, (s.unit b).closed with
      | x :: _, y :: _ =>
        if s.drained ∨ (s.unit a).resetting ∨ (s.unit b).resetting then s
        else if x = y then windowEqual a b x.1 s
        else pairMismatch a b x.1 s
      | _, _ => s)

/-! ## End of a reset (R222, R377 steps 4 to 6) -/

/-- The windows of a block reopen for the graphs that hold them; a graph that closes its windows keeps them closed. -/
def reopenWindows (b : Nat) (s : State) : State :=
  forEach (List.range 16) (fun w s =>
    let x := s.win (16 * b + w)
    if x.state = .closed ∧ x.owner ≠ 0 ∧ within (gstate s (x.owner - 1)) 3 4 ∧ !(s.slot (x.owner - 1)).closing then s.setWin (16 * b + w) { x with state := .isOpen }
    else s) s

/-- BLOCK_RESET_COMPLETE (R377): the unit runs its replay set next. -/
def execBlockResetComplete (u : UnitRef) (s : State) : Host.Outcome State Fault Refusal :=
  let x := s.unit u.id
  let live (e : LogEntry) : Bool := !tileAbandoned s e.ref
  .next (if x.resetting ∧ !s.drained then
    let s1 := s.setUnit u.id { x with resetting := false, beat := 0, compared := 0, log := x.log.filter live, replay := x.replay.filter live }
    tryWithdraw u.id (if u.id < 32 then reopenWindows u.id s1 else s1)
  else s)

/-! ## The Goose (R347) -/

/-- The recomputed cells of one row of a block: the retained tokens accumulated in their order (R53, R54, R347). -/
def gooseRow (toks : List StagTok) (mask : List Bool) (row : Nat) : Option (List (BitVec 32 × Nat)) :=
  toks.foldl (fun old tok =>
    let a := nth ([], 127) tok.acts row
    some ((rowCells tok old (latchesFor {} tok mask a.1 row []) a.2 row []).map fun c => (c.1, c.2.1))) none

/-- The output of a sampled tile as the Goose recomputes it from what is retained: codes and scale bytes (R347). -/
def gooseOutput (s : State) (x : Sample) : List Nat × List Nat :=
  match matmulOf s x.ref with
  | none => (x.codes, x.scales)
  | some (p, st, r) =>
    let l := x.masks.zipIdx.map fun m => drainRow s p st r x.block.val x.ref
      { owner := some x.ref, float := !(fmtOr st.fmtIn).isInt, masked := m.1
        cells := (gooseRow x.toks m.1 m.2).getD (List.replicate 64 (0#32, 0)) }
    (l.flatMap fun y => y.1, l.flatMap fun y => y.2)

/-- Codes with the bits flipped that a defect of the Goose flips. -/
def flipCodes (flips l : List Nat) : List Nat := l.zipIdx.map fun x => x.1 ^^^ nth 0 flips x.2

/-- GOOSE_COMPARE (R347): the Goose of region `r` has recomputed its oldest sample and compares codes and scale bytes with the
block's (R108); `flips` are the bits that a defect of the Goose flips in its result. -/
def execGooseCompare (r : Fin 4) (flips : TileCodes) (s : State) : Host.Outcome State Fault Refusal :=
  let gz := s.goose r.val
  .next (match gz.samples with
    | [] => s
    | x :: rest =>
      if s.drained then s
      else
        let s1 := (s.setGoose r.val { gz with samples := rest }).bump (Reg.GOOSE_SAMPLES r.val)
        let y := gooseOutput s x
        if flipCodes flips.codes y.1 = x.codes ∧ flipCodes flips.scales y.2 = x.scales then s1
        else
          let s2 := raise Src.GOOSE_MISMATCH (.sample x.block.val x.ref) (markStation x.ref.g.val x.ref.station x.ref.frame Fsw.CHECK_MISMATCH s1)
          if !(s.unit x.block.val).resetting then occurrence Src.GOOSE_MISMATCH x.block.val s2 else s2)

/-! ## Control pairs (R383, R384) -/

/-- The rollback of a control pair: its held stores are discarded, and it is counted (R384). -/
def rollbackPair (p : Nat) (s : State) : State :=
  let s1 := s.bump (Reg.CTRL_MISMATCHES p)
  { s1 with sup := { s1.sup with heldStores := sdel p s1.sup.heldStores, rollback := sinsert p true s1.sup.rollback } }

/-- CTRL_WINDOW_COMPARE (R383): a pair's window is compared; `stores` are those retired in it. -/
def execCtrlWindowCompare (p : Fin 4) (sigA sigB : BitVec 64) (stores : List (Nat × Byte)) (s : State) : Host.Outcome State Fault Refusal :=
  .next (if sigA = sigB then
    let all := (sfind p.val s.sup.heldStores).getD [] ++ stores
    { s with sup := { s.sup with
        ctrlMem := all.foldl (fun (m : List (Nat × Byte)) (x : Nat × Byte) => sset (fun _ => 0#8) m x.1 x.2) s.sup.ctrlMem
        heldStores := sdel p.val s.sup.heldStores, rollback := sdel p.val s.sup.rollback } }
  else occurrence Src.CTRL_MISMATCH (40 + p.val) (raise Src.CTRL_MISMATCH (.control p.val) (rollbackPair p.val s)))

/-! ## The supervisor trio (R385 to R389) -/

/-- SUP_HANDOVER (R388): the fault collector drives the safe state and drains the chip. -/
def handover (s : State) : State :=
  if s.sys.handover then s
  else
    let s1 := { s with sys := { s.sys with handover := true }, sup := { s.sup with resync := none } }
    let s2 := raise Src.SUP_HANDOVER .none (s1.setR Reg.SUSPECT (setBit (s1.r Reg.SUSPECT) 44))
    drainChip Src.SUP_HANDOVER s2

/-- A dissent of a core (R386 to R388). -/
def dissent (core : Nat) (s : State) : State :=
  let s1 := raise Src.SUP_DISSENT (.core core) (s.bump (Reg.DISSENTS core))
  let recent : Bool := match sfind core s1.aon.dissent with
    | some d => decide (s1.t3 < d)
    | none => false
  if s1.sup.resync.isSome || recent then handover s1
  else { s1 with sup := { s1.sup with resync := some core }
                 aon := { s1.aon with dissent := sinsert core (s1.t3 + suspectSpan) s1.aon.dissent } }

/-- The voter issues a transaction; interrupts and traps are taken at this boundary (R386, R421). -/
def issueTransaction (t : Nat) (s : State) : State :=
  { s with sup := { s.sup with issued := s.sup.issued ++ [t], interrupts := [], traps := [], dissentAt := [] } }

/-- A core's transaction is awaited for 10 µs of T3, or until `due` if an earlier one of that core is still awaited;
`agreed` says whether the other two agree (R386). -/
def awaitCore (core : Nat) (agreed : Bool) (due : Option Nat) (s : State) : State :=
  { s with sup := { s.sup with
      dissentAt := (if agreed then sdel (3 + core) else sinsert (3 + core) 1)
        (sinsert core (due.getD (s.t3 + 10000)) s.sup.dissentAt) } }

/-- One vote on the n-th transactions of the cores, as far as they have arrived (R386, R387). -/
def voteOn (t : Nat → Option Nat) (s : State) : State :=
  let pair (x y d : Nat) (live : Bool) : State :=
    match t x, t y, t d with
    | some a, some b, none =>
      if live then
        let due := sfind d s.sup.dissentAt
        if a = b then awaitCore d true due (issueTransaction a s) else awaitCore d false due s
      else if a = b then issueTransaction a s else handover s
    | some a, some b, some c =>
      if !live then (if a = b then issueTransaction a s else handover s)
      else if a = b ∧ b = c then issueTransaction a s
      else if a = b then dissent d (issueTransaction a s)
      else if a = c then dissent y (issueTransaction a s)
      else if b = c then dissent x (issueTransaction b s)
      else handover s
    | _, _, _ => s
  match s.sup.resync with
  | some 0 => pair 1 2 0 false
  | some 1 => pair 0 2 1 false
  | some _ => pair 0 1 2 false
  | none =>
    if (t 0).isNone then pair 1 2 0 true
    else if (t 1).isNone then pair 0 2 1 true
    else pair 0 1 2 true

/-- VOTE (R386, R389): `circuitsDiffer` says that the two voting circuits disagree. -/
def execVote (t0 t1 t2 : Option Nat) (circuitsDiffer : Bool) (s : State) : Host.Outcome State Fault Refusal :=
  .next (if s.sys.handover then s
    else if circuitsDiffer then handover (raise Src.VOTER_CHECK .none s)
    else voteOn (fun n => if n = 0 then t0 else if n = 1 then t1 else t2) s)

/-- DISSENT_TIMEOUT (R386): the awaited core's transaction has not arrived in time. -/
def execDissentTimeout (core : Fin 3) (s : State) : Host.Outcome State Fault Refusal :=
  .next (match sfind core.val s.sup.dissentAt with
    | some d =>
      if s.sys.handover ∨ s.t3 < d then s
      else
        let split := (sfind (3 + core.val) s.sup.dissentAt).isSome
        let s1 := dissent core.val { s with sup := { s.sup with dissentAt := [] } }
        if split then handover s1 else s1
    | none => s)

/-- RESYNC_COMPLETE (R387). -/
def execResyncComplete (s : State) : Host.Outcome State Fault Refusal :=
  .next (if s.sup.resync.isSome then ({ s with sup := { s.sup with resync := none } }).bump Reg.RESYNCS else s)

/-! ## Suspect timers (R381) -/

/-- SUSPECT_TIMER_EXPIRY (R381): the timer of a block or vector block has run down and stops. -/
def execSuspectTimerExpiry (u : UnitRef) (s : State) : Host.Outcome State Fault Refusal :=
  .next (match sfind u.id s.aon.suspect with
    | some d => if u.id < 40 ∧ d ≤ s.t3 then { s with aon := { s.aon with suspect := sdel u.id s.aon.suspect } } else s
    | none => s)

end Sys2Proof.Machine
end

