-- ==== Sys2Proof/Machine/Memory.lean ====
section
/-! DEFINITION. Commands on the memories: reads of scratchpads, region caches and DRAM, partial writes, writes into windows, the
scrubber of DRAM, and the watched places and pace monitors of the fabric (02 R37 to R44, 08 R218 to R231, 09 R243 to R249). -/

namespace Sys2Proof.Machine

open Sys2Proof

/-! ## The tile of a failed read (R230, R245) -/

/-- The tile a unit works on: the first of its checkpoint log. -/
def currentTile (s : State) (u : Nat) : Option TileRef := ((s.unit u).log.head?).map fun e => e.ref

/-- The unit's tile is replayed once, then, when the same burst or row fails again, abandoned (R230, R245). -/
def replayCurrent (u : Nat) (cause : Ident) (s : State) : State :=
  match currentTile s u with
  | some t => replayOrAbandon u t cause s
  | none => s

/-- The burst that a read of an address meets. -/
def burstIdent (n : Nat) : Ident := .dram (channelOf (32 * n)) (channelAddress (32 * n))

/-! ## DRAM (R243 to R247) -/

/-- DRAM_READ (R243, R245, R249). -/
def execDramRead (addr : Nat) (g : Option (Fin 64)) (cls : Fin 5) (unit : Option UnitRef) (err : BurstErr) (s : State) :
    Host.Outcome State Fault Refusal :=
  if s.capacity ≤ addr then .fault .dramAddress
  else
    let (o, s1) := readBurst (addr / 32) err (countRead g cls.val s)
    .next (match o, unit with
      | .uncorrectable, some u => replayCurrent u.id (burstIdent (addr / 32)) s1
      | _, _ => s1)

/-- DRAM_PARTIAL_WRITE (R244): the bytes that fall into the burst of `addr`. -/
def execDramPartialWrite (addr : Nat) (bytes : Bytes) (g : Option (Fin 64)) (cls : Fin 5) (err : BurstErr) (s : State) :
    Host.Outcome State Fault Refusal :=
  if s.capacity ≤ addr then .fault .dramAddress
  else .next (writeBurst addr (bytes.take (32 - addr % 32)) g cls.val err s)

/-- DRAM_WRITE_INVALIDATE (R226). -/
def execDramWriteInvalidate (addr : Nat) (bytes : Bytes) (cls : Fin 5) (s : State) : Host.Outcome State Fault Refusal :=
  if s.capacity < addr + bytes.length then .fault .dramAddress
  else .next (outsideWrite addr bytes cls.val s)

/-- DRAM_SCRUB (R246): a correctable burst is corrected in place, an uncorrectable one is left and counted. -/
def execDramScrub (burst : Nat) (err : BurstErr) (s : State) : Host.Outcome State Fault Refusal :=
  if s.capacity ≤ 32 * burst then .fault .dramAddress
  else .next (match readBurst burst err (countRead none 4 s) with
    | (.corrected f, s1) => s1.setBurstErr burst (mergeErr (s1.burstErr burst) [f])
    | (_, s1) => s1)

/-- DRAM_REFRESH (R247): a refresh keeps the contents and takes bandwidth only. -/
def execDramRefresh (_channel : Fin 32) (_bank : Nat) (s : State) : Host.Outcome State Fault Refusal := .next s

/-! ## Region caches (R225, R231) -/

/-- Whether the Mules of region `r` read an address through the region cache: all but the output of a station that runs in
another region, or of one with CROSS_REGION (R225). -/
def accessCached (s : State) (r a : Nat) : Bool :=
  match s.space.find? fun x => decide (x.base ≤ a) && decide (a < x.base + x.size) with
  | some x => match x.owner with
    | .tensor g st => match (s.slot g).pkg, stationOf s g st with
      | some p, some q => readsCached p q r
      | _, _ => true
    | _ => true
  | none => true

/-- The first of some sectors of a line that a read has brought no data of. -/
def lostSector (s : State) (r a : Nat) (cached : Bool) (sectors : List (Fin 4)) : Option Nat :=
  let k := setKey r a
  (sectors.map fun i => 4 * (a / 128) + i.val).find? fun n =>
    if cached then match (s.set k).findIdx? fun l => l.has a with
      | some w => (sectorBytes s k w (n % 4)).isNone
      | none => true
    else decide (decodeBurst (s.burstErr n) = .uncorrectable)

/-- REGION_CACHE_READ (R225, R231): the tile of the reading unit is replayed when a sector brings no data (R245). -/
def execRegionCacheRead (r : Fin 4) (g : Fin 64) (addr : Nat) (sectors : List (Fin 4)) (unit : Option UnitRef)
    (err : List (Fin 4 × ReadErr)) (tag : ReadErr) (s : State) : Host.Outcome State Fault Refusal :=
  if s.capacity ≤ addr then .fault .dramAddress
  else
    let c := accessCached s r.val addr
    let s1 := if c then cachedRead r.val g addr sectors err tag s else uncachedRead r.val g addr sectors s
    .next (match lostSector s1 r.val addr c sectors, unit with
      | some n, some u => replayCurrent u.id (burstIdent n) s1
      | _, _ => s1)

/-! ## Scratchpads and windows (R204, R218 to R222, R229, R230) -/

/-- The worse of a new and a recorded error of a word. -/
def wordVerdict (s : State) (k : Nat) (err : ReadErr) : Nat := max (secDed s err) (min 2 (s.sramErr k))

/-- SCRATCHPAD_READ (R229, R230) by a block, a vector block through its port (R205) or a Mule; what a unit under test finds is
its test's (R400). A row whose content can be copied again is rewritten whole. -/
def execScratchpadRead (b : Fin 32) (row : Fin 8192) (word : Fin 64) (use : RowRead) (err : ReadErr) (s : State) :
    Host.Outcome State Fault Refusal :=
  let k := wordKey b.val row.val word.val
  let who : Ident := .word b.val row.val word.val
  .next (if bankPower s b.val (row.val / 512) ≠ 1 then s
    else
      let v := wordVerdict s k err
      let s0 := s.nextFree
      if v = 0 then s0
      else if v = 1 then raise Src.SCRATCH_CORR who (s0.setSramErr k 0)
      else if (s.unit use.reader.id).status = .inTest then s0.setSramErr k 2
      else
        let s1 := replayCurrent use.reader.id (.word b.val row.val 0) (s0.setSramErr k 2)
        let s2 := if use.content = .window ∨ use.content = .other then s1 else rewriteRow b.val row.val s1
        raise Src.SCRATCH_UNCORR who s2)

/-- WINDOW_WRITE (R219, R220): `station` of graph `g` writes bytes of its output for a frame, at a place in it. -/
def execWindowWrite (b : Fin 32) (w : Fin 16) (g : Fin 64) (station : Nat) (place : HalfPlace) (data : Bytes) (s : State) :
    Host.Outcome State Fault Refusal :=
  let x := s.win (16 * b.val + w.val)
  let half := (x.limit - x.base) / 2
  let a := (x.base + place.frame % 2 * half) * 512 + place.off
  .next (if x.state ≠ .closed ∧ x.owner = g.val + 1 ∧ half * 512 < place.off + data.length then
      dropWrite b.val Src.WINDOW_BOUNDS (.writer b.val g.val station) s
    else windowStore b.val w.val g.val station a data s)

/-! ## Watched places and pace (R37, R42, R44) -/

/-- The limit of a watched place in ns of T3. -/
def stallLimit : StallPlace → Nat
  | .regionArbiter _ | .chipArbiter | .window _ => 50000
  | .bridge _ => 10000

/-- Whether a watched place is a block under test, whose findings are the test's (R400). -/
def stallInTest (s : State) : StallPlace → Bool
  | .window b => decide ((s.unit b.val).status = .inTest)
  | _ => false

/-- HANDSHAKE_STALL (R37): a request has waited `waited` ns. -/
def execHandshakeStall (p : StallPlace) (waited : Nat) (s : State) : Host.Outcome State Fault Refusal :=
  .next (if stallLimit p < waited ∧ !stallInTest s p then raise Src.HANDSHAKE_STALL (.place p) s else s)

/-- Whether the pace monitors run: the chip is neither off, held in reset nor in standby. -/
def paced (s : State) : Bool := !([Phase.off, .heldInReset, .standby].contains s.sys.phase)

/-- PACE_GATE_WINDOW (R42, R44): a gate window of 1 µs of T3 of monitor 0 to 3 of a region, 4 of the control complex, has
ended; one count for each window. -/
def execPaceGateWindow (m : Fin 5) (beats : Nat) (s : State) : Host.Outcome State Fault Refusal :=
  let start := sget dflt0 s.pace m.val
  .next (if !paced s ∨ s.t3 < start + 1000 then s
    else
      let s0 := { s with pace := sset dflt0 s.pace m.val (s.t3 - (s.t3 - start) % 1000) }
      let s1 := s0.setR (Reg.PACE_LIVE m.val) (min beats 0xFFFF)
      if beats < 1250 then s1.bump (Reg.PACE_LOW m.val) else s1)

end Sys2Proof.Machine
end

