-- ==== Sys2Proof/Machine/Gate.lean ====
section
/-! DEFINITION. The publication gate and the task monitors (13 R349 to R362). -/

namespace Sys2Proof.Machine

open Sys2Proof

/-! ## Task monitors -/

/-- A frame overruns its budget (R360): marks, raise and count, then the task and everything downstream abandon it. -/
def overrun (m f : Nat) (s : State) : State :=
  let g := s.r (Reg.MON_GRAPH m) - 1
  let sts := taskStations s m
  let s1 := forEach sts (fun st s => markStation g st f Fsw.DEADLINE s) s
  let s2 := raise Src.TASK_BUDGET (.monitor m) (s1.bump (Reg.MON_OVERRUNS m))
  let s3 := abandonStations g f ((sts.flatMap fun st => downstreamOf s g st).eraseDups) s2
  freeOutBufs (endTask m f s3)

/-- TASK_BUDGET_EXPIRY (R359, R360). A frame that completes in the cycle of the expiry is on time. -/
def execTaskBudgetExpiry (m : Fin 256) (frame : Nat) (s : State) : Host.Outcome State Fault Refusal :=
  .next (match (s.mon m.val).running.find? fun p => p.1 = frame with
    | some p =>
      if s.drained ∨ s.t3 < p.2 + 1000 * s.r (Reg.MON_BUDGET m.val) then s
      else if taskDone s m.val frame then
        if taskAbandoned s m.val frame then endTask m.val frame s else completeTask m.val frame p.2 s
      else overrun m.val frame s
    | none => s)

/-- TASK_ALIVE_EXPIRY (R361): ALIVE_MAX has passed since activation, the last completion or the last such event. -/
def execTaskAliveExpiry (m : Fin 256) (s : State) : Host.Outcome State Fault Refusal :=
  let x := s.mon m.val
  let span := 1000 * s.r (Reg.MON_ALIVE_MAX m.val)
  .next (if s.r (Reg.MON_GRAPH m.val) = 0 ∨ span = 0 ∨ s.drained ∨ s.t3 < x.since + span
      ∨ gstate s (s.r (Reg.MON_GRAPH m.val) - 1) < 3 then s
    else raise Src.TASK_ALIVE (.monitor m.val) ((s.setMon m.val { x with since := x.since + span }).bump (Reg.MON_ALIVE_FAULTS m.val)))

/-! ## The gate -/

/-- The gate reads the tiles of a tensor from DRAM, each whole, and recomputes their check words (R121, R240). -/
def gateTiles (g : Fin 64) (p : Package) (q : Station) (f : Nat) : List Nat → State → Except Ident (List SrcTile) × State
  | [], s => (.ok [], s)
  | j :: t, s => match readChecked (fun a n s => readDram a n (some g) 1 s) g p q f j [] s with
    | (.good o e c k, s1) =>
      let r := gateTiles g p q f t s1
      (r.1.map fun l => { input := 0, index := j, o := o, e := e, codes := c, scales := k } :: l, r.2)
    | (.lost w, s1) => (.error w, s1)
    | (.wrong, s1) => (.error (.tile ⟨g, q.number, f, j⟩), s1)
    | (.missing, s1) => gateTiles g p q f t s1

/-- The payload of a record (R487): the input tensor's valid elements in canonical order, then its scale bytes. -/
def recordPayload (g : Fin 64) (st f : Nat) (s : State) : Except Ident Bytes × State :=
  match ((s.slot g.val).pkg.bind fun p => (p.st? st).bind fun q => (p.producer? q 0).map fun z => (p, z)) with
  | none => (.ok [], s)
  | some (p, z) => match readHeader g z.number f 1 s with
    | (some w, s1) => (.error w, s1)
    | (none, s1) =>
      let js := ((stFrame? s1 g.val z.number f).map fun x => (x.descs.filter fun d => decide (d.kind ≠ 2)).map fun d => d.index).getD []
      let y := gateTiles g p z f js s1
      let a := actOf s1 g.val z.number f
      (y.1.map fun l =>
        let b : OpBuf := { ref := ⟨g, st, f, 0⟩, srcs := l }
        let cells := (List.range (a.2.2 * a.2.1)).flatMap fun r => (List.range a.1).map fun c => srcElem b 0 c (r % max 1 a.2.1) (r / max 1 a.2.1)
        let scales := (List.range (a.2.2 * a.2.1)).flatMap fun r => (List.range (ceilDiv a.1 32)).map fun k =>
          ((srcElem b 0 (32 * k) (r % max 1 a.2.1) (r / max 1 a.2.1)).map Prod.snd).getD 127
        checkBytes (tileFmt z) (fillFree s.free (cells.map fun x => x.map Prod.fst)) scales, y.2)

/-- The gate forms and releases the record of a frame whose data is complete; what its read finds wrong is a TILE_CHECK, and the
data is not used (R117, R121). -/
def releaseWhole (g : Fin 64) (st f : Nat) (s : State) : State :=
  match recordPayload g st f s with
  | (.ok b, s1) => (flushRecords g.val st (releaseRecord g.val st f 0 b s1)).nextFree
  | (.error w, s1) => match w with
    | .tensor _ _ _ => headerStall g.val st f w s1
    | .tile _ => modFrame g.val st f (fun x => { x with stalled := true })
        (raise Src.TILE_CHECK w (markStation g.val st f Fsw.CHECK_MISMATCH s1))
    | _ => s1

/-- Whether the Goose has compared every sample of a station's frame. -/
def gooseClosed (s : State) (g st f : Nat) : Bool :=
  s.gooses.all fun x => x.2.samples.all fun y => !(decide (y.ref.g.val = g) && decide (y.ref.station = st) && decide (y.ref.frame = f))

/-- Whether the freeze and golden verdicts of the camera frame that a source station took have closed. -/
def verdictsClosed (s : State) (g : Nat) (st : Station) (f : Nat) : Bool :=
  match st.params with
  | .source false c => match (stFrame? s g st.number f).bind fun x => x.srcFrame with
    | some no => (s.ctx c).bufs.all fun o => o.no ≠ no || (o.frozenClosed && o.goldenClosed)
    | none => true
  | _ => true

/-- Whether every check of a record has closed (R349). -/
def checksClosed (s : State) (g st f : Nat) : Bool :=
  let ups := upstreamOf s g st
  ups.all (fun u => gooseClosed s g u f && (match stationOf s g u with
    | some q => verdictsClosed s g q f
    | none => true))
    && (s.slot g).monitors.all fun m =>
      !((taskStations s m).any fun u => ups.contains u) || (s.mon m).running.all fun p => p.1 ≠ f

/-- Whether the data of a record is complete: every producer has sent LAST. -/
def dataComplete (s : State) (g st f : Nat) : Bool :=
  match (s.slot g).pkg, stationOf s g st with
  | some p, some q => tileReady s g p q f 0
  | _, _ => false

/-- A publish station hands its record to the gate and closes its counter slot. -/
def handRecord (g st f : Nat) (s : State) : State :=
  freeOutBufs (completeTasks g f (modFrame g st f (fun x => { x with handed := true, slotOpen := false, done := [0], next := 1 }) s))

/-- GATE_RELEASE (R349 to R354): a record whose data is complete is handed over, and released once its checks have
closed or a mark withholds VALID. -/
def execGateRelease (g : Fin 64) (station frame : Nat) (s : State) : Host.Outcome State Fault Refusal :=
  .next (match publishOf s g.val station, stFrame? s g.val station frame with
    | some _, some x =>
      if x.released ∨ x.abandoned ∨ x.stalled ∨ s.drained ∨ !dataComplete s g.val station frame then s
      else
        let s1 := if x.handed then s else handRecord g.val station frame s
        if earlierWaits s1 g.val station frame then s1
        else if checksClosed s1 g.val station frame ∨ fswWithheld (recordWord s1 g.val station frame) (s1.r (Reg.WITHHOLD g.val)) then
          releaseWhole g station frame s1
        else s1
    | _, _ => s)

/-- GATE_WITHHOLD_TIMEOUT (R352): 10 ms after a withholding mark an incomplete record leaves empty, and its publish
station's frame is abandoned. -/
def execGateWithholdTimeout (g : Fin 64) (station frame : Nat) (s : State) : Host.Outcome State Fault Refusal :=
  .next (match stFrame? s g.val station frame with
    | some x => match x.markAt with
      | some t =>
        if x.released ∨ x.abandoned ∨ s.drained ∨ s.t3 < t + 10000000 ∨ (publishOf s g.val station).isNone then s
        else if dataComplete s g.val station frame ∧ !x.stalled then
          if earlierWaits s g.val station frame then s else releaseWhole g station frame s
        else freeOutBufs (abandonStation g.val station frame s)
      | none => s
    | none => s)

end Sys2Proof.Machine
end

