-- ==== Sys2Proof/Machine/Ift.lean ====
section
/-! DEFINITION. In-field test and golden test slices (15 R392 to R407, R411 to R417). -/

namespace Sys2Proof.Machine

open Sys2Proof

/-! ## The test package (R393 to R395) -/

/-- A pattern entry. -/
def parsePattern (e : Bytes) : Pattern :=
  ⟨field e 0 1, field e 1 1, field e 2 1, field e 4 4, field e 8 4, field e 0xC 4, field e 0x10 8, field e 0x18 4⟩

/-- The pattern entries of a test package. -/
def patternsOf (b : Bytes) : List Pattern :=
  (List.range (field b 6 2)).map fun i => parsePattern (slice b (32 + 32 * i) 32)

/-- Reason 0x0003. -/
def testHeaderBad (b : Bytes) : Bool :=
  decide (slice b 0 4 ≠ [0x43#8, 0x54#8, 0x54#8, 0x50#8]) || decide (field b 4 2 ≠ 1)
    || decide (field b 8 4 ≠ b.length) || decide (2 ^ 24 < b.length) || decide (b.length < 96)

/-- Reason 0x0004. -/
def testReservedBad (b : Bytes) : Bool :=
  !zeroAt b 0x10 16 || (List.range (field b 6 2)).any fun i =>
    !zeroAt (slice b (32 + 32 * i) 32) 3 1 || !zeroAt (slice b (32 + 32 * i) 32) 0x1C 4

/-- Whether one entry's fields lie in their ranges (R393). -/
def patternOk (n len : Nat) (q : Pattern) : Bool :=
  within q.kind 1 5 && (if q.kind = 5 then decide (q.pipe < 4) else decide (q.pipe = 0 ∧ q.pipeBeats = 0))
    && (if q.kind = 3 ∨ q.kind = 5 then decide (q.format = 0) else fmtCodeOk q.format)
    && decide (q.dataOff % 64 = 0) && decide (q.dataSize ≤ if q.kind = 5 then 1048576 else 49152)
    && decide (32 + 32 * n ≤ q.dataOff) && decide (q.dataOff + q.dataSize ≤ len - 64)

/-- Whether no two data ranges of a list overlap. -/
def dataApart : List Pattern → Bool
  | [] => true
  | q :: t => t.all (fun x => !rangesMeet q.dataOff q.dataSize x.dataOff x.dataSize) && dataApart t

/-- Reason 0x0006. -/
def testRangeBad (b : Bytes) : Bool :=
  let n := field b 6 2
  let l := patternsOf b
  !within n 5 256 || decide (b.length < 96 + 32 * n) || !l.all (patternOk n b.length) || !dataApart l
    || [1, 2, 3, 4].any (fun k => !l.any fun q => q.kind = k)
    || (List.range 4).any fun p => decide ((l.filter fun q => decide (q.kind = 5 ∧ q.pipe = p)).length ≠ 1)

/-- The beats of a slot of one kind (R395). -/
def slotBeats (l : List Pattern) (k : Nat) : Nat :=
  ((l.filter fun q => q.kind = k).map fun q => q.beats + ceilDiv q.dataSize 256).sum + 512

/-- Reason 0x0007 (R395). -/
def testBoundBad (l : List Pattern) : Bool :=
  [1, 2, 3].any (fun k => decide (1875000 < slotBeats l k)) || decide (125000 < slotBeats l 4)
    || l.any fun q => decide (q.kind = 5 ∧ 625000 < q.pipeBeats + q.beats)

/-- The test load result code (R394, notes/assumptions/20.md for the order); `key` is the firmware's signer key and
`installed` the VERSION installed, none at the check of a baseline. -/
def testCheck (key : Bytes) (installed : Option Nat) (b : Bytes) : Nat :=
  if !ecdsaVerify key (sha256 (b.take (b.length - 64))) (b.drop (b.length - 64)) then 0x0001
  else if testHeaderBad b then 0x0003
  else if testReservedBad b then 0x0004
  else if testRangeBad b then 0x0006
  else if testBoundBad (patternsOf b) then 0x0007
  else if field b 0xC 4 < installed.getD 0 then 0x000D
  else 0x0000

/-- The package of an accepted image. -/
def testPkgOf (b : Bytes) : TestPkg := { image := b, version := field b 0xC 4, patterns := patternsOf b }

/-- The end of a write of TEST_PACKAGE (R392, R394, R396). -/
def testPackageEnd (b : Bytes) (s : State) : State :=
  let code := testCheck s.sys.running.signer (some s.sys.testPkg.version) b
  let s1 := s.setR Reg.TEST_LOAD_STATUS code
  if code = 0 then
    { s1.setR Reg.TEST_VERSION (testPkgOf b).version with
      sys := { s1.sys with testPkg := testPkgOf b }, flash := { s1.flash with testPkg := some (testPkgOf b) } }
  else s1

/-! ## Slots (R397 to R405) -/

/-- The kind code of a unit's patterns. -/
def testKind (u : Nat) : Nat := if u < 32 then 1 else if u < 40 then 2 else if u < 56 then 3 else 4

/-- The test start time of a unit (R401). -/
def testStart (s : State) (u : Nat) : Nat := sget dflt0 s.ift.start u

/-- The block whose segment 63 a unit's patterns use (R398); a Mule names none. -/
def patternBlock (u : Nat) : Option Nat :=
  if u < 32 then some u else if u < 40 then some (8 * ((u - 32) / 2) + 4 * ((u - 32) % 2)) else none

/-- Copies a unit's patterns, in entry order, into rows 0 to 95 of segment 63 (R398). -/
def copyPatterns (image : Bytes) (pats : List Pattern) (u : Nat) (s : State) : State :=
  match patternBlock u with
  | some b => forEach (pats.filter fun q => q.kind = testKind u) (fun q s =>
      writePad b (63 * 65536) (slice image q.dataOff q.dataSize) s) s
  | none => s

/-- A unit is reset for its test, without a replay set (R398 step 1). -/
def resetForTest (u : Nat) (s : State) : State :=
  let s1 := resetUnit u s
  s1.setUnit u { s1.unit u with resetting := false }

/-- A withdrawn group begins its slot (R398, R403). -/
def beginSlot (us : List Nat) (s : State) : State :=
  let pats := s.sys.testPkg.patterns
  let s1 := setStatus us .inTest (forEach us resetForTest s)
  let s2 := { s1 with ift := { s1.ift with
    start := us.foldl (fun (m : SMap Nat) u => sset dflt0 m u s.t3) s1.ift.start
    due := s1.ift.due.filter fun u => !us.contains u
    overdue := s1.ift.overdue.filter fun u => !us.contains u
    slots := s1.ift.slots ++ [⟨us, pats⟩] } }
  forEach us (copyPatterns s.sys.testPkg.image pats) s2

/-- Puts a unit into the due list: earlier start times first, then lower numbers (R402). -/
def insertDue (s : State) (u : Nat) : List Nat → List Nat
  | [] => [u]
  | v :: t =>
    if testStart s u < testStart s v ∨ (testStart s u = testStart s v ∧ u < v) then u :: v :: t
    else v :: insertDue s u t

/-- IFT_DUE (R401, R404): 70 ms after its test start time a unit falls due. -/
def execIftDue (u : UnitRef) (s : State) : Host.Outcome State Fault Refusal :=
  let started := (s.unit u.id).status = .inTest
  .next (if s.drained ∨ !working s ∨ s.ift.due.contains u.id ∨ started ∨ s.t3 < testStart s u.id + 70000000 then s
    else
      let s1 := { s with ift := { s.ift with due := insertDue s u.id s.ift.due } }
      if u.id < 56 then tryWithdraw u.id s1 else s1)

/-- IFT_OVERDUE (R401): 100 ms after its test start time a unit that has begun no slot is overdue, once, and it stays due. -/
def execIftOverdue (u : UnitRef) (s : State) : Host.Outcome State Fault Refusal :=
  .next (if s.drained ∨ !working s ∨ s.ift.overdue.contains u.id ∨ s.t3 < testStart s u.id + 100000000 then s
    else
      let s1 := { s with ift := { s.ift with
        overdue := s.ift.overdue ++ [u.id], due := if s.ift.due.contains u.id then s.ift.due else insertDue s u.id s.ift.due } }
      raise Src.IFT_OVERDUE (.unit u.id) (s1.bump Reg.OVERDUE))

/-- IFT_SLOT_START (R398, R402, R405). -/
def execIftSlotStart (u : UnitRef) (s : State) : Host.Outcome State Fault Refusal :=
  let us := groupOf s u.id
  .next (if s.drained ∨ !working s ∨ us.any (slicePending s) ∨ !(us.any fun v => s.ift.due.contains v)
      ∨ !us.all (fun v => decide ((s.unit v).status = .withdrawn)) then s
    else beginSlot us s)

/-- Records a failed unit: IFT_FAILED and IFT_FAIL (R400); the SUSPECT entry holds the units of R382 and R388 alone (R391). -/
def failUnit (u : Nat) (s : State) : State :=
  raise Src.IFT_FAIL (.unit u) (s.setR Reg.IFT_FAILED (setBit (s.r Reg.IFT_FAILED) u))

/-- Units that failed their test: raised each, then the chip drains (R400, R433). -/
def failUnits (us : List Nat) (s : State) : State :=
  if us = [] then s else drainChip Src.IFT_FAIL (forEach us failUnit s)

/-- The signatures a unit's patterns must give (R399). -/
def expected (pats : List Pattern) (u : Nat) : List (BitVec 64) :=
  (pats.filter fun q => q.kind = testKind u).map fun q => BitVec.ofNat 64 q.expect

/-- A unit returns to its stations (R398 step 3). -/
def rejoin (u : Nat) (s : State) : State :=
  let s1 := setStatus [u] .inService s
  if u < 32 then reopenWindows u s1 else s1

/-- IFT_SLOT_END (R399, R400): the slot that holds unit `u` ends with these signatures; `ownChecksFailed` are the units
whose own checks found an error. -/
def execIftSlotEnd (u : UnitRef) (signatures : List (UnitRef × List (BitVec 64))) (ownChecksFailed : List UnitRef) (s : State) :
    Host.Outcome State Fault Refusal :=
  .next (match s.ift.slots.find? fun x => x.units.contains u.id with
    | none => s
    | some x =>
      let given (v : Nat) : List (BitVec 64) := ((signatures.find? fun p => p.1.id = v).map fun p => p.2).getD []
      let bad := x.units.filter fun v => decide (given v ≠ expected x.patterns v) || ownChecksFailed.any fun w => w.id = v
      let s1 := { s with ift := { s.ift with slots := s.ift.slots.filter fun y => y ≠ x } }
      let s2 := (forEach x.units (fun v s => rejoin v (resetForTest v s)) s1).bumpBy Reg.SLOTS_RUN x.units.length
      settleUnits (failUnits bad s2))

/-- GOOSE_TEST (R407): a due Goose whose queue is empty runs its KIND 4 patterns. -/
def execGooseTest (r : Fin 4) (signatures : List (BitVec 64)) (s : State) : Host.Outcome State Fault Refusal :=
  let u := 56 + r.val
  .next (if s.drained ∨ !working s ∨ !s.ift.due.contains u ∨ (s.goose r.val).samples ≠ [] then s
    else
      let s1 := { s with ift := { s.ift with
        start := sset dflt0 s.ift.start u s.t3
        due := s.ift.due.filter fun v => v ≠ u
        overdue := s.ift.overdue.filter fun v => v ≠ u } }
      if signatures = expected s.sys.testPkg.patterns u then s1 else failUnits [u] s1)

/-! ## Golden slices (R411 to R417) -/

/-- The KIND 5 entry of a pipe. -/
def goldenPattern (pkg : TestPkg) (p : Nat) : Option Pattern := pkg.patterns.find? fun q => decide (q.kind = 5 ∧ q.pipe = p)

/-- Whether the reserved share of a slice fits a frame period in µs (R412): 3 % of the period. -/
def shareOk (s : State) (p period : Nat) : Bool :=
  match goldenPattern s.sys.testPkg p with
  | some q => decide ((q.pipeBeats + q.beats) * 100 ≤ 3 * period * 1250)
  | none => true

/-- The golden context of a pipe, numbered 0 to 35. -/
def goldenCtx (s : State) (p : Nat) : Nat := 9 * p + s.r (Reg.GOLDEN_CTX p)

/-- Whether slices of a pipe are presented: the golden context's port is enabled (R417). -/
def goldenActive (s : State) (p : Nat) : Bool :=
  let port := s.r (Reg.CTX_PORT (goldenCtx s p))
  decide (port < 24) && s.on (Reg.CAM_ENABLE port)

/-- Applies a function to a context. -/
def modCtx (c : Nat) (f : Ctx → Ctx) (s : State) : State := s.setCtx c (f (s.ctx c))

/-- Applies a function to one output frame of a context. -/
def modOut (c no : Nat) (f : OutFrame → OutFrame) (s : State) : State :=
  modCtx c (fun x => { x with bufs := x.bufs.map fun o => if o.no = no then f o else o }) s

/-- A mark found after ingest: attributed to every source station that takes the frame (R350, R410, R415). -/
def markTakers (c no b : Nat) (s : State) : State :=
  match (s.ctx c).bufs.find? fun o => o.no = no with
  | none => s
  | some o => forEach o.takers (fun t s => markStation t.1 t.2.1 t.2.2 b s) s

/-- Closes the golden verdict of one frame (R414, R415). -/
def closeGolden (c no : Nat) (ok : Bool) (s : State) : State :=
  let s1 := if ok then s else markTakers c no Fsw.TEST_INCOMPLETE s
  freeOutBufs (modOut c no (fun o => { o with goldenClosed := true }) s1)

/-- The frames of a pipe that wait for a verdict, with the slice that covers them: context, frame number. -/
def goldenFrames (s : State) (p : Nat) (cover : Option Nat) : List (Nat × Nat) :=
  (List.range 9).flatMap fun k =>
    ((s.ctx (9 * p + k)).bufs.filter fun o => o.isDone && !o.goldenClosed && decide (o.covered = cover)).map fun o => (9 * p + k, o.no)

/-- Closes the verdict of every frame covered so. -/
def closeFrames (p : Nat) (cover : Option Nat) (ok : Bool) (s : State) : State :=
  forEach (goldenFrames s p cover) (fun x s => closeGolden x.1 x.2 ok s) s

/-- Applies a function to a pipe. -/
def modPipe (p : Nat) (f : Pipe → Pipe) (s : State) : State := s.setPipe p (f (s.pipe p))

/-- The presented slice of a pipe. -/
def currentSlice (s : State) (p : Nat) : Option Slice := (s.pipe p).slices.find? fun x => x.presented

/-- A slice counted incomplete (R415): the second in a row raises GOLDEN_FAULT. -/
def countIncomplete (p : Nat) (s : State) : State :=
  let again := (s.pipe p).lastIncomplete
  let s1 := modPipe p (fun x => { x with lastIncomplete := true }) (s.bump (Reg.GOLDEN_INCOMPLETE p))
  if again then raise Src.GOLDEN_FAULT (.pipe p) s1 else s1

/-- Presents the golden input of a pipe (R411 step 1, R396), unless the golden context allows none (R417). -/
def presentSlice (p c : Nat) (s : State) : State :=
  if !goldenActive s p then closeFrames p none false s
  else
    let k := goldenPattern s.sys.testPkg p
    let e := (k.map fun q => q.expect).getD 0
    let data := (k.map fun q => slice s.sys.testPkg.image q.dataOff q.dataSize).getD []
    modPipe p (fun x => { x with
      sliceSeq := x.sliceSeq + 1
      slices := x.slices ++ [{ ctx := c, seqNo := x.sliceSeq, expect := e, presentedAt := s.t3, input := data }] }) s

/-- A frame start passes the deadline of a presented slice (R414, R415). -/
def passDeadline (p : Nat) (x : Slice) (s : State) : State :=
  let s1 := if x.taken then closeFrames p (some x.seqNo) false s else closeFrames p none false s
  countIncomplete p (modPipe p (fun y => { y with slices := y.slices.map fun z =>
    if z.seqNo = x.seqNo ∧ z.presented then { z with decided := true } else z }) s1)

/-- What a frame start of context `c` does to the golden slices of its pipe (R411 to R417). -/
def goldenFrameStart (c : Nat) (s : State) : State :=
  let p := c / 9
  let s0 := s.applyStaged fun k => decide (k = Reg.GOLDEN_CTX p)
  if s0.drained then s0
  else
    let queued := (s0.pipe p).slices.find? fun x => !x.presented && decide (x.ctx = c)
    let s1 := if queued.isSome then
        countIncomplete p (modPipe p (fun x => { x with slices := x.slices.filter fun z => z.presented, lastPipeWordBad := false }) s0)
      else s0
    let s2 := match currentSlice s1 p with
      | some x => if x.ctx = c ∧ !x.decided then passDeadline p x s1 else s1
      | none => s1
    let open_ := (currentSlice s2 p).any fun x => !x.taken
    let s3 := if !goldenActive s2 p ∧ !open_ then closeFrames p none false s2 else s2
    if c ≠ goldenCtx s3 p ∨ !goldenActive s3 p ∨ s3.drained then s3
    else match currentSlice s3 p with
      | none => presentSlice p c s3
      | some _ =>
        let s4 := if (s3.pipe p).slices.any fun x => !x.presented then
            countIncomplete p (modPipe p (fun x => { x with slices := x.slices.filter fun z => z.presented }) s3)
          else s3
        modPipe p (fun x => { x with slices := x.slices ++ [{ ctx := c, seqNo := 0, expect := 0, presented := false }] }) s4

/-- A queued slice is presented when the running one ends (R416). -/
def presentQueued (p : Nat) (s : State) : State :=
  match (s.pipe p).slices.find? fun x => !x.presented with
  | some x => presentSlice p x.ctx (modPipe p (fun y => { y with slices := y.slices.filter fun z => z.presented }) s)
  | none => s

/-- A frame's last line has left S10: it waits for a slice, or its verdict closes at once (R414, R417). -/
def goldenFrameDone (p c no : Nat) (s : State) : State :=
  match currentSlice s p with
  | some x =>
    if !x.taken then (if x.decided then closeGolden c no false s else s)
    else if goldenActive s p ∧ !s.drained then s else closeGolden c no false s
  | none => if goldenActive s p ∧ !s.drained then s else closeGolden c no false s

/-- The memory lane takes the golden input (R411 step 2, R414): the waiting frames are covered, both units called. -/
def goldenTake (p : Nat) (s : State) : State :=
  match currentSlice s p with
  | none => s
  | some x =>
    let s1 := forEach (goldenFrames s p none) (fun f s => modOut f.1 f.2 (fun o => { o with covered := some x.seqNo }) s) s
    let s2 := if x.decided then closeFrames p (some x.seqNo) false s1 else s1
    let s3 := modPipe p (fun y => { y with slices := y.slices.map fun z =>
      if z.presented then { z with taken := true } else z }) s2
    tryWithdraw (33 + 2 * p) (tryWithdraw (8 * p + 7) s3)

/-- The slice's units are released: a due group whose region's slot is free begins its slot at once, any other rejoins
(R413). -/
def releaseSliceUnit (u : Nat) (s : State) : State :=
  let us := groupOf s u
  if (s.unit u).status ≠ .slice then s
  else
    let s1 := setStatus us .inService s
    if us.all (fun v => decide ((s.unit v).status = .slice)) ∧ us.any (fun v => s.ift.due.contains v)
        ∧ !(us.any fun v => slicePending s1 v || slotUsed s1 us (regionOf v)) then
      beginSlot us (setStatus us .withdrawn s1)
    else s1

/-- A slice ends: it leaves the pipe, a queued one is presented, the units are released. -/
def endSlice (p : Nat) (s : State) : State :=
  let s1 := modPipe p (fun y => { y with slices := y.slices.filter fun z => !z.presented }) s
  settleUnits (releaseSliceUnit (33 + 2 * p) (releaseSliceUnit (8 * p + 7) (presentQueued p s1)))

/-- The golden input met an uncorrectable word (R232): the slice is incomplete, and no mismatch is raised. -/
def goldenInputFailed (p : Nat) (s : State) : State :=
  match currentSlice s p with
  | none => s
  | some x =>
    let s1 := modPipe p (fun y => { y with lastPipeWordBad := false }) s
    let s2 := if x.decided then s1 else countIncomplete p (closeFrames p (some x.seqNo) false s1)
    endSlice p s2

/-- Frees the raw frame buffer of a frame. Its DRAM space is released when the port has been disabled since (R274). -/
def freeRaw (f : CamFrame) (s : State) : State :=
  let x := s.port f.port
  let mine := x.epoch = f.epoch
  let s1 := if mine then s.setPort f.port { x with rawUsed := x.rawUsed.filter (· ≠ f.rawSlot) } else s
  if mine ∧ s.on (Reg.CAM_ENABLE f.port) then s1 else freeSpace (fun o => decide (o = .raw f.port (3 * f.epoch + f.rawSlot))) s1

/-- Whether the memory lane still holds its frame's raw buffer: some stored line is unread (R293). -/
def Lane.holdsRaw (l : Lane) : Bool :=
  match l.frame with
  | some f => f.toRaw && decide (l.img.length < f.pix.length)
  | none => false

/-- A pipe becomes suspect (R433, R563): its contexts stop, and frames in its lanes or waiting in raw buffers for its
memory lane are discarded. -/
def suspectPipe (p : Nat) (s : State) : State :=
  let s1 := s.setR Reg.SUSPECT_PIPE (setBit (s.r Reg.SUSPECT_PIPE) p)
  let x := s1.pipe p
  let held := if x.mem.holdsRaw then x.mem.frame.toList else []
  let s2 := forEach (x.ready ++ held) freeRaw s1
  let s3 := forEach (List.range 9) (fun k s => modCtx (9 * p + k) (fun c => { c with bufs := c.bufs.filter fun o => o.isDone }) s) s2
  drainChip Src.GOLDEN_MISMATCH (modPipe p (fun y => { y with ready := [], inl := {}, mem := {} }) s3)

/-- GOLDEN_SLICE_COMPLETE (R411 to R416): the reference slice of a pipe ends. The pipe word is that of the tiles that the pipe
has written, a defect of the comparison flipping bits of it; the slice word is the reference slice's, whose chain only the device
reads (R393). -/
def execGoldenSliceComplete (p : Fin 4) (pipeFlips sliceWord : BitVec 32) (s : State) : Host.Outcome State Fault Refusal :=
  .next (match currentSlice s p.val with
    | none => s
    | some x =>
      if s.drained ∨ !x.taken ∨ !x.inDone ∨ (s.unit (8 * p.val + 7)).status ≠ .slice ∨ (s.unit (33 + 2 * p.val)).status ≠ .slice then s
      else
        let pipeBad := decide ((x.pipeWord ^^^ pipeFlips).toNat ≠ bitsOf x.expect 31 0)
        let bad := pipeBad || decide (sliceWord.toNat ≠ bitsOf x.expect 63 32)
        let suspect := pipeBad && (s.pipe p.val).lastPipeWordBad
        let s1 := modPipe p.val (fun y => { y with lastPipeWordBad := pipeBad })
          (s.setR (Reg.GOLDEN_LAST_US p.val) ((s.t3 - x.presentedAt) / 1000))
        let s2 := if bad then raise Src.GOLDEN_MISMATCH (.pipe p.val) (s1.bump (Reg.GOLDEN_MISMATCHES p.val)) else s1.bump (Reg.GOLDEN_PASS p.val)
        let s3 := if x.decided then s2
          else if bad then countIncomplete p.val (closeFrames p.val (some x.seqNo) false s2)
          else modPipe p.val (fun y => { y with lastIncomplete := false }) (closeFrames p.val (some x.seqNo) true s2)
        if suspect then suspectPipe p.val s3 else endSlice p.val s3)

/-- The golden context's port of a pipe is disabled (R417): waiting frames that no presented, untaken slice can cover
close incomplete. -/
def goldenPortDisabled (c : Nat) (s : State) : State :=
  let p := c / 9
  if c ≠ goldenCtx s p ∨ (currentSlice s p).any fun x => !x.taken then s else closeFrames p none false s

end Sys2Proof.Machine
end

