-- ==== Sys2Proof/Machine/Ring.lean ====
section
/-! DEFINITION. The history ring (09 R250 to R259): reservations, lines, headers, freeze, release and readout. -/

namespace Sys2Proof.Machine

open Sys2Proof

/-- The device address of the ring's first byte: the ring holds the highest RING_SIZE GiB (R250). -/
def ringBase (s : State) : Nat := s.capacity - ringBytes s

/-- Writes ring bytes as arbitration class 1 (R274). -/
def ringWrite (off : Nat) (b : Bytes) (s : State) : State := outsideWrite (ringBase s + off) b 0 s

/-- Bits per pixel of a pixel data type (R265). -/
def pixelBits : Nat → Nat
  | 0x2A => 8
  | 0x2B => 10
  | 0x2C => 12
  | 0x2D => 14
  | 0x2E => 16
  | _ => 0

/-- Bytes of one pixel line as CSI-2 packs it (R265). -/
def lineBytes (q : ParamSet) : Nat := q.width * pixelBits q.dataType / 8

/-- The stride of a stored line (R252). -/
def ringStride (q : ParamSet) : Nat := ceilDiv (lineBytes q) 64 * 64

/-- The size of a record (R252). -/
def recordLength (q : ParamSet) : Nat := 64 + (q.lines + q.embLines) * ringStride q

/-- Drops every record that a range overlaps: the oldest-record pointer advances past them (R253). -/
def makeRoom (off len : Nat) (l : List RingRec) : List RingRec := l.filter fun x => !rangesMeet x.offset x.length off len

/-- The 0x38 bytes of a header and the two words that end it (R255). -/
def sealHeader (b : Bytes) : Bytes := b ++ leBytes 4 (crc32c b) ++ leBytes 4 0

/-- The offset of the previous record of a port, all ones when none remains (R255). -/
def prevOffset (s : State) (port seq : Nat) : Nat :=
  match (s.ring.recs.filter fun x => decide (x.port = port) && decide (x.seq < seq)).getLast? with
  | some x => x.offset
  | none => 2 ^ 64 - 1

/-- A pad record's header (R252, R255): it stores no line; virtual channel, data type, context, timestamp, sensor counter, the
marks, context and port of FSW and the multiple of 64 in LINE_BYTES are free (notes/assumptions/58.md). -/
def padHeader (s : State) (seq len : Nat) : Bytes :=
  let open_ (n k : Nat) : Bytes := (List.range n).map fun i => Config.freeByte (s.free + k + i)
  sealHeader (leBytes 2 1 ++ [0xFE#8] ++ open_ 3 0 ++ leBytes 2 0 ++ leBytes 8 seq ++ open_ 8 3
    ++ leBytes 4 (leVal (open_ 4 11) &&& 0xFFFF001E) ++ open_ 4 15 ++ leBytes 4 (leVal (open_ 4 19) / 64 * 64) ++ leBytes 1 0
    ++ leBytes 3 0 ++ leBytes 4 len ++ leBytes 4 (crc32c []) ++ leBytes 8 (prevOffset s 0xFE seq))

/-- Fills the space before the ring's end with a pad record when a record of `len` bytes does not fit (R252). -/
def padRing (len : Nat) (s : State) : State :=
  let x := s.ring
  let room := ringBytes s - x.writeOff
  if len ≤ room then s
  else if room = 0 then { s with ring := { x with writeOff := 0 } }
  else
    let r : RingRec := ⟨x.nextSeq, x.writeOff, room, 0xFE, true⟩
    let s1 := { s with ring := { x with recs := makeRoom x.writeOff room x.recs ++ [r], nextSeq := x.nextSeq + 1, writeOff := 0 } }
    ringWrite x.writeOff (padHeader s1 x.nextSeq room) { s1 with free := s1.free + 23 }

/-- Reserves a record for a frame of a port (R252, R253); answers its sequence number. -/
def ringReserve (port : Nat) (q : ParamSet) (s : State) : Nat × State :=
  let len := recordLength q
  let s1 := padRing len s
  let x := s1.ring
  let r : RingRec := ⟨x.nextSeq, x.writeOff, len, port, false⟩
  (x.nextSeq, { s1 with ring := { x with recs := makeRoom x.writeOff len x.recs ++ [r], nextSeq := x.nextSeq + 1
                                         writeOff := x.writeOff + len } })

/-- The record of a sequence number, while it is not overwritten. -/
def ringRec? (s : State) (seq : Nat) : Option RingRec := s.ring.recs.find? fun x => x.seq = seq

/-- How many lines of a frame are stored. -/
def CamFrame.stored (f : CamFrame) : Nat := f.emb.length + f.pix.length

/-- Writes the frame's next stored line into its record as it arrives (R254). -/
def ringLine (f : CamFrame) (b : Bytes) (s : State) : State :=
  match f.inRing.bind (ringRec? s) with
  | some r => ringWrite (r.offset + 64 + f.stored * ringStride f.params) b s
  | none => s

/-- The header of a closed frame's record (R255). -/
def ringHeader (s : State) (f : CamFrame) (r : RingRec) : Bytes :=
  sealHeader (leBytes 2 1 ++ leBytes 1 f.port ++ leBytes 1 (s.r (Reg.CAM_VC f.port)) ++ leBytes 1 f.params.dataType
    ++ leBytes 1 f.ctx ++ leBytes 2 f.stored ++ leBytes 8 r.seq ++ leBytes 8 f.sof ++ leBytes 4 f.word.toNat
    ++ leBytes 4 f.fc ++ leBytes 4 (ringStride f.params) ++ leBytes 1 f.emb.length ++ leBytes 3 0 ++ leBytes 4 r.length
    ++ leBytes 4 (f.dataCrc ^^^ 0xFFFFFFFF#32).toNat
    ++ leBytes 8 (prevOffset s r.port r.seq))

/-- A closed frame's record gets its header in one write; a freezing ring may become frozen (R254, R256). -/
def ringClose (f : CamFrame) (s : State) : State :=
  match f.inRing.bind (ringRec? s) with
  | some r =>
    let s1 := ringWrite r.offset (ringHeader s f r) s
    ringSettle { s1 with ring := { s1.ring with recs := s1.ring.recs.map fun x => if x.seq = r.seq then { x with complete := true } else x } }
  | none => s

/-- The start of a frame of a recorded port: a record is reserved, or the frame counted as unrecorded (R251, R256). -/
def ringOpen (port : Nat) (q : ParamSet) (s : State) : Option Nat × State :=
  if !bit (s.r Reg.RING_PORTS) port ∨ s.r Reg.RING_STATE = 3 then (none, s)
  else if s.r Reg.RING_STATE = 0 ∧ s.sys.phase ≠ .enteringStandby then
    let x := ringReserve port q s
    (some x.1, x.2)
  else if s.r Reg.RING_STATE = 0 then (none, s)
  else (none, s.bump Reg.RING_UNRECORDED)

/-- The oldest and the newest complete record. -/
def ringEnds (s : State) : Option RingRec × Option RingRec :=
  let l := s.ring.recs.filter fun x => x.complete
  (l.head?, l.getLast?)

/-- The abort code of a ring command (R257): 1 freeze, 2 release. -/
def ringCmdRefusal (s : State) (cmd : Nat) : Option Abort :=
  if cmd ≠ 1 ∧ cmd ≠ 2 then some 5
  else if s.r Reg.RING_STATE = 3 ∨ (cmd = 2 ∧ s.r Reg.RING_STATE ≠ 2) then some 8
  else none

/-- An accepted ring command (R256, R257). -/
def ringCmd (cmd : Nat) (s : State) : State :=
  if cmd = 1 then ringFreezeNow s else s.setR Reg.RING_STATE 0

/-- The value of RING_DATA as DRAM holds it: 65,536 bytes from the cursor on, continuing at offset 0 past the end (R259). -/
def ringData (s : State) : Bytes :=
  let k := min 65536 (ringBytes s - s.r Reg.RING_CURSOR)
  s.memRead (ringBase s + s.r Reg.RING_CURSOR) k ++ s.memRead (ringBase s) (65536 - k)

/-- One segment of a readout of RING_DATA: `len` bytes from byte `off` on, read in class 5 (R240, R243, R259). -/
def ringRead (off len : Nat) (s : State) : Bytes × State :=
  let n := ringBytes s
  let c := (s.r Reg.RING_CURSOR + off) % max n 1
  let k := min len (n - c)
  let x := readLoose (ringBase s + c) k 4 s
  let y := readLoose (ringBase s) (len - k) 4 x.2
  (x.1 ++ y.1, y.2)

/-- The ring after a warm reset (R258): a record without a header leaves, and recording resumes after the newest
complete one. -/
def ringAfterReset (s : State) : State :=
  let l := s.ring.recs.filter fun x => x.complete
  let s1 := { s with ring := { s.ring with recs := l, writeOff := match l.getLast? with
    | some r => r.offset + r.length
    | none => 0 } }
  if s1.r Reg.RING_STATE = 1 then s1.setR Reg.RING_STATE 2 else s1

end Sys2Proof.Machine
end

