-- ==== Sys2Proof/Machine/Pixels.lean ====
section
/-! DEFINITION. The stages of a pipe on pixels, the output conversion and the statistics (11 R296, R306 to R314). -/

namespace Sys2Proof.Machine

open Sys2Proof

/-! ## Numbers -/

/-- n / d to nearest, ties to even, for d above 0. -/
def divEven (n d : Int) : Int :=
  let q := n / d
  let r := n % d
  if d < 2 * r ∨ (2 * r = d ∧ q % 2 = 1) then q + 1 else q

/-- An intermediate result: rounded and clamped to 16 bits (R306). -/
def pix16 (n d : Int) : Int := max 0 (min 65535 (divEven n d))

/-- A coordinate mirrored about the edge pixels 0 and n - 1 (R307). -/
def mirror (n : Nat) (v : Int) : Nat :=
  if n ≤ 1 then 0
  else
    let p := 2 * ((n : Int) - 1)
    let m := v % p
    if m < n then m.toNat else (p - m).toNat

/-! ## S1: unpacking (R265, R306) -/

/-- The pixels of a packed line, left-aligned to 16 bits, `n` of them. -/
def unpackLine (dataType : Nat) (b : Bytes) (n : Nat) : List Nat :=
  let at' (i : Nat) : Nat := (nth 0#8 b i).toNat
  (List.range n).map fun i => match dataType with
    | 0x2A => at' i * 256
    | 0x2B => (at' (i / 4 * 5 + i % 4) * 4 + at' (i / 4 * 5 + 4) / 4 ^ (i % 4) % 4) * 64
    | 0x2C => (at' (i / 2 * 3 + i % 2) * 16 + at' (i / 2 * 3 + 2) / 16 ^ (i % 2) % 16) * 16
    | 0x2D =>
      let low := at' (i / 4 * 7 + 4) + 256 * at' (i / 4 * 7 + 5) + 65536 * at' (i / 4 * 7 + 6)
      (at' (i / 4 * 7 + i % 4) * 64 + low / 64 ^ (i % 4) % 64) * 4
    | _ => at' (2 * i) + 256 * at' (2 * i + 1)

/-- Folds a line's pixels into the content signature, two at a time (R408). -/
def foldLine (sig : BitVec 64) (l : List Nat) : BitVec 64 :=
  (List.range (l.length / 2)).foldl (fun s i => misr s (BitVec.ofNat 64 (nth 0 l (2 * i) + 65536 * nth 0 l (2 * i + 1)))) sig

/-! ## The image of a frame -/

/-- What the stages read: configured width and lines, stored lines so far, parameters. -/
structure Image where
  q : ParamSet
  raw : List (List Nat)
  deriving DecidableEq, Repr

/-- The height a neighbourhood is mirrored in: the stored lines (R307). -/
def Image.h (m : Image) : Nat := m.raw.length

/-- The mosaic phase (R306). -/
def phaseOf (x y : Nat) : Nat := y % 2 * 2 + x % 2

/-- A stage's bit in STAGE_EN. -/
def Image.on (m : Image) (b : Nat) : Bool := bit m.q.stageEn b

/-- S2: black level. -/
def Image.s2 (m : Image) (x y : Nat) : Int :=
  let v : Int := (nth 0 (nth [] m.raw y) x : Nat)
  if m.on 0 then max 0 (v - bitsOf m.q.black (16 * phaseOf x y + 15) (16 * phaseOf x y)) else v

/-- S2 at any place, mirrored. -/
def Image.s2At (m : Image) (x y : Int) : Int := m.s2 (mirror m.q.width x) (mirror m.h y)

/-- The places of a defect list. -/
def dpcPlaces (b : Bytes) : List (Nat × Nat) := (List.range (b.length / 4)).map fun i => (field b (4 * i) 2, field b (4 * i + 2) 2)

/-- Whether a place is listed. -/
def Image.listed (m : Image) (x y : Nat) : Bool := m.on 1 && (dpcPlaces m.q.dpcList).contains (x, y)

/-- The second and third of four values in order. -/
def middleTwo (l : List Int) : Int × Int :=
  let t := l.mergeSort fun a b => decide (a ≤ b)
  (nth 0 t 1, nth 0 t 2)

/-- Whether dynamic correction replaces a pixel (R308). -/
def Image.dynamic (m : Image) (x y : Nat) : Bool :=
  m.on 2 && !m.listed x y &&
    let v := m.s2 x y
    let ns := ([(-2, -2), (0, -2), (2, -2), (-2, 0), (2, 0), (-2, 2), (0, 2), (2, 2)] : List (Int × Int)).map fun d => m.s2At (x + d.1) (y + d.2)
    decide (ns.foldl max 0 + m.q.dpcThresh < v) || decide (v < ns.foldl min 65535 - m.q.dpcThresh)

/-- S3: defect correction (R308). -/
def Image.s3 (m : Image) (x y : Nat) : Int :=
  if m.listed x y then pix16 (m.s2At (x - 2) y + m.s2At (x + 2) y) 2
  else if m.dynamic x y then
    let t := middleTwo [m.s2At (x - 2) y, m.s2At (x + 2) y, m.s2At x (y - 2), m.s2At x (y + 2)]
    pix16 (t.1 + t.2) 2
  else m.s2 x y

/-- The lens shading gain of a pixel in 4.12 format (R309): bilinear with exact weights, rounded once. -/
def Image.gain (m : Image) (x y : Nat) : Int :=
  let w := max 1 (m.q.width - 1)
  let h := max 1 (m.q.lines - 1)
  let j := min 31 (32 * x / w)
  let i := min 31 (32 * y / h)
  let fx : Int := (32 * x : Nat) - (j * w : Nat)
  let fy : Int := (32 * y : Nat) - (i * h : Nat)
  let g (a b : Nat) : Int := field m.q.lsc (2 * (1089 * phaseOf x y + 33 * a + b)) 2
  let top := g i j * (w - fx) + g i (j + 1) * fx
  let bottom := g (i + 1) j * (w - fx) + g (i + 1) (j + 1) * fx
  divEven (top * (h - fy) + bottom * fy) (w * h)

/-- S4: lens shading. -/
def Image.s4 (m : Image) (x y : Nat) : Int := if m.on 3 then pix16 (m.s3 x y * m.gain x y) 4096 else m.s3 x y

/-- S5: white balance. -/
def Image.s5 (m : Image) (x y : Nat) : Int :=
  if m.on 4 then pix16 (m.s4 x y * bitsOf m.q.wb (16 * phaseOf x y + 15) (16 * phaseOf x y)) 4096 else m.s4 x y

/-- S5 at any place, mirrored. -/
def Image.s5At (m : Image) (x y : Int) : Int := m.s5 (mirror m.q.width x) (mirror m.h y)

/-- The colour of a mosaic phase (R306): 0 red, 1 green, 2 blue. -/
def colourOf (cfa phase : Nat) : Nat :=
  nth 1 (nth [] [[0, 1, 1, 2], [1, 0, 2, 1], [1, 2, 0, 1], [2, 1, 1, 0]] cfa) phase

/-- The colour at any place; mirroring keeps the phase. -/
def Image.colourAt (m : Image) (x y : Int) : Nat := colourOf m.q.cfa (phaseOf (x % 2).toNat (y % 2).toNat)

/-- The green estimate at a red or blue site (R310). -/
def Image.greenAt (m : Image) (x y : Int) : Int :=
  if m.colourAt x y = 1 then m.s5At x y
  else
    let c (dx dy : Int) : Int := m.s5At (x + dx) (y + dy)
    let lap (dx dy : Int) : Int := 2 * c 0 0 - c (-2 * dx) (-2 * dy) - c (2 * dx) (2 * dy)
    let cost (dx dy : Int) : Int := (c (-dx) (-dy) - c dx dy).natAbs + (lap dx dy).natAbs
    let est (dx dy : Int) : Int := pix16 (2 * (c (-dx) (-dy) + c dx dy) + lap dx dy) 4
    let gh := cost 1 0
    let gv := cost 0 1
    if gh + m.q.edge < gv then est 1 0
    else if gv + m.q.edge < gh then est 0 1
    else pix16 (est 1 0 + est 0 1) 2

/-- Red (0) or blue (2) at a pixel (R310): green plus the mean colour difference of the nearest sites of that colour. -/
def Image.chroma (m : Image) (k x y : Nat) : Int :=
  if m.colourAt x y = k then m.s5 x y
  else
    let d (dx dy : Int) : Int := m.s5At (x + dx) (y + dy) - m.greenAt (x + dx) (y + dy)
    if m.colourAt x y ≠ 1 then pix16 (4 * m.greenAt x y + d (-1) (-1) + d 1 (-1) + d (-1) 1 + d 1 1) 4
    else if m.colourAt (x - 1) y = k then pix16 (2 * m.greenAt x y + d (-1) 0 + d 1 0) 2
    else pix16 (2 * m.greenAt x y + d 0 (-1) + d 0 1) 2

/-- S6: mosaic interpolation; without it the single channel serves as R, G and B. -/
def Image.s6 (m : Image) (x y : Nat) : Int × Int × Int :=
  if m.on 5 ∧ m.q.cfa ≠ 4 then (m.chroma 0 x y, m.greenAt x y, m.chroma 2 x y) else (m.s5 x y, m.s5 x y, m.s5 x y)

/-- Coefficient or offset `i` of a 24-byte matrix (R311). -/
def matrixAt (b : Bytes) (i : Nat) : Int := signed 16 (field b (2 * i) 2)

/-- One row of a 3 by 3 matrix in s3.12 format with its offset (R311). -/
def matrixRow (b : Bytes) (row : Nat) (off : Int) (v : Int × Int × Int) : Int :=
  pix16 (matrixAt b (3 * row) * v.1 + matrixAt b (3 * row + 1) * v.2.1 + matrixAt b (3 * row + 2) * v.2.2 + off * 4096) 4096

/-- S7: colour correction. -/
def Image.s7 (m : Image) (v : Int × Int × Int) : Int × Int × Int :=
  if m.on 6 ∧ m.q.cfa ≠ 4 then
    (matrixRow m.q.ccm 0 (matrixAt m.q.ccm 9) v, matrixRow m.q.ccm 1 (matrixAt m.q.ccm 10) v, matrixRow m.q.ccm 2 (matrixAt m.q.ccm 11) v)
  else v

/-- The tone curve (R311). -/
def tone (lut : Bytes) (v : Int) : Int :=
  let i := (v / 256).toNat
  let a : Int := field lut (2 * i) 2
  let b : Int := field lut (2 * i + 2) 2
  pix16 (256 * a + (b - a) * (v % 256)) 256

/-- S8: tone mapping. -/
def Image.s8 (m : Image) (v : Int × Int × Int) : Int × Int × Int :=
  if m.on 7 then (tone m.q.tone v.1, tone m.q.tone v.2.1, tone m.q.tone v.2.2) else v

/-- S9: colour space, in OUT_MODE 1 to 3. -/
def Image.s9 (m : Image) (v : Int × Int × Int) : Int × Int × Int :=
  if m.on 8 ∧ m.q.outMode ≠ 0 then
    let off (i : Nat) : Int := field m.q.csc (2 * i) 2
    (matrixRow m.q.csc 0 (off 9) v, matrixRow m.q.csc 1 (off 10) v, matrixRow m.q.csc 2 (off 11) v)
  else v

/-- The three channels of a pixel ahead of S10. -/
def Image.pixel (m : Image) (x y : Nat) : Int × Int × Int := m.s9 (m.s8 (m.s7 (m.s6 x y)))

/-! ## S10: output (R296, R312) -/

/-- The stored code of a 16-bit value (R312). -/
def storeCode (fmt : Nat) (v : Int) : Nat :=
  match fmt with
  | 0x02 => unsigned 8 (min (divEven v 256) 255 - 128)
  | 0x03 => unsigned 16 (v - 32768)
  | _ =>
    let n := v.toNat * 2 ^ 60
    toFloat (fmtOr fmt) (.fin false (2 * (n / 65535) + (if n % 65535 = 0 then 0 else 1)) (-61))

/-- The elements of one group of an output row, plane after plane (R296, R312). -/
def groupCodes (q : ParamSet) (px : List (Int × Int × Int)) : List Nat :=
  let c (l : List Int) : List Nat := l.map (storeCode q.outFormat)
  let pairs (f : Int × Int × Int → Int) : List Int :=
    (List.range (px.length / 2)).map fun i => pix16 (f (nth (0, 0, 0) px (2 * i)) + f (nth (0, 0, 0) px (2 * i + 1))) 2
  match q.outMode with
  | 2 => c (px.map fun v => v.1) ++ c (pairs fun v => v.2.1) ++ c (pairs fun v => v.2.2)
  | 3 => c (px.map fun v => v.1)
  | _ => c (px.map fun v => v.1) ++ c (px.map fun v => v.2.1) ++ c (px.map fun v => v.2.2)

/-- One output row: its groups in order. -/
def Image.row (m : Image) (y : Nat) : List Nat :=
  let g := max 1 m.q.group
  (List.range (m.q.width / g)).flatMap fun k => groupCodes m.q ((List.range g).map fun i => m.pixel (g * k + i) y)

/-- Elements of axis 0 of a context's tensor (R296). -/
def outDim0 (q : ParamSet) : Nat := match q.outMode with
  | 2 => q.group * 2
  | 3 => q.group
  | _ => q.group * 3

/-- The tensor that a context writes (R296). -/
def contextTensor (q : ParamSet) : Tensor :=
  let s1 := ceilDiv (outDim0 q * ((fmtOr q.outFormat).width / 8)) 32 * 32
  let d1 := q.width / max 1 q.group
  { format := q.outFormat, zc := false, dim0 := outDim0 q, dim1 := d1, dim2 := q.lines, stride1 := s1, stride2 := s1 * d1 }

/-- How many pixels of a row dynamic correction replaces. -/
def Image.dynamicCount (m : Image) (y : Nat) : Nat := ((List.range m.q.width).filter fun x => m.dynamic x y).length

/-! ## Statistics (R313, R314) -/

/-- The zone width or height of a length. -/
def zoneSize (n : Nat) : Nat := n / 32 / 2 * 2

/-- The first and the last index of zone `i` along a length. -/
def zoneRange (n i : Nat) : Nat × Nat := (i * zoneSize n, if i = 31 then n - 1 else (i + 1) * zoneSize n - 1)

/-- The mean of values, none when there is none. -/
def meanOf (l : List Int) : Option Nat := if l = [] then none else some (divEven l.sum l.length).toNat

/-- One 256-bin histogram. -/
def histogram (l : List Int) : Bytes :=
  (List.range 256).flatMap fun (b : Nat) => leBytes 4 (l.filter fun v => decide (v / 256 = (b : Int))).length

/-- Values at S4 of the stored pixels of a rectangle that satisfy `p`. -/
def Image.tap (m : Image) (xs ys : Nat × Nat) (p : Nat → Nat → Bool) : List Int :=
  (List.range (min (ys.2 + 1) m.h - ys.1)).flatMap fun dy =>
    ((List.range (xs.2 + 1 - xs.1)).filter fun dx => p (xs.1 + dx) (ys.1 + dy)).map fun dx => m.s4 (xs.1 + dx) (ys.1 + dy)

/-- The three means of a zone; a mean of a colour that the zone's stored pixels do not hold is a free value. -/
def Image.zone (m : Image) (free i j : Nat) : Bytes :=
  let xs := zoneRange m.q.width j
  let ys := zoneRange m.q.lines i
  if m.h ≤ ys.1 then List.replicate 6 0xFF#8
  else [0, 1, 2].flatMap fun k =>
    let l := m.tap xs ys fun x y => decide (m.q.cfa = 4) || decide (m.colourAt x y = k)
    leBytes 2 ((meanOf l).getD ((Config.freeWord (free + 96 * i + 3 * j + k)).toNat % 65536))

/-- The histograms: one per phase; for CFA 4 all pixels in phase 0. -/
def Image.histograms (m : Image) : Bytes :=
  let all := (0, m.q.width - 1)
  let rows := (0, m.q.lines - 1)
  (List.range 4).flatMap fun k =>
    if m.q.cfa = 4 then histogram (if k = 0 then m.tap all rows fun _ _ => true else [])
    else histogram (m.tap all rows fun x y => decide (phaseOf x y = k))

/-- The statistics record (R314). -/
def statsRecord (m : Image) (free ctx no sof fc : Nat) (word : BitVec 32) : Bytes :=
  let b := leBytes 2 1 ++ leBytes 1 ctx ++ leBytes 1 (if m.q.cfa = 4 then 1 else 0) ++ leBytes 4 no ++ leBytes 8 sof
    ++ leBytes 4 word.toNat ++ leBytes 4 fc ++ leBytes 2 m.h ++ leBytes 2 (zoneSize m.q.width)
    ++ leBytes 2 (zoneSize m.q.lines) ++ List.replicate 30 0#8
  b ++ leBytes 4 (crc32c b) ++ m.histograms
    ++ (List.range 32).flatMap fun i => (List.range 32).flatMap fun j => m.zone free i j

end Sys2Proof.Machine
end

