-- ==== Sys2Proof/Machine/Isp.lean ====
section
/-! DEFINITION. The lanes of the image pipeline: frames taken, lines processed, rows written, tiles announced, frames
done; the golden input (11 R291 to R304, 15 R408 to R411). -/

namespace Sys2Proof.Machine

open Sys2Proof

/-- The lane of a pipe. -/
def laneOf (s : State) (p : Nat) (memLane : Bool) : Lane := if memLane then (s.pipe p).mem else (s.pipe p).inl

/-- Applies a function to a lane. -/
def modLane (p : Nat) (memLane : Bool) (f : Lane → Lane) (s : State) : State :=
  modPipe p (fun x => if memLane then { x with mem := f x.mem } else { x with inl := f x.inl }) s

/-- The frame a lane processes, as it stands: that of the in-line lane grows while ingest receives it. -/
def laneFrame (s : State) (p : Nat) (memLane : Bool) : Option CamFrame :=
  match (laneOf s p memLane).frame with
  | none => none
  | some f => if f.isClosed then some f else match (s.port f.port).cur with
    | some g => some g
    | none => some f

/-- An output frame of a context. -/
def outFrame? (s : State) (c no : Nat) : Option OutFrame := (s.ctx c).bufs.find? fun o => o.no = no

/-- Whether an output buffer of a context is in use. -/
def bufferUsed (s : State) (c n : Nat) : Bool := (s.ctx c).bufs.any fun o => decide (o.buf = n) && !o.freed

/-- The bytes of an output buffer: the header and the planes (R296, R300). -/
def bufferSize (q : ParamSet) : Nat := headerRoom + tensorBytes (contextTensor q)

/-- The free output buffer that a frame of a context takes, large enough for its tensor (R300, notes/assumptions/136.md). -/
def outBuffer (c : Nat) (q : ParamSet) (s : State) : Option (Nat × State) :=
  ((List.range 3).map fun k => 3 * (s.ctx c).epoch + k).findSome? fun n =>
    if bufferUsed s c n then none else (ensureSpace (.context c n) (bufferSize q) s).map fun t => (n, t)

/-- Whether a context has a free output buffer for a frame (R300). -/
def bufferFree (s : State) (f : CamFrame) : Bool := (outBuffer f.ctx f.params s).isSome

/-- The three output buffers that the enabling of a context's port allocates; those of earlier enablings that nothing reads any
more are released (R300). -/
def contextBuffers (c : Nat) (q : ParamSet) (s : State) : State :=
  let s1 := modCtx c (fun x => { x with epoch := x.epoch + 1 }) s
  let s2 := freeSpace (fun o => match o with
    | .context d n => decide (d = c) && !bufferUsed s c n
    | _ => false) s1
  forEach (List.range 3) (fun k s => allocate (.context c (3 * (s1.ctx c).epoch + k)) (bufferSize q) s) s2

/-! ## Source stations (R143, R299) -/

/-- The station frame in which a source station takes the next delivery: its oldest open one that has none yet. -/
def openSource (s : State) (g st : Nat) : Option StFrame :=
  ((s.slot g).frames.filter fun x => decide (x.station = st) && x.slotOpen && !x.abandoned && decide (x.srcFrame = none)).head?

/-- What a source delivers: frame or scan number, timestamp, frame status word, header address and tensor. -/
structure Delivery where
  no : Nat
  sof : Nat
  word : BitVec 32
  base : Nat
  tensor : Tensor
  deriving DecidableEq, Repr

/-- Every source station of an active graph that waits for a frame of a context or stream takes it. -/
def takeSources (pointCloud : Bool) (c : Nat) (d : Delivery) (s : State) : List (Nat × Nat × Nat) × State :=
  (List.range 64).foldl (fun (a : List (Nat × Nat × Nat) × State) g =>
    match (a.2.slot g).pkg with
    | none => a
    | some p =>
      if !within (gstate a.2 g) 3 4 then a
      else p.stations.foldl (fun (a : List (Nat × Nat × Nat) × State) st =>
        if st.params ≠ .source pointCloud c then a
        else match openSource a.2 g st.number with
          | none => a
          | some x => (a.1 ++ [(g, st.number, x.frame)],
              modFrame g st.number x.frame (fun y => { y with
                srcFrame := some d.no, timestamp := d.sof, word := y.word ||| d.word, base := d.base, tensor := d.tensor
                act0 := d.tensor.dim0, act1 := d.tensor.dim1, act2 := d.tensor.dim2 }) a.2)) a) ([], s)

/-- A source station's frame goes on (R127, R133). -/
def settleTaker (t : Nat × Nat × Nat) (s : State) : State :=
  match (s.slot t.1).pkg.bind fun p => (p.st? t.2.1).map fun q => (p, q) with
  | some (p, st) => settleSource t.1 p st t.2.2 s
  | none => s

/-- A tile of a source station is announced: its descriptor enters the station's queues when they have room (R127, R299, R285). -/
def sourceTile (d : Desc) (t : Nat × Nat × Nat) (s : State) : State :=
  settleTaker t (modFrame t.1 t.2.1 t.2.2 (fun x => if x.abandoned ∨ x.stalled then x else { x with held := x.held ++ [d] }) s)

/-- The end of a source station's frame: final header and LAST (R133, R299). -/
def sourceLast (act : Nat × Nat × Nat) (word : BitVec 32) (t : Nat × Nat × Nat) (s : State) : State :=
  settleTaker t (noteWithheld t.1 t.2.2 (modFrame t.1 t.2.1 t.2.2 (fun x =>
    if x.abandoned ∨ x.stalled then { x with word := x.word ||| word }
    else { x with final := true, ended := true, act0 := act.1, act1 := act.2.1, act2 := act.2.2, word := x.word ||| word }) s))

/-- The header of a tensor that ingest or the ISP writes for every graph that takes it: GRAPH 0, PRODUCER 0xFFFF (R298). -/
def sharedHeader (d : Delivery) (frameNo : Nat) (final : Bool) (act : Nat × Nat × Nat) : Bytes :=
  headerOf 0 0xFFFF { station := 0, frame := frameNo, tensor := d.tensor, final := final, act0 := act.1, act1 := act.2.1, act2 := act.2.2
                      word := d.word, timestamp := d.sof } (d.base + headerRoom) 0

/-! ## Rows and tiles (R295, R296, R299) -/

/-- The image a lane works on. -/
def laneImage (l : Lane) (q : ParamSet) : Image := ⟨q, l.img⟩

/-- The number of a frame's last stored line plus 1, once it is known. -/
def lineCount (f : CamFrame) : Option Nat :=
  if f.isClosed ∨ f.pix.length = f.params.lines then some f.pix.length else none

/-- Whether a lane has every stored line of its frame. -/
def imageWhole (l : Lane) (f : CamFrame) : Bool := decide (lineCount f = some l.img.length)

/-- How many output rows can be written: row y once line y + 4 has arrived (R295); the memory lane, where dynamic defect
correction reaches one line further, takes that line first (notes/assumptions/21.md); all of them after the last stored line. -/
def writableRows (l : Lane) (memLane : Bool) (f : CamFrame) : Nat :=
  if imageWhole l f then l.img.length else l.img.length - if memLane ∧ bit f.params.stageEn 2 then 5 else 4

/-- The image that rows are written from: in the in-line lane dynamic correction of line y + 3 also reads line y + 5, which has
not arrived when row y is written; its pixels are free values (notes/assumptions/21.md). -/
def rowImage (l : Lane) (memLane : Bool) (f : CamFrame) (free : Nat) : Image :=
  let m := laneImage l f.params
  if memLane ∨ imageWhole l f ∨ !bit f.params.stageEn 2 then m
  else { m with raw := m.raw ++ [(List.range f.params.width).map fun i => (Config.freeWord (free + i)).toNat % 65536] }

/-- The bytes of a row's elements in canonical order. -/
def outBytes (q : ParamSet) (codes : List Nat) : Bytes := checkBytes (fmtOr q.outFormat) codes []

/-- Writes row `y` of an output frame to its buffer (R296), if it has one. -/
def storeRow (c : Nat) (o : OutFrame) (y : Nat) (codes : List Nat) (s : State) : State :=
  match s.spaceOf (.context c o.buf) with
  | none => s
  | some x =>
    let t := contextTensor o.frame.params
    forEach (List.range t.dim1) (fun k s =>
      outsideWrite (x.base + headerRoom + y * t.stride2 + k * t.stride1) (outBytes o.frame.params ((codes.drop (t.dim0 * k)).take t.dim0)) 2 s) s

/-- The tile whose last row has been written is announced to every taker with its check word (R299). -/
def closeTile (c no : Nat) (s : State) : State :=
  match outFrame? s c no with
  | none => s
  | some o =>
    let k := o.checks.length
    if o.rows ≤ 16 * k then s
    else
      let t := contextTensor o.frame.params
      let check := (o.crc ^^^ 0xFFFFFFFF#32).toNat
      let d : Desc := ⟨k, 0, 0, 16 * k, t.dim0, t.dim1, o.rows - 16 * k, 0, false, false, 0xFF, check⟩
      forEach o.takers (sourceTile d) (modOut c no (fun o => { o with checks := o.checks ++ [check], crc := 0xFFFFFFFF }) s)

/-- Writes one output row; the sixteenth of a tile, and the frame's last one, end a tile. -/
def putRow (c no n : Nat) (codes : List Nat) (s : State) : State :=
  match outFrame? s c no with
  | none => s
  | some o =>
    let s1 := modOut c no (fun o => { o with rows := o.rows + 1, crc := (outBytes o.frame.params codes).foldl crcByte o.crc }) (storeRow c o o.rows codes s)
    if (o.rows + 1) % 16 = 0 ∨ o.rows + 1 = n then closeTile c no s1 else s1

/-- Writes every row that can be written. -/
def writeRows (p : Nat) (memLane : Bool) (s : State) : State :=
  let l := laneOf s p memLane
  match laneFrame s p memLane with
  | none => s
  | some f =>
    if l.stopped then s
    else match outFrame? s f.ctx l.no with
      | none => s
      | some o =>
        let ys := (List.range (writableRows l memLane f)).drop o.rows
        let m := rowImage l memLane f s.free
        let s1 := forEach ys (fun y => putRow f.ctx l.no ((lineCount f).getD (2 ^ 32)) (m.row y)) { s with free := s.free + f.params.width }
        if f.ctx < 36 then s1.bumpBy (Reg.CTX_DPC_DYNAMIC f.ctx) (ys.map (laneImage l f.params).dynamicCount).sum else s1

/-! ## The freeze detector (R408 to R410) -/

/-- The content signature of a frame's stored lines (R408). -/
def contentSig (img : List (List Nat)) : BitVec 64 := img.foldl foldLine (BitVec.ofNat 64 img.length)

/-- The comparison of a frame whose last stored line S1 has processed. -/
def freezeCheck (c no : Nat) (f : CamFrame) (img : List (List Nat)) (s : State) : State :=
  if img = [] then s
  else
    let sig := contentSig img
    let hist := (s.ctx c).history
    let frozen := (bit f.params.freezeMode 0 && hist.any fun h => h.1 = sig)
      || (bit f.params.freezeMode 1 && decide (f.fc ≠ 0xFFFFFFFF) && hist.any fun h => h.2 = f.fc)
    let all := hist ++ [(sig, f.fc)]
    let s1 := modOut c no (fun o => { o with frozenClosed := true })
      (modCtx c (fun x => { x with history := all.drop (all.length - 8) }) s)
    if frozen then raise Src.FREEZE (.ctx c) ((markTakers c no Fsw.FROZEN s1).bump (Reg.FROZEN_FRAMES c)) else s1

/-- The freeze check once the frame is closed and its last stored line is through S1. -/
def checkLane (p : Nat) (memLane : Bool) (s : State) : State :=
  let l := laneOf s p memLane
  match laneFrame s p memLane with
  | none => s
  | some f =>
    if f.ctx < 36 ∧ f.isClosed ∧ l.img.length = f.pix.length ∧ !l.checked then
      freezeCheck f.ctx l.no f l.img (modLane p memLane (fun x => { x with checked := true }) s)
    else s

/-! ## Frames through a lane -/

/-- What a context's frame delivers, as far as it is known. -/
def frameDelivery (s : State) (c no : Nat) (f : CamFrame) (buf : Nat) : Delivery :=
  ⟨no, f.sof, f.word, s.baseOf (.context c buf), contextTensor f.params⟩

/-- A lane begins a frame (R291, R292, R298): it takes the next frame number and an output buffer, and writes the header. -/
def beginFrame (p : Nat) (memLane : Bool) (f : CamFrame) (s : State) : State :=
  match outBuffer f.ctx f.params s with
  | none => s
  | some (buf, s0) =>
    let c := f.ctx
    let no := (s0.ctx c).nextNo
    let d := frameDelivery s0 c no f buf
    let (takers, s1) := takeSources false c d s0
    let frameNo := no - (s1.ctx c).base
    let s2 := outsideWrite d.base (sharedHeader d frameNo false (d.tensor.dim0, d.tensor.dim1, d.tensor.dim2)) 2 s1
    let s3 := modCtx c (fun x => { x with
      nextNo := no + 1, bufs := x.bufs ++ [{ no := no, frameNo := frameNo, frame := f, buf := buf, takers := takers }] }) s2
    checkLane p memLane (modLane p memLane (fun _ => { frame := some f, no := no }) s3)

/-- The next line of a lane, if one has arrived. -/
def nextLine (s : State) (p : Nat) (memLane : Bool) : Option (CamFrame × Bytes) :=
  match laneFrame s p memLane with
  | none => none
  | some f => (f.pix[(laneOf s p memLane).img.length]?).map fun b => (f, b)

/-- Where a raw buffer holds pixel line `i`; embedded lines lie before the pixel lines (notes/assumptions/136.md). -/
def rawLineAt (f : CamFrame) (i : Nat) : Nat := (f.params.embLines + i) * ringStride f.params

/-- The bytes of a line as the lane gets them: from ingest, from the golden input, or read from the raw frame buffer as class 3
(R293). -/
def takeLine (p : Nat) (memLane : Bool) (f : CamFrame) (b : Bytes) (s : State) : Bytes × State :=
  match (if memLane ∧ f.toRaw then s.spaceOf (.raw f.port (3 * f.epoch + f.rawSlot)) else none) with
  | some x => readLoose (x.base + rawLineAt f (laneOf s p memLane).img.length) b.length 2 s
  | none => (b, s)

/-- One line through the datapath. -/
def lineStep (p : Nat) (memLane : Bool) (s : State) : State :=
  match nextLine s p memLane with
  | none => s
  | some (f, b) =>
    let (b1, s0) := takeLine p memLane f b s
    let s1 := modLane p memLane (fun x => { x with img := x.img ++ [unpackLine f.params.dataType b1 f.params.width] }) s0
    let s2 := if memLane ∧ f.toRaw ∧ (laneOf s1 p memLane).img.length = f.pix.length then freeRaw f s1 else s1
    writeRows p memLane (checkLane p memLane s2)

/-- A lane stores no further row of its frame, which is SHORT (R232, R301). -/
def stopLane (p : Nat) (memLane : Bool) (s : State) : State :=
  let l := laneOf s p memLane
  match l.frame with
  | none => s
  | some f => closeTile f.ctx l.no (modOut f.ctx l.no (fun o => { o with frame := { o.frame with word := fswMark o.frame.word Fsw.SHORT } })
      (modLane p memLane (fun x => { x with stopped := true }) s))

/-- The in-line output buffering overflows (R301): no further row is stored, SHORT, OVERRUN, ISP_OVERRUN. -/
def overrunLane (p : Nat) (s : State) : State :=
  match (laneOf s p false).frame with
  | none => s
  | some f =>
    if (laneOf s p false).stopped then s
    else raise Src.ISP_OVERRUN (.ctx f.ctx) ((stopLane p false s).bump (Reg.CTX_OVERRUN f.ctx))

/-- A frame's processing ends (R298, R299, R314). -/
def finishFrame (p : Nat) (memLane : Bool) (s : State) : State :=
  let l := laneOf s p memLane
  match laneFrame s p memLane with
  | none => s
  | some f =>
    let c := f.ctx
    match outFrame? s c l.no with
    | none => modLane p memLane (fun _ => {}) s
    | some o =>
      let word := o.frame.word ||| f.word
      let d := { frameDelivery s c o.no f o.buf with word := word }
      let act := (d.tensor.dim0, d.tensor.dim1, o.rows)
      let s1 := outsideWrite d.base (sharedHeader d o.frameNo true act) 2 s
      let s2 := modOut c l.no (fun o => { o with
        isDone := true, frame := { f with word := word }, frozenClosed := o.frozenClosed || decide (f.pix = []) }) s1
      let s3 := forEach o.takers (sourceLast act word) s2
      let s4 := s3.bump (Reg.CTX_FRAMES_DONE c)
      let s5 := if f.params.statsEn then
          { s4.setBlob (Reg.CTX_STATS c) (statsRecord (laneImage l f.params) s4.free c o.frameNo f.sof f.fc word) with free := s4.free + 3072 }
        else s4
      let s6 := modCtx c (fun x => { x with newest := outFrame? s5 c l.no }) (modLane p memLane (fun _ => {}) s5)
      freeOutBufs (goldenFrameDone p c l.no s6)

/-- Whether a lane has processed every line of a closed frame. -/
def laneThrough (s : State) (p : Nat) (memLane : Bool) : Bool :=
  match laneFrame s p memLane with
  | some f => f.isClosed && decide ((laneOf s p memLane).img.length = f.pix.length)
  | none => false

/-- Lets a lane finish the closed frame it holds. -/
def drainLane (p : Nat) (memLane : Bool) (s : State) : State :=
  match laneFrame s p memLane with
  | some f => if f.isClosed then finishFrame p memLane (forEach (f.pix.drop (laneOf s p memLane).img.length) (fun _ s => lineStep p memLane s) s) else s
  | none => s

/-- Ingest opens an in-line frame (R291, R301): the lane takes it unless its context has no free output buffer. -/
def openInline (p : Nat) (f : CamFrame) (s : State) : State :=
  let s1 := drainLane p false s
  if bufferFree s1 f then beginFrame p false f s1
  else raise Src.ISP_DROP (.ctx f.ctx) (s1.bump (Reg.CTX_OUT_DROP f.ctx))

/-- Ingest closes an in-line frame: the lane keeps it until its processing ends. -/
def closeInline (p : Nat) (f : CamFrame) (s : State) : State :=
  match (s.pipe p).inl.frame with
  | none => s
  | some g =>
    if g.port = f.port ∧ !g.isClosed then
      writeRows p false (checkLane p false (modLane p false (fun x => { x with frame := some f }) s))
    else s

/-! ## Meanings -/

/-- ISP_LINE_PROCESS (R291): one line of a lane; an in-line line that is ready goes first. -/
def execIspLineProcess (p : Fin 4) (memLane : Bool) (overflow : Bool) (s : State) : Host.Outcome State Fault Refusal :=
  .next (if memLane ∧ (nextLine s p.val false).isSome then s
    else if (nextLine s p.val memLane).isNone then s
    else
      let s1 := if overflow ∧ !memLane then overrunLane p.val s else s
      lineStep p.val memLane s1)

/-- The parameter set of the test context in the data of a KIND 5 pattern (R294, R393). -/
def goldenParams (data : Bytes) (lines : Nat) : ParamSet :=
  let v (i : Nat) : Nat := nth 0 (Config.goldenFields data) i
  let b (i : Nat) : Bytes := nth [] (Config.goldenTables data) i
  { cfa := v 0, stageEn := v 1, black := v 2, dpcThresh := v 3, wb := v 4, edge := v 5, outMode := v 6, outFormat := v 7, group := v 8
    dataType := v 9, width := v 10, lines := lines, dpcList := b 0, lsc := b 1, ccm := b 2, tone := b 3, csc := b 4, statsEn := false }

/-- The golden input of a slice as a frame of the test context; it holds at most 65,536 pixels (R294). -/
def goldenFrame (p : Nat) (x : Slice) : CamFrame :=
  let q := goldenParams x.input 0
  let lines := (Config.goldenLines x.input).take (65536 / max 1 q.width)
  { port := 0xFF, ctx := 36 + p, params := goldenParams x.input lines.length, sof := 0, pix := lines, isClosed := true }

/-- The memory lane takes the golden input into the test context, which nothing else uses. -/
def takeGolden (p : Nat) (x : Slice) (s : State) : State :=
  let f := goldenFrame p x
  goldenTake p (modLane p true (fun _ => { frame := some f, golden := true })
    (modCtx (36 + p) (fun c => { c with bufs := [{ no := 0, frameNo := 0, frame := f }] }) s))

/-- MEMORY_LANE_TAKE_FRAME (R292, R294): a golden input ahead of every frame, else the oldest ready frame whose
context has a free output buffer. -/
def execMemoryLaneTakeFrame (p : Fin 4) (s : State) : Host.Outcome State Fault Refusal :=
  let x := s.pipe p.val
  .next (if x.mem.frame.isSome ∨ x.mem.golden then s
    else match (if s.drained then none else (currentSlice s p.val).filter fun z => !z.taken) with
      | some z => takeGolden p.val z s
      | none => match x.ready.find? (bufferFree s) with
        | none => s
        | some f =>
          let s1 := modPipe p.val (fun y => { y with ready := y.ready.erase f }) s
          let s2 := if f.pix = [] then freeRaw f s1 else s1
          beginFrame p.val true f s2)

/-- The pipe word: the CRC-32C over the check words of the test context's tiles in tile order (R411). -/
def pipeWord (s : State) (p : Nat) : BitVec 32 :=
  BitVec.ofNat 32 (crc32c (((outFrame? s (36 + p) 0).map fun o => o.checks.flatMap (leBytes 4)).getD []))

/-- The golden input has left the pipe (R294, R411). -/
def finishGolden (p : Nat) (s : State) : State :=
  let w := pipeWord s p
  let s1 := modPipe p (fun x => { x with
    mem := {}, slices := x.slices.map fun z => if z.presented ∧ z.taken then { z with inDone := true, pipeWord := w } else z }) s
  modCtx (36 + p) (fun c => { c with bufs := [] }) (s1.bump (Reg.PIPE_GOLDEN_DONE p))

/-- ISP_FRAME_DONE (R314, R294): the frame whose lines are all processed ends; a golden input leaves the pipe. -/
def execIspFrameDone (p : Fin 4) (memLane : Bool) (s : State) : Host.Outcome State Fault Refusal :=
  .next (if laneThrough s p.val memLane then
      if memLane ∧ (s.pipe p.val).mem.golden then finishGolden p.val s else finishFrame p.val memLane s
    else s)

end Sys2Proof.Machine
end

