-- ==== Sys2Proof/Machine/Ingest.lean ====
section
/-! DEFINITION. Sensor ingest (10): camera ports, their checks and frames, tunnelled I2C, point-cloud streams. -/

namespace Sys2Proof.Machine

open Sys2Proof

/-! ## Ports and contexts (R262, R287, R288) -/

/-- The context bound to a port. -/
def ctxOfPort (s : State) (p : Nat) : Option Nat := (List.range 36).find? fun c => s.r (Reg.CTX_PORT c) = p

/-- Whether a port's link carries packets: the port is enabled and its link up. -/
def portUp (s : State) (p : Nat) : Bool := s.on (Reg.CAM_ENABLE p) && decide (s.r (Reg.CAM_LINK_STATE p) = 2)

/-- Whether a port's context lies in a suspect pipe (R563). -/
def portSuspect (s : State) (p : Nat) : Bool := (ctxOfPort s p).any fun c => bit (s.r Reg.SUSPECT_PIPE) (c / 9)

/-- The parameter set of a frame: the values in force of its port and of its context (R302). -/
def paramsOf (s : State) (p : Nat) (c : Option Nat) : ParamSet :=
  let q : ParamSet :=
    { dataType := s.r (Reg.CAM_DATA_TYPE p), width := s.r (Reg.CAM_WIDTH p), lines := s.r (Reg.CAM_LINES p)
      embLines := s.r (Reg.CAM_EMB_LINES p) }
  match c with
  | none => q
  | some c => { q with
      cfa := s.r (Reg.CTX_CFA c), stageEn := s.r (Reg.CTX_STAGE_EN c), black := s.r (Reg.CTX_BLACK_LEVEL c)
      dpcThresh := s.r (Reg.CTX_DPC_THRESH c), dpcList := s.blob (Reg.CTX_DPC_LIST c), lsc := s.blob (Reg.CTX_LSC_GRID c)
      wb := s.r (Reg.CTX_WB_GAIN c), edge := s.r (Reg.CTX_EDGE_THRESH c), ccm := s.blob (Reg.CTX_CCM c)
      tone := s.blob (Reg.CTX_TONE_LUT c), csc := s.blob (Reg.CTX_CSC c), outMode := s.r (Reg.CTX_OUT_MODE c)
      outFormat := s.r (Reg.CTX_OUT_FORMAT c), group := s.r (Reg.CTX_GROUP c), statsEn := s.on (Reg.CTX_STATS_EN c)
      freezeMode := s.r (Reg.FREEZE_MODE c) }

/-- The keys that a frame start of a port latches with its context (R302). -/
def frameKeys (p : Nat) (c : Option Nat) (k : Key) : Bool :=
  (decide (k / 256 = 0x2100 + p) && within (k % 256) 3 13) || match c with
    | some c => (decide (k / 256 = 0x2800 + c) && within (k % 256) 2 17) || decide (k = Reg.FREEZE_MODE c)
    | none => false

/-- RING_PORTS applies at frame starts: bit `p` at the next one of port `p` (R260). -/
def latchRingPort (p : Nat) (s : State) : State :=
  match sfind Reg.RING_PORTS s.staged with
  | none => s
  | some v =>
    let old := s.r Reg.RING_PORTS
    let new := if bit v p then setBit old p else clearBit old p
    let s1 := s.setR Reg.RING_PORTS new
    if new = v then { s1 with staged := sdel Reg.RING_PORTS s1.staged } else s1

/-- What a frame start latches (R302, R304). -/
def latchFrame (p : Nat) (c : Option Nat) (s : State) : State :=
  let s1 := latchRingPort p s
  if c.any fun c => s.on (Reg.CTX_PARAM_HOLD c) then s1 else s1.applyStaged (frameKeys p c)

/-! ## Checks of port and context writes (R266, R277, R286, R289, R297, R412) -/

/-- A written value of one port entry: port, subindex, value. -/
structure PortWrite where
  port : Nat
  sub : Nat
  value : Nat
  deriving DecidableEq, Repr

/-- A port's value as a check takes it: the written one, else the larger demand of staged and in force: the shorter period, the
lower gear. -/
def demand (s : State) (w : PortWrite) (p sub : Nat) : Nat :=
  let k : Key := (0x2100 + p) * 256 + sub
  if w.port = p ∧ w.sub = sub then w.value
  else if sub = 8 ∨ sub = 2 then min (s.r k) (s.rStaged k)
  else max (s.r k) (s.rStaged k)

/-- A port's pixel rate as a fraction: pixels per second times the period, and the period. -/
def pixelDemand (s : State) (w : PortWrite) (p : Nat) : Nat × Nat :=
  (demand s w p 5 * demand s w p 6 * 10 ^ 6, max 1 (demand s w p 8))

/-- The product of the denominators of some fractions, and their sum over it. -/
def sumFractions (l : List (Nat × Nat)) : Nat × Nat :=
  let d := (l.map fun x => x.2).foldl (· * ·) 1
  ((l.map fun x => x.1 * (d / max 1 x.2)).sum, d)

/-- Whether some fractions add up to at most a bound. -/
def sumWithin (l : List (Nat × Nat)) (bound : Nat) : Bool := decide ((sumFractions l).1 ≤ bound * (sumFractions l).2)

/-- The enabled ports that satisfy `f`, the written one among them. -/
def countedPorts (s : State) (w : PortWrite) (f : Nat → Bool) : List Nat :=
  (List.range 24).filter fun p => (s.on (Reg.CAM_ENABLE p) || decide (p = w.port)) && f p

/-- A write that concerns no port entry. -/
def noWrite : PortWrite := ⟨24, 0, 0⟩

/-- PIXEL_RATE_SUM and PIPE_RATE in kpixel/s, over the enabled ports that satisfy `f`. -/
def rateSum (s : State) (f : Nat → Bool) : Nat :=
  let l := ((List.range 24).filter fun p => s.on (Reg.CAM_ENABLE p) && f p).map (pixelDemand s noWrite)
  (sumFractions l).1 / (1000 * (sumFractions l).2)

/-- Whether a port is bound to a context of a pipe. -/
def portInPipe (s : State) (pipe p : Nat) : Bool := (ctxOfPort s p).any fun c => decide (c / 9 = pipe)

/-- The per-port check of R277. -/
def gearFits (s : State) (w : PortWrite) : Bool :=
  let d := demand s w w.port
  decide (d 5 * pixelBits (d 4) * (d 6 + d 7) * 10 ^ 6 * 10 ≤ 9 * (2 ^ d 2 * 10 ^ 9) * d 8)

/-- Legal values of the port entries (R266, R286). -/
def portValueOk (sub v : Nat) : Bool :=
  match sub with
  | 1 => decide (v ≤ 1)
  | 2 => within v 1 3
  | 3 => decide (v ≤ 15)
  | 4 => within v 0x2A 0x2E
  | 5 => within v 64 8192 && decide (v % 4 = 0)
  | 6 => within v 64 8192
  | 7 => decide (v ≤ 8)
  | 8 => within v 100 10000000
  | 11 => within v 10 65535
  | 13 => decide (v ≤ 4)
  | _ => true

/-- The conditions on GROUP and OUT_MODE; a context bound to no port has no width (R297). -/
def groupOk (mode group : Nat) (width : Option Nat) : Bool :=
  [1, 2, 4, 8, 16, 32, 64].contains group && (decide (mode ≠ 2) || decide (2 ≤ group)) && match width with
    | some w => decide (w % group = 0)
    | none => true

/-- The golden contexts of a pipe that a check concerns: in force and staged. -/
def goldenCtxs (s : State) (p : Nat) : List Nat :=
  [9 * p + s.r (Reg.GOLDEN_CTX p), 9 * p + s.rStaged (Reg.GOLDEN_CTX p)]

/-- Whether a port feeds the golden context of its pipe. -/
def feedsGolden (s : State) (p : Nat) : Bool := (ctxOfPort s p).any fun c => (goldenCtxs s (c / 9)).contains c

/-- The reserved share of a golden slice in the period of a port (R412). -/
def portShareOk (s : State) (w : PortWrite) : Bool :=
  match ctxOfPort s w.port with
  | some c => !feedsGolden s w.port || shareOk s (c / 9) (demand s w w.port 8)
  | none => true

/-- The rate checks of an accepted value: 5, then 7. -/
def rateRefusal (s : State) (w : PortWrite) : Option Abort :=
  let counts := (w.sub = 1 ∧ w.value = 1) ∨ ([2, 4, 5, 6, 7, 8].contains w.sub ∧ s.on (Reg.CAM_ENABLE w.port))
  let pipeKey := w.sub = 1 ∨ w.sub = 5 ∨ w.sub = 6 ∨ w.sub = 8
  if counts ∧ !gearFits s w then some 5
  else if counts ∧ !sumWithin ((countedPorts s w fun _ => true).map (pixelDemand s w)) 6400000000 then some 7
  else if counts ∧ pipeKey ∧ (ctxOfPort s w.port).any (fun c =>
      !sumWithin ((countedPorts s w (portInPipe s (c / 9))).map (pixelDemand s w)) 1900000000) then some 7
  else if ((w.sub = 1 ∧ w.value = 1) ∨ w.sub = 8) ∧ !portShareOk s w then some 7
  else none

/-- The abort code of a write of a port entry; none when it is accepted. -/
def portRefusal (s : State) (w : PortWrite) : Option Abort :=
  if !portValueOk w.sub w.value then some 5
  else if w.sub = 5 ∧ (ctxOfPort s w.port).any (fun c =>
      !groupOk (s.rStaged (Reg.CTX_OUT_MODE c)) (s.rStaged (Reg.CTX_GROUP c)) (some w.value)) then some 5
  else if w.sub = 1 ∧ w.value = s.r (Reg.CAM_ENABLE w.port) then none
  else rateRefusal s w

/-- Whether a graph that holds its claims takes a context or a stream (R286, R305). -/
def sourceTaken (s : State) (pointCloud : Bool) (n : Nat) : Bool :=
  (List.range 64).any fun g => holds s g && match (s.slot g).pkg with
    | some p => p.stations.any fun st => decide (st.params = .source pointCloud n)
    | none => false

/-- The abort code of a write of a context's PORT (R288, R297). -/
def bindRefusal (s : State) (c v : Nat) : Option Abort :=
  let on (p : Nat) : Bool := decide (p < 24) && s.on (Reg.CAM_ENABLE p)
  if on v ∨ on (s.r (Reg.CTX_PORT c)) then some 8
  else if v = 0xFF then none
  else if 24 ≤ v then some 5
  else if !groupOk (s.rStaged (Reg.CTX_OUT_MODE c)) (s.rStaged (Reg.CTX_GROUP c)) (some (s.rStaged (Reg.CAM_WIDTH v))) then some 5
  else if (ctxOfPort s v).any fun d => decide (d ≠ c) then some 6
  else none

/-- The abort code of a write of GOLDEN_CTX (R412). -/
def goldenCtxRefusal (s : State) (pipe v : Nat) : Option Abort :=
  if 9 ≤ v then some 5
  else
    let port := s.r (Reg.CTX_PORT (9 * pipe + v))
    if port < 24 ∧ !shareOk s pipe (demand s noWrite port 8) then some 7 else none

/-! ## Closing a frame (R268, R269, R272, R274, R276) -/

/-- The sensor frame counter of a frame (R269); bytes that embedded line 0 does not have are free. -/
def frameCounter (s : State) (p : Nat) (f : CamFrame) : Nat :=
  let n := s.r (Reg.CAM_FC_BYTES p)
  match f.emb with
  | [] => 0xFFFFFFFF
  | b :: _ =>
    if n = 0 then 0xFFFFFFFF
    else beVal ((List.range n).map fun i => (b[s.r (Reg.CAM_FC_OFFSET p) + i]?).getD (Config.freeByte (s.free + i)))

/-- The frame as it stands at its close: marks, word and counter. -/
def sealFrame (s : State) (p : Nat) (f : CamFrame) : CamFrame :=
  let m (w : BitVec 32) (on : Bool) (b : Nat) : BitVec 32 := if on then fswMark w b else w
  let w1 := m (fswOpen p f.ctx) (decide (f.pix.length < f.params.lines)) Fsw.SHORT
  let w2 := m w1 (decide (0 < f.excess) && !f.truncated) Fsw.LONG
  let w3 := m (m w2 f.linkErr Fsw.LINK_ERR) f.late Fsw.LATE
  { f with isClosed := true, word := w3, fc := frameCounter s p f }

/-- The counters of a closed frame. -/
def countClosed (p : Nat) (f : CamFrame) (s : State) : State :=
  let c (b : Nat) (k : Key) (s : State) : State := if fswHas f.word b then s.bump k else s
  let s1 := c Fsw.LONG (Reg.CAM_LONG p) (c Fsw.SHORT (Reg.CAM_SHORT p) s)
  let s2 := c Fsw.LATE (Reg.CAM_LATE p) (c Fsw.LINK_ERR (Reg.CAM_LINK_ERR p) s1)
  if fswHas f.word Fsw.LONG then s2.bumpBy (Reg.CAM_LINES_DROPPED p) f.excess else s2

/-- The closed frame goes to its pipe, or its raw buffer is freed (R274, R288, R563). -/
def handOn (p : Nat) (f : CamFrame) (s : State) : State :=
  let s1 := if !f.toRaw then s
    else if f.ctx = 0xFF ∨ portSuspect s p then freeRaw f s
    else modPipe (f.ctx / 9) (fun x => { x with ready := x.ready ++ [f] }) s
  if f.toInline then closeInline (f.ctx / 9) f s1 else s1

/-- Closes the frame in progress of a port. -/
def closeFrame (p : Nat) (s : State) : State :=
  match (s.port p).cur with
  | none => s
  | some f =>
    let f1 := sealFrame s p f
    let s1 := countClosed p f1 (s.setPort p { s.port p with cur := none })
    handOn p f1 (ringClose f1 { s1 with free := s1.free + 4 })

/-- Applies a function to the frame in progress. -/
def modCur (p : Nat) (g : CamFrame → CamFrame) (s : State) : State :=
  s.setPort p { s.port p with cur := (s.port p).cur.map g }

/-! ## Ports and links (R262, R263) -/

/-- Begins training of a port's link. -/
def trainPort (p : Nat) (s : State) : State := s.setR (Reg.CAM_LINK_STATE p) 1

/-- The values that a port's next frame start will latch, staged ones in force. -/
def nextParams (s : State) (p : Nat) (c : Option Nat) : ParamSet := paramsOf (s.applyStaged (frameKeys p c)) p c

/-- The bytes of a raw frame buffer (R274). -/
def rawSize (q : ParamSet) : Nat := (q.embLines + q.lines) * ringStride q

/-- Whether a context is its pipe's in-line context (R287). -/
def isInline (c : Option Nat) : Bool := c.any fun c => decide (c % 9 = 0)

/-- The three raw frame buffers that the enabling of a port allocates, unless its context is in-line (R274). -/
def rawBuffers (p : Nat) (c : Option Nat) (s : State) : State :=
  if isInline c then s
  else forEach (List.range 3) (fun k s => allocate (.raw p (3 * (s.port p).epoch + k)) (rawSize (nextParams s p c)) s) s

/-- An accepted ENABLE = 1. -/
def enablePort (p : Nat) (s : State) : State :=
  if s.on (Reg.CAM_ENABLE p) then s
  else
    let x := s.port p
    let c := ctxOfPort s p
    let s1 := rawBuffers p c ((trainPort p (s.setR (Reg.CAM_ENABLE p) 1)).setPort p { x with
      cur := none, prevTs := none, discarding := false, rawUsed := [], epoch := x.epoch + 1 })
    match c with
    | some d => contextBuffers d (nextParams s1 p c) (modCtx d (fun y => { y with history := [], base := y.nextNo, newest := none }) s1)
    | none => s1

/-- The raw buffers of a port that is disabled: those that hold no frame are released (R274). -/
def releaseRaw (p : Nat) (s : State) : State :=
  let x := s.port p
  freeSpace (fun o => (List.range 3).any fun k => decide (o = .raw p (3 * x.epoch + k)) && !x.rawUsed.contains k) s

/-- An accepted ENABLE = 0. -/
def disablePort (p : Nat) (s : State) : State :=
  if !s.on (Reg.CAM_ENABLE p) then s
  else
    let s1 := releaseRaw p (((closeFrame p s).setR (Reg.CAM_ENABLE p) 0).setR (Reg.CAM_LINK_STATE p) 0)
    match ctxOfPort s p with
    | some c => goldenPortDisabled c s1
    | none => s1

/-- An accepted GEAR. -/
def writeGear (p v : Nat) (s : State) : State :=
  if s.on (Reg.CAM_ENABLE p) then trainPort p ((closeFrame p s).setR (Reg.CAM_GEAR p) v) else s.setR (Reg.CAM_GEAR p) v

/-- LINK_TRAINING_COMPLETE (R262, R278). -/
def execLinkTrainingComplete (p : Fin 24) (fsyncLatency : BitVec 32) (s : State) : Host.Outcome State Fault Refusal :=
  .next (if s.on (Reg.CAM_ENABLE p.val) ∧ s.r (Reg.CAM_LINK_STATE p.val) = 1 then
    ((s.setR (Reg.CAM_LINK_STATE p.val) 2).setR (Reg.CAM_FSYNC_LATENCY p.val) fsyncLatency.toNat).setPort p.val
      { s.port p.val with prevTs := none, discarding := false }
  else s)

/-- APHY_LINK_LOSS (R263). -/
def execAphyLinkLoss (p : Fin 24) (s : State) : Host.Outcome State Fault Refusal :=
  .next (if portUp s p.val then
    let s1 := closeFrame p.val (modCur p.val (fun f => { f with linkErr := true }) s)
    raise Src.APHY_LINK_LOSS (.port p.val) (trainPort p.val (s1.bump (Reg.CAM_LINK_LOSS p.val)))
  else s)

/-- APHY_RETRANSMISSION (R264). -/
def execAphyRetransmission (p : Fin 24) (s : State) : Host.Outcome State Fault Refusal :=
  .next (if portUp s p.val then s.bump (Reg.CAM_RETX p.val) else s)

/-! ## Packets (R264 to R271) -/

/-- A packet ends at a port: a corrected header is counted and marks the frame in progress; the silence of R268 is measured from
the last packet of the port's virtual channel (R267). -/
def touchPort (p : Nat) (vc : Fin 16) (hdrCorrected : Bool) (s : State) : State :=
  let s1 := if vc.val = s.r (Reg.CAM_VC p) then s.setPort p { s.port p with lastPkt := s.t3 } else s
  if hdrCorrected then s1.bump (Reg.CAM_HDR_CORR p) else s1

/-- A line that is not stored after truncation (R270). -/
def loseLine (p : Nat) (s : State) : State :=
  if (s.port p).cur.isSome then modCur p (fun f => { f with truncated := true }) (s.bump (Reg.CAM_LINES_LOST p)) else s

/-- A lost long packet (R264, R267, R270). -/
def lostPacket (p : Nat) (s : State) : State := loseLine p (modCur p (fun f => { f with linkErr := true }) s)

/-- APHY_PACKET_LOST (R264). -/
def execAphyPacketLost (p : Fin 24) (s : State) : Host.Outcome State Fault Refusal :=
  .next (if portUp s p.val then lostPacket p.val s else s)

/-- HEADER_UNCORRECTABLE (R267). -/
def execHeaderUncorrectable (p : Fin 24) (couldBeLong : Bool) (s : State) : Host.Outcome State Fault Refusal :=
  .next (if portUp s p.val then
    let s1 := modCur p.val (fun f => { f with linkErr := true }) (s.bump (Reg.CAM_HDR_UNCORR p.val))
    if couldBeLong then lostPacket p.val s1 else s1
  else s)

/-- The frame in progress is marked LINK_ERR for a corrected header or a payload CRC error, which is counted (R267). -/
def markLink (p : Nat) (crcOk hdrCorrected : Bool) (s : State) : State :=
  let s1 := if crcOk then s else s.bump (Reg.CAM_CRC_ERR p)
  if !crcOk ∨ hdrCorrected then modCur p (fun f => { f with linkErr := true }) s1 else s1

/-- A packet that the port does not accept (R265). -/
def dropPacket (p : Nat) (s : State) : State := s.bump (Reg.CAM_OTHER_DROP p)

/-- The trigger that owns a port's frame sync (R328). -/
def syncOwner (s : State) (p : Nat) : Option Nat := (List.range 32).find? fun t => bit (s.r (Reg.TRG_PORTS t)) p

/-- The distance of two numbers. -/
def distance (a b : Nat) : Nat := if a ≤ b then b - a else a - b

/-- Whether a frame that starts now is LATE (R273). -/
def startLate (s : State) (p : Nat) : Bool :=
  let x := s.port p
  let tol := s.r (Reg.CAM_SOF_TOL p)
  if tol = 0 ∨ x.syncMoved then false
  else match syncOwner s p with
    | some _ => match x.trigInstant with
      | some (b, i) => decide (tol < distance (s.t b) (i + s.r (Reg.CAM_SOF_DELAY p)))
      | none => false
    | none => match x.prevTs with
      | some t => decide (tol < distance (s.t 0) (t + s.r (Reg.CAM_FRAME_PERIOD p) * 1000))
      | none => false

/-- The free raw frame buffer of a port that a frame takes (R274, R275). -/
def rawBuffer (p : Nat) (q : ParamSet) (s : State) : Option (Nat × State) :=
  let x := s.port p
  (List.range 3).findSome? fun k =>
    if x.rawUsed.contains k then none else (ensureSpace (.raw p (3 * x.epoch + k)) (rawSize q) s).map fun t => (k, t)

/-- Takes a raw frame buffer for a frame that is not in-line, where one is free (R274). -/
def takeRaw (p : Nat) (c : Option Nat) (q : ParamSet) (s : State) : Option Nat × State :=
  if isInline c then (none, s)
  else match rawBuffer p q s with
    | some (k, t) => (some k, t)
    | none => (none, s)

/-- Opens a frame (R268, R273 to R276, R302). -/
def openCamFrame (p : Nat) (linkErr : Bool) (s : State) : State :=
  let c := ctxOfPort s p
  let s0 := latchFrame p c s
  let s1 := match c with
    | some c => if portSuspect s0 p then s0 else goldenFrameStart c s0
    | none => s0
  let q := paramsOf s1 p c
  let (rec_, s2) := ringOpen p q (captureSource (0x10 + p) (s1.bump (Reg.CAM_FRAMES p)))
  let (raw, s3) := takeRaw p c q s2
  let x := s3.port p
  let suspect := portSuspect s3 p
  let f : CamFrame :=
    { port := p, ctx := c.getD 0xFF, params := q, sof := s3.t 0, bases := (List.range 8).map s3.t, linkErr := linkErr
      late := startLate s3 p, word := fswOpen p (c.getD 0xFF), inRing := rec_, toRaw := raw.isSome, toInline := isInline c && !suspect
      epoch := x.epoch, rawSlot := raw.getD 0 }
  let s4 := s3.setPort p { x with
    cur := some f, prevStart := some s3.t3, prevTs := some (s3.t 0), discarding := false, syncMoved := false
    rawUsed := if f.toRaw then x.rawUsed ++ [f.rawSlot] else x.rawUsed }
  let s5 := if !isInline c ∧ raw.isNone ∧ !suspect then raise Src.INGEST_DROP (.port p) (s4.bump (Reg.CAM_BUF_DROP p)) else s4
  if f.toInline then openInline (f.ctx / 9) f s5 else s5

/-- Whether a frame start comes too early (R271). -/
def tooEarly (s : State) (p : Nat) : Bool :=
  match (s.port p).prevStart with
  | some t => decide (10 * (s.t3 - t) < 9 * (s.r (Reg.CAM_FRAME_PERIOD p) * 1000))
  | none => false

/-- FRAME_START (R265, R268, R271). -/
def execFrameStart (p : Fin 24) (hdr : PacketHeader) (s : State) : Host.Outcome State Fault Refusal :=
  .next (if portUp s p.val then
    let s0 := touchPort p.val hdr.vc hdr.corrected s
    if hdr.vc.val ≠ s.r (Reg.CAM_VC p.val) then dropPacket p.val (markLink p.val true hdr.corrected s0)
    else
      let s1 := closeFrame p.val s0
      if tooEarly s1 p.val then
        raise Src.INGEST_RATE (.port p.val) ((s1.setPort p.val { s1.port p.val with discarding := true }).bump (Reg.CAM_RATE_DROP p.val))
      else openCamFrame p.val hdr.corrected s1
  else s)

/-- FRAME_END (R265, R268). -/
def execFrameEnd (p : Fin 24) (hdr : PacketHeader) (s : State) : Host.Outcome State Fault Refusal :=
  .next (if portUp s p.val then
    let s1 := markLink p.val true hdr.corrected (touchPort p.val hdr.vc hdr.corrected s)
    if hdr.vc.val = s.r (Reg.CAM_VC p.val) then closeFrame p.val s1 else dropPacket p.val s1
  else s)

/-- Writes a line into the frame's raw buffer, if it has one, as class 1 (R274). -/
def rawLine (f : CamFrame) (emb : Bool) (b : Bytes) (s : State) : State :=
  match (if f.toRaw then s.spaceOf (.raw f.port (3 * f.epoch + f.rawSlot)) else none) with
  | some x => outsideWrite (x.base + if emb then f.emb.length * ringStride f.params else rawLineAt f f.pix.length) b 0 s
  | none => s

/-- Stores a line's bytes in the frame in progress, in its raw buffer and in its ring record. -/
def storeLine (p : Nat) (emb : Bool) (bytes : Bytes) (s : State) : State :=
  match (s.port p).cur with
  | none => s
  | some f =>
    let s1 := rawLine f emb bytes (ringLine f bytes s)
    let crc := bytes.foldl crcByte f.dataCrc
    modCur p (fun f => if emb then { f with emb := f.emb ++ [bytes], dataCrc := crc }
      else { f with pix := f.pix ++ [bytes], dataCrc := crc }) s1

/-- A pixel line of a frame in progress (R265, R270, R272). -/
def takePixelLine (p : Nat) (f : CamFrame) (bytes : Bytes) (s : State) : State :=
  if bytes.length ≠ lineBytes f.params then loseLine p (s.bump (Reg.CAM_WIDTH_ERR p))
  else if f.truncated then loseLine p s
  else if f.params.lines ≤ f.pix.length then modCur p (fun f => { f with excess := f.excess + 1 }) s
  else storeLine p false bytes s

/-- PIXEL_LINE (R265, R267, R270): the port accepts one pixel data type on one virtual channel. -/
def execPixelLine (p : Fin 24) (bytes : Bytes) (crcOk : Bool) (hdr : TypedHeader) (s : State) :
    Host.Outcome State Fault Refusal :=
  .next (if portUp s p.val then
    let s1 := markLink p.val crcOk hdr.corrected (touchPort p.val hdr.vc hdr.corrected s)
    if hdr.vc.val ≠ s.r (Reg.CAM_VC p.val) then dropPacket p.val s1
    else match (s1.port p.val).cur with
      | some f => if hdr.dataType.val = f.params.dataType then takePixelLine p.val f bytes s1 else dropPacket p.val s1
      | none => if hdr.dataType.val = s.r (Reg.CAM_DATA_TYPE p.val) then s1 else dropPacket p.val s1
  else s)

/-- EMBEDDED_LINE (R265, R267, R269). -/
def execEmbeddedLine (p : Fin 24) (bytes : Bytes) (crcOk : Bool) (hdr : PacketHeader) (s : State) : Host.Outcome State Fault Refusal :=
  .next (if portUp s p.val then
    let s1 := markLink p.val crcOk hdr.corrected (touchPort p.val hdr.vc hdr.corrected s)
    if hdr.vc.val ≠ s.r (Reg.CAM_VC p.val) then dropPacket p.val s1
    else match (s1.port p.val).cur with
      | some f =>
        if f.emb.length < f.params.embLines ∧ bytes.length ≤ lineBytes f.params then storeLine p.val true bytes s1 else dropPacket p.val s1
      | none => s1
  else s)

/-- OTHER_PACKET (R265, R267): line-start and line-end packets of the port's virtual channel are accepted and ignored, every other
packet is discarded and counted; header and payload are checked all the same. -/
def execOtherPacket (p : Fin 24) (hdr : TypedHeader) (crcOk : Bool) (s : State) : Host.Outcome State Fault Refusal :=
  .next (if portUp s p.val then
    let s1 := markLink p.val crcOk hdr.corrected (touchPort p.val hdr.vc hdr.corrected s)
    if hdr.vc.val = s.r (Reg.CAM_VC p.val) ∧ within hdr.dataType.val 2 3 then s1 else dropPacket p.val s1
  else s)

/-- LINE_TIMEOUT (R268): the silence has lasted LINE_TIMEOUT µs, and no packet of the port's virtual channel is arriving. -/
def execLineTimeout (p : Silence) (s : State) : Host.Outcome State Fault Refusal :=
  .next (if !p.arriving ∧ (s.port p.port.val).cur.isSome ∧ (s.port p.port.val).lastPkt + s.r (Reg.CAM_LINE_TIMEOUT p.port.val) * 1000 ≤ s.t3 then
      closeFrame p.port.val s
    else s)

/-- A buffer of an A-PHY receive group's bridge overflows (R40, R270): the frames of its four ports are truncated, and the line of
`port` that is lost is counted. -/
def loseGroup (g : Nat) (port : Option (Fin 24)) (s : State) : State :=
  let s1 := forEach (List.range 4) (fun k s => modCur (4 * g + k) (fun f => { f with truncated := true }) s) s
  match port with
  | some p => if p.val / 4 = g then loseLine p.val s1 else s1
  | none => s1

/-! ## Tunnelled I2C (R279) -/

/-- Whether a request has its length: 6 bytes for a read, 6 + LENGTH for a write. -/
def i2cLength (b : Bytes) : Bool :=
  decide (6 ≤ b.length) && decide (b.length = if bit (field b 1 1) 0 then 6 else 6 + field b 2 1)

/-- The abort code of a write of I2C_REQ. -/
def i2cRefusal (s : State) (p : Nat) (b : Bytes) : Option Abort :=
  let n := field b 2 1
  if !i2cLength b then some 4
  else if (nth 0#8 (s.blob (Reg.CAM_I2C_RESP p)) 0).toNat = 1 then some 8
  else if bit (field b 0 1) 7 ∨ 4 ≤ field b 1 1 ∨ !within n 1 32 ∨ field b 3 1 ≠ 0
      ∨ (!bit (field b 1 1) 1 ∧ field b 5 1 ≠ 0) then some 5
  else none

/-- An accepted request: the transaction starts, or ends at once when the link is not up. -/
def i2cStart (p : Nat) (b : Bytes) (s : State) : State :=
  let s1 := s.setBlob (Reg.CAM_I2C_REQ p) b
  if portUp s p then
    ((s1.setBlob (Reg.CAM_I2C_RESP p) [1#8, 0#8]).setPort p { s1.port p with i2cAt := s.t3 }).emit (.i2c p b)
  else s1.setBlob (Reg.CAM_I2C_RESP p) [4#8, 0#8]

/-- I2C_DONE (R279): the transaction under way ends with a status; a read that is done returns LENGTH bytes. -/
def execI2cDone (p : Fin 24) (status : Fin 6) (data : Bytes) (s : State) : Host.Outcome State Fault Refusal :=
  let q := s.blob (Reg.CAM_I2C_REQ p.val)
  let busy := (nth 0#8 (s.blob (Reg.CAM_I2C_RESP p.val)) 0).toNat = 1
  let n := if status = 0 ∧ bit (field q 1 1) 0 then field q 2 1 else 0
  .next (if busy ∧ status ≠ 1 ∧ (status ≠ 5 ∨ (s.port p.val).i2cAt + 10000000 ≤ s.t3) then
    { s.setBlob (Reg.CAM_I2C_RESP p.val) (BitVec.ofNat 8 status.val :: BitVec.ofNat 8 n ::
        (List.range n).map fun i => (data[i]?).getD (Config.freeByte (s.free + i))) with free := s.free + n }
  else s)

/-! ## Point-cloud streams (R280 to R285) -/

/-- Why a packet is discarded before its check word is looked at (R282). -/
def pclBad (n : Nat) (b : Bytes) : Bool :=
  let k := field b 0xE 2
  decide (slice b 0 2 ≠ [0x43#8, 0x50#8]) || decide (field b 2 1 ≠ 1) || decide (2 ≤ field b 3 1) || decide (field b 4 1 ≠ n)
    || !zeroAt b 5 3 || !zeroAt b 0x18 4 || !within k 1 90 || decide (b.length ≠ 32 + 16 * k)

/-- How far one SCAN_SEQ is above another, modulo 2^32. -/
def seqAbove (new old : Nat) : Nat := (new + 2 ^ 32 - old % 2 ^ 32) % 2 ^ 32

/-- The tensor of a stream: FP32, 4 elements a point, MAX_POINTS points (R285). -/
def scanTensor (s : State) (n : Nat) : Tensor :=
  let k := s.r (Reg.PCL_MAX_POINTS n)
  { format := 0x09, zc := false, dim0 := 4, dim1 := k, dim2 := 1, stride1 := 32, stride2 := 32 * k }

/-- What an open scan delivers. -/
def scanDelivery (s : State) (n : Nat) (x : Scan) (word : BitVec 32) : Delivery :=
  ⟨x.seq, x.ts, word, s.baseOf (.scan n x.turn), scanTensor s n⟩

/-- Gives the buffer of a scan room for MAX_POINTS points. -/
def scanSpace (n turn : Nat) (s : State) : State :=
  (ensureSpace (.scan n turn) (headerRoom + tensorBytes (scanTensor s n)) s).getD s

/-- Writes the header of a scan's tensor, as far as it has a buffer (R115, R285). -/
def writeScanHeader (d : Delivery) (seq : Nat) (final : Bool) (points : Nat) (s : State) : State :=
  if d.base = 0 then s else outsideWrite d.base (sharedHeader d seq final (4, points, 1)) 0 s

/-- Tile `k` of a scan: 1,024 points (R285). -/
def scanTile (x : Scan) (k : Nat) : Desc :=
  let part := (x.points.drop (1024 * k)).take 1024
  ⟨k, 0, 1024 * k, 0, 4, part.length, 1, 0, false, false, 0xFF, crc32c part.flatten⟩

/-- Writes point `k` of a scan to its buffer, as the ingest writes of class 1 (R226, R285). -/
def storePoint (n : Nat) (x : Scan) (b : Bytes) (k : Nat) (s : State) : State :=
  match s.spaceOf (.scan n x.turn) with
  | some z => outsideWrite (z.base + headerRoom + 32 * k) b 0 s
  | none => s

/-- Announces tiles `a` to `b` - 1 of a scan to its takers. -/
def announceScan (x : Scan) (a b : Nat) (s : State) : State :=
  forEach x.takers (fun t s => forEach ((List.range b).drop a) (fun k s => sourceTile (scanTile x k) t s) s) s

/-- Whether packets of a scan are missing (R283). -/
def scanLost (x : Scan) : Bool := !x.sawLast || !(List.range (x.pkts.foldl max 0 + 1)).all fun k => x.pkts.contains k

/-- The frame status word of a scan (R285). -/
def scanWord (n : Nat) (x : Scan) : BitVec 32 :=
  let m (w : BitVec 32) (on : Bool) (b : Nat) : BitVec 32 := if on then fswMark w b else w
  m (m (m (fswOpen 0xFF n) x.dropped Fsw.LONG) (scanLost x) Fsw.LINK_ERR) x.late Fsw.LATE

/-- Closes the open scan of a stream (R283, R285). -/
def closeScan (n : Nat) (s : State) : State :=
  let x := s.scan n
  if !x.isOpen then s
  else
    let k := x.points.length
    let s1 := announceScan x (k / 1024) (ceilDiv k 1024) s
    let d := scanDelivery s1 n x (scanWord n x)
    let s2 := writeScanHeader d x.seq true k s1
    let s3 := (forEach x.takers (sourceLast (4, k, 1) d.word) s2).bump (Reg.PCL_SCANS n)
    let s4 := if scanLost x then s3.bump (Reg.PCL_PKT_LOST n) else s3
    s4.setScan n { lastSeq := some x.seq, prevTs := some x.ts, turn := 1 - x.turn }

/-- The keys that the opening of a scan latches (R286). -/
def scanKeys (n : Nat) (k : Key) : Bool := decide (k / 256 = 0x2500 + n) && within (k % 256) 4 7

/-- Opens a scan (R283, R284). -/
def openScan (n seq : Nat) (s : State) : State :=
  let s1 := s.applyStaged (scanKeys n)
  let x := s1.scan n
  let tol := s1.r (Reg.PCL_SCAN_TOL n)
  let late := match x.prevTs with
    | some t => decide (tol ≠ 0) && decide (tol < distance (s1.t 0) (t + s1.r (Reg.PCL_SCAN_PERIOD n) * 1000))
    | none => false
  let y := { x with isOpen := true, seq := seq, pkts := [], points := [], dropped := false, sawLast := false, ts := s1.t 0, late := late }
  let s2 := scanSpace n x.turn s1
  let d := scanDelivery s2 n y 0#32
  let (takers, s3) := if d.base = 0 then ([], s2) else takeSources true n d (writeScanHeader d seq false d.tensor.dim1 s2)
  let s4 := s3.setScan n { y with takers := takers }
  if late then s4.bump (Reg.PCL_SCAN_LATE n) else s4

/-- Stores an accepted packet in the open scan; its LAST packet closes the scan. -/
def storePacket (n : Nat) (b : Bytes) (s : State) : State :=
  let x := s.scan n
  let k := field b 0xE 2
  let room := s.r (Reg.PCL_MAX_POINTS n) - x.points.length
  let pts := (List.range (min k room)).map fun i => slice b (32 + 16 * i) 16
  let y := { x with pkts := x.pkts ++ [field b 0xC 2], points := x.points ++ pts, dropped := x.dropped || decide (room < k)
                    sawLast := x.sawLast || bit (field b 3 1) 0, lastPkt := s.t3 }
  let s0 := forEach pts.zipIdx (fun b s => storePoint n y b.1 (x.points.length + b.2) s) (s.setScan n y)
  let s1 := announceScan y (x.points.length / 1024) (y.points.length / 1024) s0
  let s2 := s1.bumpBy (Reg.PCL_POINTS_DROPPED n) (k - room)
  if y.sawLast then closeScan n s2 else s2

/-- A packet that passed its checks (R282, R283). -/
def acceptPacket (n : Nat) (b : Bytes) (s : State) : State :=
  let x := s.scan n
  let seq := field b 8 4
  let stale := s.bump (Reg.PCL_PKT_STALE n)
  if x.isOpen then
    if seq = x.seq then (if x.pkts.contains (field b 0xC 2) then stale else storePacket n b s)
    else if within (seqAbove seq x.seq) 1 (2 ^ 31) then storePacket n b (openScan n seq (closeScan n s))
    else stale
  else match x.lastSeq with
    | some l => if within (seqAbove seq l) 1 (2 ^ 31) then storePacket n b (openScan n seq s) else stale
    | none => storePacket n b (openScan n seq s)

/-- The stream bound to an Ethernet port and a UDP destination port (R280). -/
def streamOf (s : State) (eth udp : Nat) : Option Nat :=
  (List.range 16).find? fun n => s.on (Reg.PCL_ENABLE n) && decide (s.r (Reg.PCL_PORT n) = eth) && decide (s.r (Reg.PCL_UDP n) = udp)

/-- A point-cloud packet arrives (R282). -/
def pclReceive (eth udp : Nat) (b : Bytes) (s : State) : State :=
  match streamOf s eth udp with
  | none => s
  | some n =>
    if pclBad n b then s.bump (Reg.PCL_PKT_BAD n)
    else if crc32c (slice b 0 0x1C ++ b.drop 32) ≠ field b 0x1C 4 then s.bump (Reg.PCL_PKT_CHECK_ERR n)
    else acceptPacket n b s

/-- PCL_PACKET (R282). -/
def execPclPacket (eth : Fin 2) (udp : BitVec 16) (payload : Bytes) (s : State) : Host.Outcome State Fault Refusal :=
  .next (pclReceive eth.val udp.toNat payload s)

/-- SCAN_TIMEOUT (R283). -/
def execScanTimeout (n : Fin 16) (s : State) : Host.Outcome State Fault Refusal :=
  let x := s.scan n.val
  .next (if x.isOpen ∧ x.lastPkt + s.r (Reg.PCL_SCAN_TIMEOUT n.val) * 1000 ≤ s.t3 then closeScan n.val s else s)

end Sys2Proof.Machine
end

