-- ==== Sys2Proof/Machine/Display.lean ====
section
/-! DEFINITION. Display output and composition (19): timing, planes, the compositor, output frames and their repeats. -/

namespace Sys2Proof.Machine

open Sys2Proof

/-- A colour: red, green, blue. -/
abbrev Pixel := Nat × Nat × Nat

/-! ## Checks of writes (R497, R500 to R502, R513) -/

/-- The limits of R497 on a port's values, by subindex. -/
def timingOk (v : Nat → Nat) : Bool :=
  within (v 2) 3 5 && within (v 3) 320 3840 && decide (v 3 % 2 = 0) && within (v 4) 240 2160 && decide (v 3 + 32 ≤ v 5)
    && decide (4 ≤ v 7) && decide (v 7 + v 4 + 1 ≤ v 6) && within (v 8) 25000 600000
    && decide (v 3 * v 4 * 24 * v 8 * 1000 * 10 ≤ 9 * ((v 2 - 1) * 4 * 10 ^ 9) * (v 5 * v 6))

/-- The abort code of a write of a display port entry; `v` gives every value of the port as the write leaves it. -/
def displayRefusal (s : State) (d : Nat) (timing : Bool) (v : Nat → Nat) : Option Abort :=
  if timing ∧ s.on (Reg.DSP_ENABLE d) then some 8
  else if !timingOk v ∨ 2 ≤ v 1 ∨ 2 ^ 24 ≤ v 9 ∨ 2 ≤ v 10 ∨ v 12 = 0 then some 5
  else none

/-- The decimation factor of a MODE. -/
def decimation (mode : Nat) : Nat := 2 ^ (mode % 4)

/-- The fields of SRC_RECT: x, y, width, height. -/
def rectOf (r : Nat) : Nat × Nat × Nat × Nat := (bitsOf r 15 0, bitsOf r 31 16, bitsOf r 47 32, bitsOf r 63 48)

/-- R502 on a plane's rectangle, mode and source. -/
def rectOk (s : State) (rect mode source : Nat) : Bool :=
  let (x, y, w, h) := rectOf rect
  let f := decimation mode
  decide (w % f = 0) && decide (h % f = 0) && match (if source < 36 then some (s.r (Reg.CTX_PORT source)) else none) with
    | some p => decide (24 ≤ p) || (decide (x + w ≤ s.rStaged (Reg.CAM_WIDTH p)) && decide (y + h ≤ s.rStaged (Reg.CAM_LINES p)))
    | none => true

/-- The abort code of a write of a plane's entries (planes numbered 4 times port plus plane); `source` says that SOURCE is
written, `v` gives every value of the plane as the write leaves it. -/
def planeRefusal (s : State) (n : Nat) (source : Bool) (v : Nat → Nat) : Option Abort :=
  if 2 ≤ v 1 ∨ 32 ≤ v 5 ∨ v 5 % 4 = 3 ∨ 2 ^ 24 ≤ v 7 then some 5
  else if source ∧ (planeOwner s n).isSome then some 6
  else if source ∧ !(v 2 < 36 ∨ v 2 = 0xFF) then some 5
  else if v 2 < 36 ∧ source ∧ s.rStaged (Reg.CTX_OUT_FORMAT (v 2)) ≠ 0x02 then some 5
  else if !rectOk s (v 3) (v 5) (v 2) then some 5
  else none

/-- Whether an enabled plane shows a context (R501). -/
def contextShown (s : State) (c : Nat) : Bool :=
  (List.range 16).any fun k => s.on (Reg.PLN_ENABLE k) && decide (s.r (Reg.PLN_SOURCE k) = c)

/-! ## Output frames (R498, R500, R503, R504, R508) -/

/-- The trigger that owns a port's vertical sync (R328). -/
def vsyncOwner (s : State) (d : Nat) : Option Nat := (List.range 32).find? fun t => bit (s.r (Reg.TRG_DISPLAYS t)) d

/-- Whether a MODE has FOLLOW. -/
def follows (mode : Nat) : Bool := bit mode 4

/-- The frames of a context that a FOLLOW plane can show, the newest first, and whether a newer one is still on its way to
the pipe (R503). -/
def followFrames (s : State) (c : Nat) : Bool × List OutFrame :=
  let x := s.ctx c
  let open_ := (x.bufs.filter fun o => !o.isDone && decide (x.base ≤ o.no)).reverse
  let waiting := (s.pipe (c / 9)).ready.any (fun f => decide (f.ctx = c))
    || s.ports.any fun p => match p.2.cur with
      | some f => decide (f.ctx = c) && f.toRaw
      | none => false
  (waiting, open_ ++ x.newest.toList)

/-- Whether a camera plane shows FILL (R504). -/
def planeStale (s : State) (c : Nat) (mode : Nat) : Bool :=
  let port := s.r (Reg.CTX_PORT c)
  let shown := if follows mode then (followFrames s c).2.head? else (s.ctx c).newest
  if (s.ctx c).newest.isNone ∨ 24 ≤ port ∨ !s.on (Reg.CAM_ENABLE port) then true
  else match shown with
    | some o => decide (o.frame.sof + 2 * s.r (Reg.CAM_FRAME_PERIOD port) * 1000 < s.t 0)
    | none => true

/-- The record that an overlay plane shows, with its parameters (R508, R509). -/
def overlayShown (s : State) (n : Nat) : Option (Rec × OverlayRec) :=
  match planeOwner s n, sfind n s.net.overlayRec with
  | some (g, st), some r =>
    let period := s.r (Reg.TRG_PERIOD (((s.slot g).pkg.bind fun p => p.trigger).getD 0))
    let fresh := decide (s.t 0 * 65536 ≤ r.timestamp * 65536 + 2 * period)
    match (publishOf s g st).bind fun p => p.overlay with
    | some o => if fswHas r.word Fsw.VALID && fresh && !s.drained then some (r, o) else none
    | none => none
  | _, _ => none

/-- Samples plane `n` at an output frame's start. -/
def samplePlane (s : State) (n : Nat) : PlaneShot :=
  let src := s.r (Reg.PLN_SOURCE n)
  let mode := s.r (Reg.PLN_MODE n)
  let o := if src = 0xFE then overlayShown s n else none
  { enable := s.on (Reg.PLN_ENABLE n), source := src, rect := s.r (Reg.PLN_SRC_RECT n), pos := s.r (Reg.PLN_DST_POS n)
    mode := mode, alpha := s.r (Reg.PLN_ALPHA n), fill := s.r (Reg.PLN_FILL n)
    showFill := decide (src < 36) && planeStale s src mode
    cam := if src < 36 ∧ !follows mode then (s.ctx src).newest else none
    shown := o.map Prod.fst, overlaid := o.map Prod.snd }

/-- What a plane shows at an output frame's start, for R511. -/
def PlaneShot.shows (x : PlaneShot) : Option Nat × Option Rec :=
  if !x.enable then (none, none) else (if x.showFill then none else x.cam.map fun o => o.no, x.shown)

/-- An output frame of a port starts (R500). -/
def startOutput (d : Nat) (s : State) : State :=
  let shots := (List.range 4).map fun k => samplePlane s (4 * d + k)
  let x := s.dsp d
  let s1 := forEach (shots.zipIdx) (fun q s =>
    if q.1.enable ∧ q.1.showFill then s.bump (Reg.PLN_STALE_FRAMES (4 * d + q.2)) else s) s
  freeOutBufs (s1.setDsp d { x with active := true, line := 0, fetchNext := 0, fetched := [], planes := shots, crc := 0xFFFFFFFF
                                    shown := shots.map fun q => q.shows })

/-- Whether a port sends output frames: enabled, its link up (R499). -/
def displayUp (s : State) (d : Nat) : Bool := s.on (Reg.DSP_ENABLE d) && decide (s.r (Reg.DSP_LINK_STATE d) = 2)

/-- An instant of the trigger that owns a port's vertical sync (R498). -/
def vsyncInstant (d : Nat) (s : State) : State :=
  if !displayUp s d then s
  else if (s.dsp d).active then s.bump (Reg.DSP_VSYNC_MISSED d)
  else startOutput d s

/-- DSP_FRAME_START (R498, R500) of a port that no trigger owns; an owned one starts at its trigger's instants. -/
def execDspFrameStart (d : Fin 4) (s : State) : Host.Outcome State Fault Refusal :=
  .next (if displayUp s d.val ∧ !(s.dsp d.val).active ∧ (vsyncOwner s d.val).isNone then startOutput d.val s else s)

/-! ## Pixels (R501 to R507, R512) -/

/-- The colour of a 24-bit RGB value. -/
def rgbOf (v : Nat) : Pixel := (bitsOf v 23 16, bitsOf v 15 8, bitsOf v 7 0)

/-- n / d to nearest, ties to even, clamped to a byte (R501). -/
def toByte (n d : Int) : Nat := (max 0 (min 255 (divEven n d))).toNat

/-- The colour of a pixel of a stored row (R296, R501). -/
def rowPixel (q : ParamSet) (row : List Nat) (x : Nat) : Pixel :=
  let g := max 1 q.group
  let base := x / g * outDim0 q
  let at' (n : Nat) : Int := signed 8 (nth 0 row (base + n))
  let yuv (y u v : Int) : Pixel :=
    let l := (y + 128) * 10000
    (toByte (l + 15748 * v) 10000, toByte (l - 1873 * u - 4681 * v) 10000, toByte (l + 18556 * u) 10000)
  let i := x % g
  match q.outMode with
  | 0 => (toByte (at' i + 128) 1, toByte (at' (g + i) + 128) 1, toByte (at' (2 * g + i) + 128) 1)
  | 1 => yuv (at' i) (at' (g + i)) (at' (2 * g + i))
  | 2 => yuv (at' i) (at' (g + i / 2)) (at' (g + g / 2 + i / 2))
  | _ => let y := toByte (at' i + 128) 1; (y, y, y)

/-- A stored row found for a line: the row with its frame's parameters, none where FILL stands (R503). -/
abbrev FoundRow := Option (ParamSet × List Nat)

/-- The newest frame that has row `y` written; the second part says whether it is an earlier one than the newest. -/
def followRow (y : Nat) : Bool → List OutFrame → Option OutFrame × Bool
  | _, [] => (none, false)
  | lag, o :: t =>
    if y < o.rows then (some o, lag)
    else if o.isDone then (none, lag) else followRow y true t

/-- The frame that supplies row `y` of a camera plane's source. -/
def planeRow (s : State) (x : PlaneShot) (y : Nat) : Option OutFrame × Bool :=
  if x.showFill ∨ bit (s.r Reg.SUSPECT_PIPE) (x.source / 9) then (none, false)
  else if follows x.mode then
    let l := followFrames s x.source
    followRow y l.1 l.2
  else (x.cam.filter fun o => decide (y < o.rows), false)

/-- Reads groups `k` to `k + n - 1` of row `y` of an output buffer as class 1 (R240). -/
def readGroupsOf (q : ParamSet) (base y : Nat) : Nat → Nat → State → List Nat × State
  | 0, _, s => ([], s)
  | n + 1, k, s =>
    let t := contextTensor q
    let w := (fmtOr q.outFormat).width / 8
    let x := readLoose (base + headerRoom + y * t.stride2 + k * t.stride1) (t.dim0 * w) 0 s
    let r := readGroupsOf q base y n (k + 1) x.2
    ((List.range t.dim0).map (fun i => field x.1 (w * i) w) ++ r.1, r.2)

/-- Reads row `y` of a frame of a context, from the group of column `x0` to that of the last of `w` columns. -/
def readRowOf (c : Nat) (o : OutFrame) (x0 w y : Nat) (s : State) : FoundRow × State :=
  match s.spaceOf (.context c o.buf) with
  | none => (none, s)
  | some z =>
    let q := o.frame.params
    let g := max 1 q.group
    let r := readGroupsOf q z.base y ((x0 + w + g - 1) / g - x0 / g) (x0 / g) s
    (some (q, List.replicate (x0 / g * outDim0 q) 0 ++ r.1), r.2)

/-- The source rows that output line `j` needs of a plane, the topmost first; none outside the plane. -/
def lineRows (x : PlaneShot) (j : Nat) : Option (List Nat) :=
  let (_, y0, _, h) := rectOf x.rect
  let f := decimation x.mode
  let py := bitsOf x.pos 31 16
  let n := h / f
  if j < py ∨ n ≤ j - py then none
  else
    let k := if bit x.mode 3 then n - 1 - (j - py) else j - py
    some ((List.range f).map fun i => y0 + f * k + i)

/-- The leftmost source column of output column `i` of a plane; none outside the plane. -/
def lineCol (x : PlaneShot) (i : Nat) : Option Nat :=
  let (x0, _, w, _) := rectOf x.rect
  let f := decimation x.mode
  let px := bitsOf x.pos 15 0
  let n := w / f
  if i < px ∨ n ≤ i - px then none
  else some (x0 + f * (if bit x.mode 2 then n - 1 - (i - px) else i - px))

/-- The mean of some colours, rounded as R501 says. -/
def meanPixel (l : List Pixel) : Pixel :=
  let m (f : Pixel → Nat) : Nat := toByte ((l.map f).sum : Nat) l.length
  (m fun p => p.1, m fun p => p.2.1, m fun p => p.2.2)

/-- A camera or fill plane's colour at output column `i`, given the rows it needs. -/
def planePixel (x : PlaneShot) (rows : List FoundRow) (i : Nat) : Option Pixel :=
  (lineCol x i).map fun c =>
    if x.source = 0xFF then rgbOf x.fill
    else meanPixel (rows.flatMap fun r => (List.range (decimation x.mode)).map fun k => match r with
      | some (q, row) => rowPixel q row (c + k)
      | none => rgbOf x.fill)

/-- Element (c, a1, a2) of an overlay record's payload as a signed number; `n` is its size in bytes. -/
def payloadElem (r : Rec) (n c a1 a2 : Nat) : Int := signed (8 * n) (field r.payload (((a2 * r.act.2.1 + a1) * r.act.1 + c) * n) n)

/-- The palette entry that an overlay plane shows at an output position; 0 where it is transparent (R507). -/
def overlayIndex (x : PlaneShot) (r : Rec) (o : OverlayRec) (i j : Nat) : Nat :=
  let dx : Int := (i : Int) - bitsOf x.pos 15 0
  let dy : Int := (j : Int) - bitsOf x.pos 31 16
  let k : Int := 2 ^ o.shift
  if o.mode = 1 then
    let a1 := dx / k
    let a2 := dy / k
    if 0 ≤ dx ∧ 0 ≤ dy ∧ a1 < r.act.2.1 ∧ a2 < r.act.2.2 then ((payloadElem r 1 0 a1.toNat a2.toNat) % 16).toNat else 0
  else
    (List.range r.act.2.1).foldl (fun (v : Nat) b =>
      let e (c : Nat) : Int := payloadElem r 2 c b 0 / k
      let bx := e (bitsOf o.fields 7 0)
      let by_ := e (bitsOf o.fields 15 8)
      let w := e (bitsOf o.fields 23 16)
      let h := e (bitsOf o.fields 31 24)
      let inside := 0 < w ∧ 0 < h ∧ bx ≤ dx ∧ dx < bx + w ∧ by_ ≤ dy ∧ dy < by_ + h
      let edge := dx < bx + o.line ∨ bx + w - o.line ≤ dx ∨ dy < by_ + o.line ∨ by_ + h - o.line ≤ dy
      let c := if o.colour = 0xFF then 1 else (payloadElem r 2 o.colour b 0 % 16).toNat
      if inside ∧ edge ∧ c ≠ 0 then c else v) 0

/-- One colour blended over another (R505). -/
def blend (a : Nat) (p q : Pixel) : Pixel :=
  let m (x y : Nat) : Nat := (a * x + (255 - a) * y + 127) / 255
  (m p.1 q.1, m p.2.1 q.2.1, m p.2.2 q.2.2)

/-- A plane drawn over the colour below it. -/
def drawPlane (s : State) (i j : Nat) (below : Pixel) (x : PlaneShot × Option (List FoundRow)) : Pixel :=
  if !x.1.enable then below
  else if x.1.source = 0xFE then
    match x.1.shown, x.1.overlaid with
    | some r, some o =>
      let e := nth 0 o.palette (overlayIndex x.1 r o i j)
      if s.drained ∨ e = 0 then below else blend (x.1.alpha * bitsOf e 31 24 / 255) (rgbOf e) below
    | _, _ => below
  else match x.2.bind fun rows => planePixel x.1 rows i with
    | some p => blend x.1.alpha p below
    | none => below

/-- Whether the marker is drawn on a port (R512). -/
def markerOn (s : State) (d : Nat) : Bool :=
  s.on (Reg.DSP_MARKER_EN d) && (s.drained || (s.dsp d).planes.any fun x =>
    x.enable && decide (x.source < 36) && bit (s.r Reg.SUSPECT_PIPE) (x.source / 9))

/-- The marker over a colour. -/
def drawMarker (s : State) (d i j : Nat) (below : Pixel) : Pixel :=
  let p := s.r (Reg.DSP_MARKER_POS d)
  let x := bitsOf p 15 0
  let y := bitsOf p 31 16
  if x ≤ i ∧ i < x + 256 ∧ y ≤ j ∧ j < y + 64 then
    let n := (j - y) * 256 + (i - x)
    rgbOf (s.r (if bit (nth 0#8 (s.blob Reg.MARKER_BITMAP) (n / 8)).toNat (n % 8) then Reg.MARKER_FG else Reg.MARKER_BG))
  else below

/-- Fetches some source rows of a plane, with the count of those that an earlier frame supplied (R503). -/
def fetchRows (x : PlaneShot) : List Nat → State → (List FoundRow × Nat) × State
  | [], s => (([], 0), s)
  | y :: t, s =>
    let f := planeRow s x y
    let (x0, _, w, _) := rectOf x.rect
    let a := match f.1 with
      | some o => readRowOf x.source o x0 w y s
      | none => (none, s)
    let r := fetchRows x t a.2
    ((a.1 :: r.1.1, r.1.2 + if f.2 then 1 else 0), r.2)

/-- What a plane needs for line `j`: its source rows. -/
def fetchPlane (j : Nat) (x : PlaneShot) (s : State) : (Option (List FoundRow) × Nat) × State :=
  if !x.enable ∨ x.source = 0xFE then ((none, 0), s)
  else match lineRows x j with
    | none => ((none, 0), s)
    | some ys =>
      if x.source < 36 then
        let r := fetchRows x ys s
        ((some r.1.1, r.1.2), r.2)
      else ((some [], 0), s)

/-- What some planes need for line `j`. -/
def fetchPlanes (j : Nat) : List PlaneShot → State → List (PlaneShot × Option (List FoundRow) × Nat) × State
  | [], s => ([], s)
  | x :: t, s =>
    let a := fetchPlane j x s
    let r := fetchPlanes j t a.2
    ((x, a.1) :: r.1, r.2)

/-- Composes line `j` of a port from what its planes need: the pixels and the rows that lag. -/
def composeLine (s : State) (d j : Nat) (l : List (PlaneShot × Option (List FoundRow) × Nat)) : List Pixel × Nat :=
  let back := rgbOf (s.r (Reg.DSP_BACKGROUND d))
  let mark := markerOn s d
  ((List.range (s.r (Reg.DSP_H_ACTIVE d))).map fun i =>
    let c := l.foldl (fun (q : Pixel) x => drawPlane s i j q (x.1, x.2.1)) back
    if mark then drawMarker s d i j c else c, (l.map fun x => x.2.2).sum)

/-- What the planes show once a line is fetched: a FOLLOW plane shows its newest frame. -/
def shownNow (s : State) (d : Nat) : List (Option Nat × Option Rec) :=
  (s.dsp d).planes.map fun x =>
    if x.enable ∧ x.source < 36 ∧ follows x.mode ∧ !x.showFill then (((followFrames s x.source).2.head?).map (fun o => o.no), none)
    else x.shows

/-- DSP_LINE_FETCH (R510): the compositor fetches and blends the next line, at most 4 lines ahead of the scan. -/
def execDspLineFetch (d : Fin 4) (s : State) : Host.Outcome State Fault Refusal :=
  let x := s.dsp d.val
  .next (if x.active ∧ x.fetchNext < s.r (Reg.DSP_V_ACTIVE d.val) ∧ x.fetchNext ≤ x.line + 4 then
    let f := fetchPlanes x.fetchNext x.planes s
    let (px, lag) := composeLine s d.val x.fetchNext f.1
    (f.2.setDsp d.val { x with
      fetched := x.fetched ++ [(x.fetchNext, px)], fetchNext := x.fetchNext + 1, shown := shownNow s d.val }).bumpBy (Reg.DSP_LAG_ROWS d.val) lag
  else s)

/-! ## Scan and frame end (R499, R511) -/

/-- The bytes of a line of pixels in scan order. -/
def pixelBytes (l : List Pixel) : Bytes := l.flatMap fun p => [BitVec.ofNat 8 p.1, BitVec.ofNat 8 p.2.1, BitVec.ofNat 8 p.2.2]

/-- A line in BACKGROUND. -/
def backgroundLine (s : State) (d : Nat) : List Pixel :=
  List.replicate (s.r (Reg.DSP_H_ACTIVE d)) (rgbOf (s.r (Reg.DSP_BACKGROUND d)))

/-- Puts a line on the link. -/
def sendLine (d : Nat) (px : List Pixel) (s : State) : State :=
  let x := s.dsp d
  (s.setDsp d { x with
    line := x.line + 1, fetchNext := max x.fetchNext (x.line + 1), fetched := x.fetched.filter fun l => decide (x.line < l.1)
    crc := (pixelBytes px).foldl crcByte x.crc }).emit (.displayLine d x.line px)

/-- The next line is sent in BACKGROUND and counted (R499). -/
def underrun (d : Nat) (s : State) : State := (sendLine d (backgroundLine s d) s).bump (Reg.DSP_UNDERRUN d)

/-- DSP_LINE_SCAN (R499): the next active line is sent, in BACKGROUND when the compositor has not delivered it. -/
def execDspLineScan (d : Fin 4) (s : State) : Host.Outcome State Fault Refusal :=
  let x := s.dsp d.val
  .next (if x.active ∧ x.line < s.r (Reg.DSP_V_ACTIVE d.val) then
    match x.fetched.find? fun l => l.1 = x.line with
    | some l => sendLine d.val l.2 s
    | none => raise Src.BRIDGE_OVERFLOW (.domain 22) (underrun d.val s)
  else s)

/-- What a bridge overflow or underflow of domain `d` loses is counted (R40): a camera line, a display line, a received Ethernet
frame; `port` is the camera or display port that is hit. CAN FD, the time bases and the reference clock have no counter of lost
data (notes/assumptions/137.md). -/
def countLoss (d : Nat) (port : Option (Fin 24)) (s : State) : State :=
  if within d 16 21 then loseGroup (d - 16) port s
  else if d = 22 then match port with
    | some p => if p.val < 4 ∧ (s.dsp p.val).active ∧ (s.dsp p.val).line < s.r (Reg.DSP_V_ACTIVE p.val) then underrun p.val s else s
    | none => s
  else if within d 23 25 then s.bump (Reg.NET_RX_DISCARDED (d - 23))
  else s

/-- BRIDGE_OVERFLOW (R40, R270, R499): of the domains that the fabric cannot hold. -/
def execBridgeOverflow (d : Fin 40) (port : Option (Fin 24)) (s : State) : Host.Outcome State Fault Refusal :=
  .next (if within d.val 16 34 ∨ d.val = 36 then raise Src.BRIDGE_OVERFLOW (.domain d.val) (countLoss d.val port s) else s)

/-- Whether a plane of the current output frame shows another frame or record than in the previous one (R511). -/
def showsChanged (x : Disp) : Bool :=
  (x.planes.zip (x.shown.zip x.prevShown)).any fun q =>
    q.1.enable && ((decide (q.1.source < 36) && decide (q.2.1.1 ≠ q.2.2.1)) || (decide (q.1.source = 0xFE) && decide (q.2.1.2 ≠ q.2.2.2)))

/-- DSP_FRAME_END (R511): every active line has been sent. -/
def execDspFrameEnd (d : Fin 4) (s : State) : Host.Outcome State Fault Refusal :=
  let x := s.dsp d.val
  .next (if x.active ∧ x.line = s.r (Reg.DSP_V_ACTIVE d.val) then
    let sig := (x.crc ^^^ 0xFFFFFFFF#32).toNat
    let again := x.anyFrame && decide (sig = s.r (Reg.DSP_OUT_SIGNATURE d.val)) && showsChanged x
    let n := if again then x.repeats + 1 else 0
    let full := again && decide (s.r (Reg.DSP_FREEZE_N d.val) ≤ n)
    let s1 := (s.setR (Reg.DSP_OUT_SIGNATURE d.val) sig).bump (Reg.DSP_FRAMES d.val)
    let s2 := freeOutBufs (s1.setDsp d.val { x with
      active := false, fetched := [], prevShown := x.shown, repeats := if full then 0 else n, anyFrame := true })
    if full then raise Src.DSP_FREEZE (.display d.val) (s2.bump (Reg.DSP_FREEZES d.val)) else s2
  else s)

/-! ## Ports and links (R497, R499) -/

/-- An accepted ENABLE of a port. -/
def enableDisplay (d v : Nat) (s : State) : State :=
  if v = s.r (Reg.DSP_ENABLE d) then s
  else freeOutBufs (((s.setR (Reg.DSP_ENABLE d) v).setR (Reg.DSP_LINK_STATE d) v).setDsp d {})

/-- DSP_LINK_LOSS (R499): no output frame is sent until the link is up again. -/
def execDspLinkLoss (d : Fin 4) (s : State) : Host.Outcome State Fault Refusal :=
  .next (if displayUp s d.val then
    let s1 := (s.setR (Reg.DSP_LINK_STATE d.val) 1).setDsp d.val { s.dsp d.val with active := false, fetched := [] }
    raise Src.DSP_LINK_LOSS (.display d.val) (freeOutBufs (s1.bump (Reg.DSP_LINK_LOSSES d.val)))
  else s)

/-- DSP_LINK_UP (R499): training ends. -/
def execDspLinkUp (d : Fin 4) (s : State) : Host.Outcome State Fault Refusal :=
  .next (if s.on (Reg.DSP_ENABLE d.val) ∧ s.r (Reg.DSP_LINK_STATE d.val) = 1 then s.setR (Reg.DSP_LINK_STATE d.val) 2 else s)

end Sys2Proof.Machine
end

