-- ==== Sys2Proof/Machine/Rooster.lean ====
section
/-! DEFINITION. Rooster (12): staged time entries, the time commit, triggers, PPS, gPTP and captures. -/

namespace Sys2Proof.Machine

open Sys2Proof

/-! ## Servos (R317, R320) -/

/-- A servo's progress by base. -/
def State.servo (s : State) (b : Nat) : Servo := sget (fun _ => {}) s.rooster.servo b

/-- Writes a servo's progress. -/
def State.setServo (s : State) (b : Nat) (x : Servo) : State :=
  { s with rooster := { s.rooster with servo := sset (fun _ => {}) s.rooster.servo b x } }

/-- Whether a mode of a base names a servo. -/
def servoMode (b mode : Nat) : Bool := decide (b ≤ 2) && decide (mode = 1)

/-- Whether a mode of a base makes it follow another base. -/
def followMode (b mode : Nat) : Bool := (decide (4 ≤ b) && decide (mode = 1)) || ((decide (b = 1) || decide (b = 2)) && decide (mode = 2))

/-- Whether the host may steer a base, by its mode in force and its staged one (R320, R328). -/
def hostSteers (s : State) (b : Nat) : Bool :=
  [s.r (Reg.T_MODE b), s.rStaged (Reg.T_MODE b)].all fun m => !servoMode b m && !followMode b m

/-! ## Checks of staged writes (R317 to R320, R324, R328, R334, R337) -/

/-- Legal values of MODE. -/
def modeOk (b v : Nat) : Bool :=
  if b = 3 then decide (v = 0) else if b = 1 ∨ b = 2 then decide (v ≤ 3) else decide (v ≤ 1)

/-- Whether bit `i` of an output entry of some other trigger is set, in force or staged. -/
def outputTaken (s : State) (t : Nat) (key : Nat → Key) (i : Nat) : Bool :=
  (List.range 32).any fun u => decide (u ≠ t) && (bit (s.r (key u)) i || bit (s.rStaged (key u)) i)

/-- Whether a capture channel other than `c` has a source. -/
def sourceOwned (s : State) (c src : Nat) : Bool := (List.range 16).any fun d => decide (d ≠ c) && decide (s.r (Reg.CAP_SOURCE d) = src)

/-- The abort code of a write of a time-commit entry of this chapter; none when it is staged. -/
def timeRefusal (s : State) (idx sub v : Nat) : Option Abort :=
  let bad (b : Bool) : Option Abort := if b then none else some 5
  if within idx 0x6000 0x6007 then
    let b := idx - 0x6000
    match sub with
    | 2 => bad (modeOk b v)
    | 3 => bad (decide (4 ≤ b) && decide (v ≤ 3))
    | 5 =>
      if b = 3 ∨ 512000000 < (signed 32 v).natAbs then some 5 else if hostSteers s b then none else some 6
    | 6 => if b = 3 then some 5 else if hostSteers s b then none else some 6
    | _ => none
  else if idx = 0x6010 then
    bad (match sub with
      | 1 => within v 1 499999
      | 2 => decide (v ≤ 1)
      | _ => within v 1 60)
  else if idx = 0x6011 ∨ idx = 0x6012 then
    bad (match sub with
      | 1 => decide (v ≤ 127)
      | 2 => decide (-5 ≤ signed 8 v) && decide (signed 8 v ≤ 0)
      | 3 => decide (0 ≤ signed 8 v) && decide (signed 8 v ≤ 3)
      | 5 => decide (2 ≤ v)
      | _ => true)
  else if within idx 0x6100 0x611F then
    let t := idx - 0x6100
    let taken (key : Nat → Key) (n : Nat) : Bool := (bitList v n).any (outputTaken s t key)
    match sub with
    | 1 => bad (decide (v ≤ 1))
    | 2 => bad (decide (v ≤ 7))
    | 4 => bad (within v (1000 * 65536) (10 ^ 10 * 65536))
    | 5 => bad (decide (100 ≤ v) && decide (v * 2 * 65536 ≤ s.rStaged (Reg.TRG_PERIOD t)))
    | 6 => if taken Reg.TRG_PINS 8 || (bitList v 8).any fun k => sourceOwned s 16 (k + 1) then some 6 else none
    | 8 => if 2 ^ 24 ≤ v then some 5 else if taken Reg.TRG_PORTS 24 then some 6 else none
    | 9 => bad (decide (v ≤ 1))
    | 10 => if 16 ≤ v then some 5 else if taken Reg.TRG_DISPLAYS 4 then some 6 else none
    | _ => none
  else if (idx = 0x6810 ∨ idx = 0x6811) ∧ sub = 3 then bad (decide (v ≤ 1))
  else none

/-- The abort code of a write of a capture's SOURCE (R335). -/
def captureRefusal (s : State) (c v : Nat) : Option Abort :=
  if !(v ≤ 9 ∨ within v 0x10 0x27 ∨ v = 0x30 ∨ v = 0xFF) then some 5
  else if v ≠ 0xFF ∧ (sourceOwned s c v || (within v 1 8 && outputTaken s 32 Reg.TRG_PINS (v - 1))) then some 6
  else none

/-! ## Instants (R329, R331, R332) -/

/-- Instant `k` of a trigger's setting in force. -/
def instant (s : State) (t k : Nat) : Nat := s.r (Reg.TRG_START t) + k * s.r (Reg.TRG_PERIOD t) / 65536

/-- The smallest k with I(k) at or above a value. -/
def firstAt (s : State) (t v : Nat) : Nat :=
  let st := s.r (Reg.TRG_START t)
  if v ≤ st then 0 else ceilDiv ((v - st) * 65536) (max 1 (s.r (Reg.TRG_PERIOD t)))

/-- The number of a trigger's next instant. -/
def nextInstant (s : State) (t : Nat) : Nat := (sget (fun _ => ({} : Trig)) s.rooster.trig t).k

/-- Sets the number of a trigger's next instant. -/
def setInstant (t k : Nat) (s : State) : State :=
  { s with rooster := { s.rooster with trig := sset (fun _ => {}) s.rooster.trig t { k := k } } }

/-- A trigger whose base has stepped forward to its present value passes the instants below it (R332). -/
def skipInstants (t : Nat) (s : State) : State :=
  let n := firstAt s t (s.t (s.r (Reg.TRG_BASE t)))
  let k := nextInstant s t
  if k < n then (setInstant t n s).bumpBy (Reg.TRG_SKIPPED t) (n - k) else s

/-- After bases have jumped from `old`, followers follow and enabled triggers on a base that went forward skip, but for
those whose setting is new. -/
def settleBases (old : State) (fresh : List Nat) (s : State) : State :=
  let s1 := followAll s
  forEach (List.range 32) (fun t s =>
    let b := s.r (Reg.TRG_BASE t)
    if !fresh.contains t ∧ s.on (Reg.TRG_ENABLE t) ∧ old.t b < s.t b then skipInstants t s else s) s1

/-- Adds a signed step to a base, keeping its fraction, and counts it. -/
def stepBase (b : Nat) (v : Int) (s : State) : State :=
  ({ s with rooster := { s.rooster with ns := sset dflt0 s.rooster.ns b (unsigned 64 ((s.t b : Int) + v)) } }).bump (Reg.T_STEPS b)

/-! ## The time commit (R327, R328, R331) -/

/-- An accepted TIME_COMMIT: a commit is scheduled, or joined. -/
def scheduleCommit (s : State) : State :=
  if s.rooster.commitAt.isSome then s
  else
    ({ s with rooster := { s.rooster with commitAt := some (ceilDiv (s.t3 + 100000) 1000000 * 1000000) } }).setR Reg.COMMIT_PENDING 1

/-- Whether an entry applies at a time commit. -/
def commitKey (k : Key) : Bool :=
  match dictRow (k / 256) (k % 256) with
  | some r => decide (r.app = .timeCommit)
  | none => false

/-- Whether a commit would change a trigger's setting as R331 means it. -/
def resets (s : State) (t : Nat) : Bool :=
  (!s.on (Reg.TRG_ENABLE t) && decide (s.rStaged (Reg.TRG_ENABLE t) ≠ 0))
    || [Reg.TRG_BASE t, Reg.TRG_START t, Reg.TRG_PERIOD t].any fun k => decide (s.rStaged k ≠ s.r k)

/-- A base's STEP is added once and then reads 0. -/
def applyStep (b : Nat) (s : State) : State :=
  let v := s.rI 64 (Reg.T_STEP b)
  if v = 0 then s else stepBase b v (s.setR (Reg.T_STEP b) 0)

/-- A base's new mode (R321, R325). -/
def enterMode (old : State) (b : Nat) (s : State) : State :=
  let m := s.r (Reg.T_MODE b)
  if m = old.r (Reg.T_MODE b) then s
  else
    let servo := servoMode b m
    (s.setR (Reg.T_STATE b) (if servo then 1 else 0)).setServo b { asRun := (s.servo b).asRun, pdelaySent := (s.servo b).pdelaySent }

/-- Whether a port is asCapable (R325). -/
def asCapable (s : State) (e : Nat) : Bool :=
  decide (3 ≤ (s.servo (e + 1)).asRun) && decide (s.r (Reg.LINK_DELAY e) ≤ s.r (Reg.DELAY_THRESH e))

/-- Keeps AS_CAPABLE live. -/
def refreshAs (s : State) : State :=
  forEach (List.range 2) (fun e s => s.setR (Reg.AS_CAPABLE e) (if asCapable s e then 1 else 0)) s

/-- The commit: every staged time value takes effect together. -/
def applyCommit (s : State) : State :=
  let moved := (List.range 32).filter (resets s)
  let s1 := { s.applyStaged commitKey with rooster := { s.rooster with commitAt := none } }
  let s2 := (s1.setR Reg.COMMIT_PENDING 0).setR Reg.COMMIT_TIME s.t3
  let s3 := forEach (List.range 3) (enterMode s) (forEach (List.range 8) applyStep s2)
  let s4 := forEach moved (fun t s => setInstant t (firstAt s t (s.t (s.r (Reg.TRG_BASE t)) + 1)) s) (settleBases s moved s3)
  refreshAs (forEach (List.range 24) (fun p s' =>
    if syncOwner s p = syncOwner s' p then s'
    else s'.setPort p { s'.port p with syncMoved := true, trigInstant := none }) s4)

/-! ## Triggers (R330, R333) -/

/-- Whether triggers, servos and captures run: from ready on, and not in standby, which ends at the ready of a wake (R336,
R515, R537). -/
def clocksRun (s : State) : Bool := working s

/-- The pins of a fired instant. -/
def firePins (t i : Nat) (s : State) : State :=
  forEach (bitList (s.r (Reg.TRG_PINS t)) 8) (fun k s =>
    if bit (s.r Reg.FSYNC_DIR) k then s
    else s.emit (.fsyncPin k (i + 10) (s.r (Reg.TRG_WIDTH t)) (bit (s.r (Reg.TRG_POLARITY t)) k))) s

/-- The uplink messages of a fired instant (R278, R330). -/
def firePorts (t i : Nat) (s : State) : State :=
  forEach (bitList (s.r (Reg.TRG_PORTS t)) 24) (fun p s =>
    let s1 := s.setPort p { s.port p with trigInstant := some (s.r (Reg.TRG_BASE t), i) }
    if portUp s p then
      s1.emit (.uplinkSync p (i - if s.on (Reg.TRG_COMP t) then s.r (Reg.CAM_FSYNC_LATENCY p) else 0))
    else s1) s

/-- The graphs that subscribe to a trigger. -/
def subscribers (s : State) (t : Nat) : List Nat :=
  (List.range 64).filter fun g => decide (((s.slot g).pkg.bind fun p => p.trigger) = some t)

/-- Fires a trigger's next instant; on the way into standby no further frame opens (R535). -/
def fireTrigger (t : Nat) (s : State) : State :=
  let k := nextInstant s t
  let i := instant s t k
  let s1 := ((setInstant t (k + 1) s).bump (Reg.TRG_FIRED t)).setR (Reg.TRG_LAST_INSTANT t) i
  let s2 := forEach (bitList (s.r (Reg.TRG_DISPLAYS t)) 4) vsyncInstant (firePorts t i (firePins t i s1))
  if s.sys.phase = .enteringStandby then s2 else forEach (subscribers s t) (fun g s => frameTick g (s.t 0) s) s2

/-- TRIGGER_FIRE (R329, R330): the trigger's base has reached its next instant. -/
def execTriggerFire (t : Fin 32) (s : State) : Host.Outcome State Fault Refusal :=
  .next (if s.on (Reg.TRG_ENABLE t.val) ∧ clocksRun s ∧ instant s t.val (nextInstant s t.val) ≤ s.t (s.r (Reg.TRG_BASE t.val)) then
    fireTrigger t.val s
  else s)

/-! ## PPS (R321 to R323) -/

/-- One second in ns. -/
def second : Nat := 10 ^ 9

/-- The whole second nearest to a value; exactly between two, the spec names neither (a free value). -/
def nearestSecond (s : State) (v : Nat) : Nat :=
  let q := v / second
  let r := v % second
  if 2 * r < second ∨ (2 * r = second ∧ (Config.freeWord s.free).getLsbD 0) then q * second else (q + 1) * second

/-- A rate that a servo chooses, within ±500 ppm (R322, R325). -/
def servoRate (s : State) : Nat := unsigned 32 (max (-512000000) (min 512000000 (Config.servoRate s.free)))

/-- A servo edge or Sync is accepted: offset, rate, and lock after `n` good ones in a row. -/
def steer (b n : Nat) (off : Int) (s : State) : State :=
  let x := s.servo b
  let good := if off.natAbs ≤ 100 then x.good + 1 else 0
  let s1 := ((s.setR (Reg.T_SERVO_OFFSET b) (unsigned 64 off)).setR (Reg.T_RATE_ADJ b) (servoRate s)).nextFree
  (if n ≤ good then s1.setR (Reg.T_STATE b) 2 else s1).setServo b { x with good := good, missed := 0 }

/-- An edge of the chosen polarity in mode 1. -/
def servoEdge (s : State) : State :=
  let near := nearestSecond s (s.t 0)
  let x := s.servo 0
  let off : Int := (s.t 0 : Int) - near
  if !x.first then
    let s1 := (s.bump Reg.PPS_ACCEPTED).setServo 0 { x with first := true, nextSecond := near + second }
    (settleBases s [] (stepBase 0 (-off) s1)).nextFree
  else if off.natAbs ≤ s.r Reg.PPS_WINDOW * 1000 then
    let s1 := steer 0 4 off (s.bump Reg.PPS_ACCEPTED)
    s1.setServo 0 { s1.servo 0 with nextSecond := near + second }
  else (s.bump Reg.PPS_REJECTED).setServo 0 { x with good := 0 }

/-- PPS_EDGE (R321, R322, R335). -/
def execPpsEdge (falling : Bool) (s : State) : Host.Outcome State Fault Refusal :=
  .next (if decide (s.r Reg.PPS_EDGE = 1) = falling ∧ clocksRun s then
    let s1 := captureSource 0x00 s
    if s.r (Reg.T_MODE 0) = 1 then servoEdge s1 else s1
  else s)

/-- A base in servo mode enters holdover (R323, R325). -/
def enterHoldover (b : Nat) (s : State) : State :=
  raise Src.TIME_REF_LOSS (.base b) ((s.setR (Reg.T_STATE b) 3).bump (Reg.T_REF_LOSSES b))

/-- PPS_MISSED_SECOND (R323): T0 has passed the second and its window without an accepted edge. -/
def execPpsMissedSecond (s : State) : Host.Outcome State Fault Refusal :=
  let x := s.servo 0
  .next (if s.r (Reg.T_MODE 0) = 1 ∧ x.first ∧ clocksRun s ∧ x.nextSecond + s.r Reg.PPS_WINDOW * 1000 < s.t 0 then
    let s1 := (s.bump Reg.PPS_MISSED).setServo 0 { x with missed := x.missed + 1, good := 0, nextSecond := x.nextSecond + second }
    if s.r (Reg.T_STATE 0) = 2 ∧ s.r Reg.PPS_LOSS_N ≤ x.missed + 1 then enterHoldover 0 s1 else s1
  else s)

/-! ## gPTP (R324, R325) -/

/-- GPTP_SYNC_RECEIVE (R325): `gmTime` is the grandmaster's time at the Sync's timestamp point. -/
def execGptpSyncReceive (eth : Fin 2) (gmTime : Nat) (s : State) : Host.Outcome State Fault Refusal :=
  let b := eth.val + 1
  .next (if !ethUp s eth.val ∨ !clocksRun s then s
    else
      let s1 := s.bump (Reg.SYNC_RX eth.val)
      if s.r (Reg.T_MODE b) ≠ 1 ∨ !asCapable s eth.val then s1
      else
        let x := s1.servo b
        let s2 := if !x.first then
            let s3 := s1.setServo b { x with first := true }
            settleBases s3 [] (stepBase b ((gmTime : Int) - s3.t b) s3)
          else steer b 8 ((s1.t b : Int) - gmTime) s1
        s2.setServo b { s2.servo b with nextSecond := s.t3 })

/-- GPTP_PDELAY_EXCHANGE (R325). -/
def execGptpPdelayExchange (eth : Fin 2) (completed : Bool) (delay : BitVec 32) (s : State) : Host.Outcome State Fault Refusal :=
  let b := eth.val + 1
  let x := s.servo b
  .next (refreshAs (if completed then (s.setR (Reg.LINK_DELAY eth.val) delay.toNat).setServo b { x with asRun := min 3 (x.asRun + 1) }
    else (s.bump (Reg.PDELAY_FAIL eth.val)).setServo b { x with asRun := 0 }))

/-- Sends gPTP messages of the port's domain, or discards and counts them while the link is down (R324, R476). -/
def sendGptp (e kind n : Nat) (s : State) : State :=
  if ethUp s e then (s.emit (.gptp e (s.r (Reg.DOMAIN e)) kind (s.t (e + 1)))).bumpBy (Reg.NET_TX_FRAMES e) n
  else s.bumpBy (Reg.NET_TX_DISCARDED e) n

/-- A port's Sync and Pdelay intervals in T3 (R324). -/
def syncInterval (s : State) (e : Nat) : Nat := second / 2 ^ (-(s.rI 8 (Reg.LOG_SYNC e))).toNat

def pdelayInterval (s : State) (e : Nat) : Nat := second * 2 ^ s.r (Reg.LOG_PDELAY e)

/-- Whether an interval has passed since a message was last sent, or none has been sent yet. -/
def sendDue (last : Option Nat) (interval now : Nat) : Bool := last.all fun t => decide (t + interval ≤ now)

/-- GPTP_PDELAY_TRANSMIT (R324): when its interval has passed, a Pdelay request leaves. -/
def execGptpPdelayTransmit (eth : Fin 2) (s : State) : Host.Outcome State Fault Refusal :=
  let b := eth.val + 1
  .next (if clocksRun s ∧ sendDue (s.servo b).pdelaySent (pdelayInterval s eth.val) s.t3 then
    sendGptp eth.val 1 1 (s.setServo b { s.servo b with pdelaySent := some s.t3 })
  else s)

/-- GPTP_SYNC_TRANSMIT (R324): in a master mode, when its interval has passed, a two-step Sync leaves with its
follow-up. -/
def execGptpSyncTransmit (eth : Fin 2) (s : State) : Host.Outcome State Fault Refusal :=
  let b := eth.val + 1
  let m := s.r (Reg.T_MODE b)
  .next (if (m = 2 ∨ m = 3) ∧ clocksRun s ∧ sendDue (s.servo b).syncSent (syncInterval s eth.val) s.t3 then
    sendGptp eth.val 0 2 (s.setServo b { s.servo b with syncSent := some s.t3 })
  else s)

/-- GPTP_ANNOUNCE_RECEIVE (R324). -/
def execGptpAnnounceReceive (eth : Fin 2) (s : State) : Host.Outcome State Fault Refusal :=
  .next (if ethUp s eth.val then s.bump (Reg.ANNOUNCE_IGN eth.val) else s)

/-- GPTP_SYNC_TIMEOUT (R325): SYNC_TIMEOUT sync intervals have passed without a Sync in the locked state. -/
def execGptpSyncTimeout (eth : Fin 2) (s : State) : Host.Outcome State Fault Refusal :=
  let b := eth.val + 1
  .next (if s.r (Reg.T_MODE b) = 1 ∧ s.r (Reg.T_STATE b) = 2 ∧ clocksRun s
      ∧ (s.servo b).nextSecond + s.r (Reg.SYNC_TIMEOUT eth.val) * syncInterval s eth.val ≤ s.t3 then
    enterHoldover b (s.setServo b { s.servo b with good := 0 })
  else s)

/-! ## Captures (R335) -/

/-- CAPTURE_EVENT (R335): an event of a source; FSYNCk counts only as an input. -/
def execCaptureEvent (source : BitVec 8) (s : State) : Host.Outcome State Fault Refusal :=
  let n := source.toNat
  .next (if within n 1 8 ∧ !bit (s.r Reg.FSYNC_DIR) (n - 1) then s else captureSource n s)

end Sys2Proof.Machine
end

