-- ==== Sys2Proof/Machine/Onchip.lean ====
section
/-! DEFINITION. The other on-chip memories and the on-chip scrubber (08 R228, R229, R232). -/

namespace Sys2Proof.Machine

open Sys2Proof

/-- The region of a station's work counter; 4 stands for the chip arbiter (R129). -/
def counterArbiter (p : Package) (st : Station) : Nat := if st.crossRegion then 4 else p.regionOf st

/-- Whether a station's work counter or one of its windows lies in an arbiter. -/
def inArbiter (p : Package) (a : Nat) (st : Station) : Bool :=
  decide (counterArbiter p st = a) || p.claims.any fun c => match c with
    | .window n b _ _ _ _ _ => decide (n = st.number) && decide (b / 8 = a)
    | _ => false

/-- The stations of a graph that consume a station's tiles. -/
def consumersOf (s : State) (g st : Nat) : List Nat :=
  match (s.slot g).pkg with
  | some p => match p.st? st with
    | some q => p.consumers q
    | none => []
  | none => []

/-- A tile descriptor is lost: its consumers abandon the frame. -/
def loseDescriptor (g st f : Nat) (s : State) : State :=
  freeOutBufs (forEach (consumersOf s g st) (fun c s => abandonDown g c f Fsw.CHECK_MISMATCH s) s)

/-- The state of an arbiter is lost: the stations in it abandon their open frames. -/
def loseArbiter (a : Nat) (s : State) : State :=
  freeOutBufs (forEach (List.range 64) (fun g s =>
    match (s.slot g).pkg with
    | none => s
    | some p => forEach (p.stations.filter (inArbiter p a)) (fun st s =>
        forEach ((s.slot g).frames.filter fun x => decide (x.station = st.number) && x.slotOpen)
          (fun x s => abandonDown g st.number x.frame Fsw.CHECK_MISMATCH s) s) s) s)

/-- The next line of a display port is lost in the compositor: it is sent in BACKGROUND. -/
def loseLineOf (d : Nat) (s : State) : State :=
  let x := s.dsp d
  if x.active ∧ x.fetchNext < s.r (Reg.DSP_V_ACTIVE d) then
    (s.setDsp d { x with fetched := x.fetched ++ [(x.fetchNext, backgroundLine s d)], fetchNext := x.fetchNext + 1 }).bump
      (Reg.DSP_UNDERRUN d)
  else s

/-- A word of a lane's frame is lost: no further row of a camera frame, and no completion of a golden input. -/
def loseIspWord (p : Nat) (memLane : Bool) (s : State) : State :=
  if memLane ∧ (s.pipe p).mem.golden then goldenInputFailed p (modPipe p (fun x => { x with mem := {} }) s)
  else if (laneOf s p memLane).stopped then s
  else stopLane p memLane s

/-- What follows an uncorrectable word (R232). -/
def onchipLoss (w : OnchipWord) (s : State) : State :=
  match w with
  | .ispLine p m => loseIspWord p.val m s
  | .ispParams p m => loseIspWord p.val m s
  | .ctrlData p => occurrence Src.ONCHIP_UNCORR (40 + p.val) (rollbackPair p.val s)
  | .supData c => if s.sys.handover then s else dissent c.val s
  | .descriptor g st f _ => loseDescriptor g.val st f s
  | .arbiter a => loseArbiter a.val s
  | .compositor d => loseLineOf d.val s

/-- ONCHIP_MEMORY_READ (R229, R232). -/
def execOnchipMemoryRead (w : OnchipWord) (err : ReadErr) (s : State) : Host.Outcome State Fault Refusal :=
  let v := secDed s err
  .next (if v = 0 then s.nextFree
    else if v = 1 then raise Src.ONCHIP_CORR (.memory w) s.nextFree
    else onchipLoss w (raise Src.ONCHIP_UNCORR (.memory w) s.nextFree))

/-- The scrubber reads one sector's word of a cached line (R229, R231). -/
def scrubSector (r a v : Nat) (s : State) : State :=
  let k := setKey r a
  let i := a / 32 % 4
  match (s.set k).findIdx? fun l => l.has a with
  | none => s
  | some w =>
    let l := nth emptyLine (s.set k) w
    if v = 0 ∨ !nth false l.valid i ∨ nth false l.poison i then s
    else if v = 1 then raise Src.RC_CORR (.cache r) s
    else if nth false l.dirty i then
      raise Src.RC_UNCORR (.cache r) (modLine k w (fun l => { l with poison := setAt false i true l.poison }) s)
    else raise Src.RC_CORR (.cache r) (fetchSector r k w a i (Fin.ofNat 64 (l.slot - 1)) s)

/-- The scrubber reads one tag entry (R229, R231). -/
def scrubTag (r set way v : Nat) (s : State) : State :=
  let k := 4096 * r + set % 4096
  if v = 0 ∨ 16 ≤ way then s
  else if v = 1 then raise Src.RC_CORR (.cache r) s
  else raise Src.RC_UNCORR (.cache r) (if way < (s.set k).length then modLine k way (fun _ => emptyLine) s else s)

/-- The scrubber reads one scratchpad word; banks in retention or off are not scrubbed (R228). -/
def scrubPad (b row word : Nat) (err : ReadErr) (s : State) : State :=
  let k := wordKey b (row % 8192) (word % 64)
  let who : Ident := .word b (row % 8192) (word % 64)
  let v := wordVerdict s k err
  if bankPower s b (row % 8192 / 512) ≠ 1 ∨ v = 0 then s
  else if v = 1 then raise Src.SCRATCH_CORR who (s.setSramErr k 0)
  else raise Src.SCRATCH_UNCORR who (s.setSramErr k 2)

/-- ONCHIP_SCRUB (R228, R229): a corrected word is written back; an uncorrectable one is reported (R24) and left. -/
def execOnchipScrub (w : ScrubWord) (err : ReadErr) (s : State) : Host.Outcome State Fault Refusal :=
  let v := secDed s err
  .next (match w with
    | .scratch b row word => scrubPad b.val row word err s
    | .regionData r a => scrubSector r.val a v s
    | .regionTag r set way => scrubTag r.val set way v s
    | .other m => if v = 0 then s else if v = 1 then raise Src.ONCHIP_CORR (.memory m) s else raise Src.ONCHIP_UNCORR (.memory m) s).nextFree

end Sys2Proof.Machine
end

