-- ==== Sys2Proof/Machine/Network.lean ====
section
/-! DEFINITION. The vehicle network (18): transmission of records, gates, received frames up to their dispatch, links and
buses, the last-word template, the checks of its entries. -/

namespace Sys2Proof.Machine

open Sys2Proof

/-! ## Scheduled traffic (R479, R480) -/

/-- The gate control entries of a port: gates and interval in ns. -/
def gateList (s : State) (e : Nat) : List (Nat × Nat) :=
  let b := s.blob (Reg.TSN_GCL e)
  (List.range (b.length / 8)).map fun i => (field b (8 * i) 1, field b (8 * i + 4) 4)

/-- The ns that queue `q` stays open from the start of a list of intervals. -/
def openRun (q : Nat) : List (Nat × Nat) → Nat
  | [] => 0
  | (g, n) :: t => if bit g q then n + openRun q t else 0

/-- What remains of a list of intervals after `n` ns. -/
def afterNs : Nat → List (Nat × Nat) → List (Nat × Nat)
  | _, [] => []
  | n, (g, k) :: t => if n < k then (g, k - n) :: t else afterNs (n - k) t

/-- Whether the gates of a port do not bound a frame of queue `q`. -/
def alwaysOpen (s : State) (e q : Nat) : Bool :=
  decide (2 ≤ e) || !s.on (Reg.TSN_QBV_EN e) || (gateList s e).all fun x => bit x.1 q

/-- How long queue `q` stays open from now. -/
def openFor (s : State) (e q : Nat) : Nat :=
  let l := gateList s e
  let cycle := (l.map fun x => x.2).sum
  let at' := ((s.t (e + 1) : Int) - s.r (Reg.TSN_CYCLE_BASE e)) % max 1 (cycle : Int)
  openRun q (afterNs at'.toNat l ++ l)

/-- The longest open interval of queue `q`. -/
def longestOpen (s : State) (e q : Nat) : Nat :=
  let l := gateList s e
  (List.range l.length).foldl (fun m i => max m (openRun q (l.drop i ++ l))) 0

/-- Whether `n` bytes on the wire of a port last at most `t` ns. -/
def lasts (s : State) (e n t : Nat) : Bool := decide (n * 80 ≤ t * portRate s e)

/-! ## Records (R484, R490 to R492) -/

/-- One Ethernet copy of a stream's record: destination, tag. -/
structure Copy where
  mac : Nat
  vlan : Nat
  deriving DecidableEq, Repr

/-- The copies of a stream's records (R491). -/
def copiesOf (s : State) (n : Nat) : List Copy :=
  let one : Copy := ⟨s.r (Reg.STR_DEST_MAC n), s.r (Reg.STR_VLAN1 n)⟩
  if s.on (Reg.STR_FRER n) then [one, ⟨s.r (Reg.STR_DEST_MAC2 n), s.r (Reg.STR_VLAN2 n)⟩] else [one]

/-- Bytes of a record's Ethernet frame on the wire with its preamble. -/
def wireBytes (s : State) (n : Nat) (c : Copy) (rec : Rec) : Nat :=
  let ip := if (s.blob (Reg.STR_DEST_IP n)).length = 16 then 40 else 20
  let body := 12 + (if c.vlan = 0xFFFF then 0 else 4) + (if s.on (Reg.STR_FRER n) then 6 else 0) + 2 + ip + 8 + 36 + rec.payload.length + 4
  8 + max 64 body

/-- Whether a copy is longer than every open interval of its queue. -/
def neverFits (s : State) (e n : Nat) (c : Copy) (rec : Rec) : Bool :=
  !alwaysOpen s e (queueOf c.vlan) && !lasts s e (wireBytes s n c rec) (longestOpen s e (queueOf c.vlan))

/-- Whether a copy that starts now ends before its queue's gate closes. -/
def fitsNow (s : State) (e n : Nat) (c : Copy) (rec : Rec) : Bool :=
  alwaysOpen s e (queueOf c.vlan) || lasts s e (wireBytes s n c rec) (openFor s e (queueOf c.vlan))

/-- Whether the shaper of a queue lets a frame start now: no transmission of the queue is in progress, and its credit is not
negative (R479). -/
def shaperOpen (s : State) (e q : Nat) : Bool :=
  decide (idleSlope s e q = 0) || (decide ((s.credit e q).time ≤ s.t3) && decide (0 ≤ creditNow s e q))

/-- A copy that starts takes its bits from its queue's credit, which the idle slope refills meanwhile (R479). -/
def chargeQueue (e n : Nat) (rec : Rec) (c : Copy) (s : State) : State :=
  let q := queueOf c.vlan
  let bits := 8 * wireBytes s n c rec
  let span := ceilDiv (bits * 10 ^ 6) (portRate s e * 10 ^ 5)
  if idleSlope s e q = 0 then s
  else setCredit e q ⟨creditNow s e q - bits * 10 ^ 6 + idleSlope s e q * span, max s.t3 (s.credit e q).time + span⟩ s

/-- The waiting records of a stream. -/
def waitingOf (s : State) (n : Nat) : List Rec := sget (fun _ => []) s.net.waiting n

/-- Replaces the waiting records of a stream. -/
def setWaiting (n : Nat) (l : List Rec) (s : State) : State :=
  { s with net := { s.net with waiting := sset (fun _ => []) s.net.waiting n l } }

/-- Sends one Ethernet copy, or discards and counts it (R476, R480). -/
def sendCopy (e n : Nat) (rec : Rec) (c : Copy) (s : State) : State :=
  if !ethUp s e then s.bump (Reg.NET_TX_DISCARDED e)
  else if neverFits s e n c rec then s.bump (Reg.TSN_GATE_DROPS e)
  else
    let tag := if s.on (Reg.STR_FRER n) then some (rec.seq % 65536) else none
    ((chargeQueue e n rec c s).emit (.record e c.mac c.vlan tag (s.blob (Reg.STR_DEST_IP n)) (s.r (Reg.STR_SRC_UDP n)) (s.r (Reg.STR_DST_UDP n))
      (recordBytes s rec rec.word))).bump (Reg.NET_TX_FRAMES e)

/-- Whether some copy of a record leaves. -/
def anyLeaves (s : State) (e n : Nat) (rec : Rec) : Bool := ethUp s e && (copiesOf s n).any fun c => !neverFits s e n c rec

/-- The first record of a stream on an Ethernet port starts, unless the gate or the shaper of its first copy holds it now. -/
def startEth (e n : Nat) (rec : Rec) (rest : List Rec) (s : State) : State :=
  let cs := copiesOf s n
  let held := ethUp s e && match cs.find? fun c => !neverFits s e n c rec with
    | some c => !fitsNow s e n c rec || !shaperOpen s e (queueOf c.vlan)
    | none => false
  if held then s
  else
    let s1 := forEach cs (sendCopy e n rec) (setWaiting n rest s)
    if anyLeaves s e n rec then s1.bump (Reg.STR_SENT n) else s1

/-- The first record of a stream on a CAN controller starts; it waits while the controller is off the bus. -/
def startCan (c n : Nat) (rec : Rec) (rest : List Rec) (s : State) : State :=
  if !canUp s c then s
  else
    let s1 := (setWaiting n rest s).emit (.canRecord c (s.r (Reg.STR_CAN_ID n)) (canPad (recordBytes s rec rec.word)))
    (s1.bump (Reg.CAN_TX_FRAMES c)).bump (Reg.STR_SENT n)

/-- RECORD_TX_START (R490 to R492): the oldest waiting record of a stream starts transmission. -/
def execRecordTxStart (n : Fin 32) (s : State) : Host.Outcome State Fault Refusal :=
  let port := s.r (Reg.STR_PORT n.val)
  .next (match waitingOf s n.val with
    | [] => s
    | rec :: rest => if port < 2 then startEth port n.val rec rest s else startCan (port - 4) n.val rec rest s)

/-- Waiting records that no gate of a new control list lets pass are discarded (R480). -/
def dropGated (s : State) : State :=
  forEach (List.range 32) (fun n s =>
    let e := s.r (Reg.STR_PORT n)
    if 2 ≤ e then s
    else
      let gone (r : Rec) : Bool := (copiesOf s n).all fun c => neverFits s e n c r
      let l := waitingOf s n
      let out := l.filter gone
      if out = [] then s
      else (setWaiting n (l.filter fun r => !gone r) s).bumpBy (Reg.TSN_GATE_DROPS e) (out.length * (copiesOf s n).length)) s

/-- TIME_COMMIT_APPLY (R327): the scheduled commit's instant of T3 has come. -/
def execTimeCommitApply (s : State) : Host.Outcome State Fault Refusal :=
  .next (match s.rooster.commitAt with
    | some d => if d ≤ s.t3 ∧ clocksRun s then dropGated (applyCommit s) else s
    | none => s)

/-- A written IDLE_SLOPE: the credits of the port's queues begin anew (R479, notes/assumptions/150.md). -/
def restartShaper (e : Nat) (s : State) : State :=
  forEach (List.range 8) (fun q s => setCredit e q ⟨0, s.t3⟩ s) s

/-! ## Received frames (R474, R481) -/

/-- Filter `i` of a QCI table: destination in wire order, tag, meter. -/
def qciFilter (b : Bytes) (i : Nat) : Nat × Nat × Nat :=
  (beVal (slice b (16 * i) 6), field b (16 * i + 6) 2, field b (16 * i + 8) 1)

/-- Whether two tags agree in VID and PCP. -/
def sameTag (a b : Nat) : Bool := decide (a / 8192 = b / 8192) && decide (a % 4096 = b % 4096)

/-- The first filter that a frame matches. -/
def qciMatch (s : State) (f : EthFrame) : Option (Nat × Nat × Nat) :=
  let b := s.blob (Reg.TSN_QCI_TABLE f.port.val)
  match f.tag with
  | none => none
  | some t => ((List.range 64).map (qciFilter b)).find? fun x =>
      decide (x.2.1 ≠ 0xFFFF) && decide (x.1 = f.dst.toNat) && sameTag x.2.1 t.toNat

/-- Whether a meter has room for a frame, in units of 10^-6 bit; a frame that it lets pass is charged. -/
def meterPass (s : State) (e m size : Nat) : Bool × State :=
  let b := s.blob (Reg.TSN_QCI_TABLE e)
  let cir := field b (0x400 + 16 * m) 4
  let cbs := field b (0x404 + 16 * m) 4
  let x := sget (fun _ => (0, 0)) s.net.bucket (32 * e + m)
  let used := x.1 - cir * (s.t3 - x.2) + size * 8000000
  if used ≤ cbs * 8000000 then
    (true, { s with net := { s.net with bucket := sset (fun _ => (0, 0)) s.net.bucket (32 * e + m) (used, s.t3) } })
  else (false, s)

/-- Filtering and policing of a received frame. -/
def qciPass (f : EthFrame) (s : State) : Bool × State :=
  if f.port = 2 then (true, s)
  else match qciMatch s f with
    | none => (s.on (Reg.TSN_QCI_DEFAULT f.port.val), s)
    | some x => if x.2.2 = 0xFF then (true, s) else meterPass s f.port.val (x.2.2 % 32) f.size

/-- Whether an IP address is the port's own. -/
def ownIp (s : State) (e : Nat) (v6 : Bool) (ip : Nat) : Bool :=
  if v6 then decide (ip ≠ 0) && decide (ip = beVal (s.blob (Reg.NET_IPV6 e)))
  else decide (ip ≠ 0) && decide (ip = s.r (Reg.NET_IPV4 e))

/-- Answers a request of the link on the port it came from, to its source MAC address. -/
def reply (e : Nat) (mac : Nat) (kind : Nat) (body : Bytes) (s : State) : State :=
  if ethUp s e then (s.emit (.reply e mac kind body)).bump (Reg.NET_TX_FRAMES e) else s

/-- The port's MAC address (R474). -/
def ownMac (s : State) (e : Nat) : Nat := (s.fuses.mac + e) % 2 ^ 48

/-- The answer to an ARP request: the port's MAC and IPv4 addresses. -/
def answerArp (e mac target : Nat) (s : State) : State :=
  if ownIp s e false target then reply e mac 0 (beBytes 6 (ownMac s e) ++ beBytes 4 target) s else s

/-- The answer to a neighbour solicitation. -/
def answerNeighbour (e mac target : Nat) (s : State) : State :=
  if ownIp s e true target then reply e mac 1 (beBytes 6 (ownMac s e) ++ beBytes 16 target) s else s

/-- The answer to an echo request: its data. -/
def answerEcho (e mac dstIp : Nat) (v6 : Bool) (data : Bytes) (s : State) : State :=
  if ownIp s e v6 dstIp then reply e mac (if v6 then 3 else 2) data s else s

/-- ARP_REQUEST (R474). -/
def execArpRequest (eth : Fin 3) (target : Nat) (mac : BitVec 48) (_senderIp : Nat) (s : State) : Host.Outcome State Fault Refusal :=
  .next (answerArp eth.val mac.toNat target s)

/-- NEIGHBOUR_SOLICITATION (R474). -/
def execNeighbourSolicitation (eth : Fin 3) (target : Nat) (mac : BitVec 48) (_senderIp : Nat) (s : State) :
    Host.Outcome State Fault Refusal :=
  .next (answerNeighbour eth.val mac.toNat target s)

/-- ECHO_REQUEST (R474). -/
def execEchoRequest (eth : Fin 3) (dstIp : Nat) (v6 : Bool) (mac : BitVec 48) (_senderIp : Nat) (data : Bytes) (s : State) :
    Host.Outcome State Fault Refusal :=
  .next (answerEcho eth.val mac.toNat dstIp v6 data s)

/-- Counts a received frame that is discarded (R474). -/
def discardRx (e : Nat) (s : State) : State := s.bump (Reg.NET_RX_DISCARDED e)

/-! ## Links and buses (R476, R478, R493) -/

/-- ETH_LINK_LOSS (R476). -/
def execEthLinkLoss (eth : Fin 3) (s : State) : Host.Outcome State Fault Refusal :=
  .next (if ethUp s eth.val then
    let s1 := (s.setR (Reg.NET_LINK_STATE eth.val) 0).bump (Reg.NET_LINK_LOSSES eth.val)
    if eth = 2 then s1 else raise Src.ETH_LINK_LOSS (.link eth.val) s1
  else s)

/-- Whether an Ethernet port is on: after a stopped boot only ETH-M is (R515, R520). -/
def portPowered (s : State) (e : Nat) : Bool :=
  clocksRun s || (decide (e = 2) && (decide (s.sys.phase = .failed) || decide (s.sys.phase = .recovery)))

/-- ETH_LINK_UP (R493): a held last-word frame is sent. -/
def execEthLinkUp (eth : Fin 3) (s : State) : Host.Outcome State Fault Refusal :=
  .next (if s.on (Reg.NET_ENABLE eth.val) ∧ s.r (Reg.NET_LINK_STATE eth.val) ≠ 2 ∧ portPowered s eth.val then
    let s1 := s.setR (Reg.NET_LINK_STATE eth.val) 2
    match s1.net.heldLwEth with
    | some x => if eth = 0 ∧ s1.safe then lastWordEth x.1 x.2 { s1 with net := { s1.net with heldLwEth := none } } else s1
    | none => s1
  else s)

/-- CAN_BUS_OFF (R478). -/
def execCanBusOff (c : Fin 4) (s : State) : Host.Outcome State Fault Refusal :=
  .next (if canUp s c.val ∧ clocksRun s then
    raise Src.CAN_BUS_OFF (.can c.val) ((s.setR (Reg.CAN_ERR_STATE c.val) 2).bump (Reg.CAN_BUS_OFFS c.val))
  else s)

/-- CAN_BUS_RECOVERY (R478, R493): the controller rejoins the bus. -/
def execCanBusRecovery (c : Fin 4) (s : State) : Host.Outcome State Fault Refusal :=
  .next (if s.on (Reg.CAN_ENABLE c.val) ∧ s.r (Reg.CAN_ERR_STATE c.val) = 2 ∧ clocksRun s then
    let s1 := s.setR (Reg.CAN_ERR_STATE c.val) 0
    match s1.net.heldLwCan with
    | some x => if c = 0 ∧ s1.safe then lastWordCan x.1 x.2 { s1 with net := { s1.net with heldLwCan := none } } else s1
    | none => s1
  else s)

/-- The template that the LW entries describe. -/
def templateOf (s : State) : LwTemplate :=
  { mac := s.r Reg.LW_DEST_MAC, ip := s.blob Reg.LW_DEST_IP, udp := s.r Reg.LW_UDP, vlan1 := s.r Reg.LW_VLAN1
    vlan2 := s.r Reg.LW_VLAN2, canId := s.r Reg.LW_CAN_ID }

/-- LW_TEMPLATE_REBUILD (R493). -/
def execLwTemplateRebuild (s : State) : Host.Outcome State Fault Refusal :=
  .next (if s.net.lwDue then { s with net := { s.net with lw := templateOf s, lwDue := false } } else s)

/-! ## Checks of the network entries (R480, R481, R485, R491, R495) -/

/-- A legal VLAN tag, or untagged. -/
def vlanOk (v : Nat) : Bool := decide (v = 0xFFFF) || !bit v 12

/-- A legal CAN identifier. -/
def canIdOk (v : Nat) : Bool :=
  if bit v 31 then decide (bitsOf v 30 29 = 0) && decide (bitsOf v 28 26 < 6) else decide (v ≤ 0x7FF)

/-- Whether a graph holds a stream (R485). -/
def streamHeld (s : State) (n : Nat) : Bool := (streamOwner s n).isSome

/-- The abort code of a write of a stream entry: the state of its owner, then the value, checked with the other
written values `v` of the index. -/
def streamRefusal (s : State) (n : Nat) (v : Nat → Nat) (sub : Nat) : Option Abort :=
  let x := v sub
  if streamHeld s n then some 8
  else
    let ok := match sub with
      | 1 => decide (x ≤ 1)
      | 2 => (decide (x ≤ 1) || within x 4 7) && (decide (x = 0) || decide (v 8 = 0))
      | 3 => decide (x < 2 ^ 48)
      | 5 => within x 1024 65535
      | 6 => within x 1024 65535
      | 7 => vlanOk x
      | 8 => decide (x = 0) || (decide (x = 1) && decide (v 2 = 0) && decide (v 10 ≠ 0xFFFF))
      | 9 => decide (x < 2 ^ 48)
      | 10 => vlanOk x && (decide (x ≠ 0xFFFF) || decide (v 8 = 0))
      | 11 => canIdOk x
      | _ => true
    if ok then none else some 5

/-- A legal GCL value (R480). -/
def gclOk (b : Bytes) : Bool :=
  let n := b.length / 8
  let total := ((List.range n).map fun i => field b (8 * i + 4) 4).sum
  decide (b.length % 8 = 0) && within n 1 256 && within total 1000 (10 ^ 9)
    && (List.range n).all fun i => zeroAt b (8 * i + 1) 3 && decide (64 ≤ field b (8 * i + 4) 4)

/-- A legal IDLE_SLOPE value of a port (R479). -/
def slopesOk (s : State) (e : Nat) (b : Bytes) : Bool :=
  let l := (List.range 8).map fun q => field b (4 * q) 4
  decide ((l.filter fun x => x ≠ 0).length ≤ 2) && l.all fun x => decide (x ≤ 75000 * portRate s e)

/-- A legal QCI_TABLE value (R481). -/
def qciOk (b : Bytes) : Bool :=
  (List.range 64).all (fun i =>
    let x := qciFilter b i
    vlanOk x.2.1 && (decide (x.2.2 < 32) || decide (x.2.2 = 0xFF)) && zeroAt b (16 * i + 9) 7)
    && (List.range 32).all fun j => zeroAt b (0x408 + 16 * j) 8

/-- The abort code of a write of a last-word entry. -/
def lwRefusal (s : State) (sub v : Nat) : Option Abort :=
  match sub with
  | 1 => if v < 2 ^ 48 then none else some 5
  | 3 => if udpOwned s 0 (v / 65536) 9 0 then some 6 else none
  | 4 => if vlanOk v then none else some 5
  | 5 => if vlanOk v then none else some 5
  | 6 => if canIdOk v then none else some 5
  | _ => none

/-- The abort code of a write of an Ethernet port's entry (R495). -/
def ethRefusal (e sub v : Nat) : Option Abort :=
  let ok := match sub with
    | 1 => decide (v ≤ 1)
    | 2 => if e = 2 then decide (v = 0) else within v 1 3
    | 3 => decide (v ≤ 1)
    | 6 => within v 1 30
    | _ => true
  if ok then none else some 5

/-- The abort code of a write of a CAN controller's entry; `v` gives the values as they would be staged. -/
def canRefusal (v : Nat → Nat) (sub : Nat) : Option Abort :=
  let x := v sub
  let ok := match sub with
    | 1 => decide (x ≤ 1)
    | 2 => within x 125 1000 && decide (x ≤ v 3)
    | 3 => decide (x ≤ 8000) && decide (v 2 ≤ x)
    | _ => true
  if ok then none else some 5

end Sys2Proof.Machine
end

