-- ==== Sys2Proof/Machine/Boot.lean ====
section
/-! DEFINITION. Resets, boot, firmware, keys, attestation, standby and supply (16 R424, R432, R439, R440; 17 R464;
20 R514 to R539; 21 R540 to R556). -/

namespace Sys2Proof.Machine

open Sys2Proof

/-! ## Persistent entries (R464, R530) -/

/-- The apply point of an entry. -/
def applyOf (k : Key) : Apply :=
  match dictRow (k / 256) (k % 256) with
  | some r => r.app
  | none => .live

/-- Whether an entry keeps its written value in the boot flash. -/
def persists (k : Key) : Bool := decide (applyOf k = .reset) || decide (applyOf k = .coldBoot)

/-- The intact copy with the higher sequence number. -/
def newestStore (s : State) : Option StoreCopy :=
  match s.flash.storeA, s.flash.storeB with
  | some a, some b => some (if a.seq < b.seq then b else a)
  | some a, none => some a
  | none, b => b

/-- A write of a persistent entry goes to the copy that is not the newest. -/
def storeWrite (s : State) : State :=
  let old := newestStore s
  let vals := (s.regs ++ s.staged).foldl (fun (m : SMap Nat) (p : Nat × Nat) => if persists p.1 then sinsert p.1 p.2 m else m) []
  let blobs := (s.blobs ++ s.stagedBlobs).foldl (fun (m : SMap Bytes) (p : Nat × Bytes) => if persists p.1 then sinsert p.1 p.2 m else m) []
  let c : StoreCopy := ⟨(old.map fun x => x.seq + 1).getD 1, vals, blobs⟩
  if old.isSome ∧ s.flash.storeA = old then { s with flash := { s.flash with storeB := some c, writingCopy := some true } }
  else { s with flash := { s.flash with storeA := some c, writingCopy := some false } }

/-- Puts the persistent entries of the newest copy in force; those of keyword cold boot only then. -/
def applyStore (cold : Bool) (s : State) : State :=
  match newestStore s with
  | none => s.bump Reg.STORE_LOST
  | some c =>
    let takes (k : Key) : Bool := decide (applyOf k = .reset) || (cold && persists k)
    { s with
      regs := c.vals.foldl (fun m (p : Nat × Nat) => if takes p.1 then sset dictDefault m p.1 p.2 else m) s.regs
      blobs := c.blobs.foldl (fun m (p : Nat × Bytes) => if takes p.1 then sset blobDefault m p.1 p.2 else m) s.blobs }

/-! ## Resets (R514 to R516, R464) -/

/-- The entries that a warm reset keeps (R236, R258, R391, R418, R426, R516, R539). -/
def survivesWarm (k : Key) : Bool :=
  let i := k / 256
  let n := k % 256
  match i with
  | 0x5000 => n = 1 || n = 2
  | 0x5001 => true
  | 0x5003 => true
  | 0x5004 => n = 3
  | 0x5031 => true
  | 0x5033 => true
  | 0x5035 => true
  | 0x5036 => true
  | 0x5037 => true
  | 0x5038 => true
  | 0x5041 => true
  | 0x5046 => true
  | 0x4010 => true
  | 0x4020 => n = 1
  | 0x4021 => n = 1 || n = 6
  | 0x8000 => n = 3
  | 0x8001 => true
  | 0x8010 => n = 5
  | _ => (within i 0x5050 0x5053 && within n 2 4) || (within i 0x5060 0x5083 && n = 2)

/-- Timers of the safety island count on from where they stand while T3 restarts at 0 (R316, R381, R424). -/
def shiftAon (t : Nat) (a : Aon) : Aon :=
  let f (m : SMap Nat) : SMap Nat := (m.filter fun (p : Nat × Nat) => decide (t < p.2)).map fun (p : Nat × Nat) => (p.1, p.2 - t)
  { a with suspect := f a.suspect, dissent := f a.dissent, lastFaultReset := a.lastFaultReset.map fun d => d - t }

/-- The flash after a reset or a loss of supply: an image that was being written is incomplete (R529). -/
def settleFlash (s : State) : Flash :=
  { s.flash with fwIntact := s.flash.fwIntact && decide (s.r Reg.FW_UPDATE_STATE ≠ 2), writingCopy := none }

/-- A warm reset of a kind begins (R514, R515): what R516 keeps stays, every other value returns to its default. -/
def warmReset (kind : Nat) (b : BootInputs) (s : State) : State :=
  let s1 : State := { ({} : State) with
    regs := s.regs.filter fun p => survivesWarm p.1
    staged := s.staged.filter fun p => decide (applyOf p.1 = .coldBoot)
    mem := s.mem, dramErr := s.dramErr, fuses := s.fuses, flash := settleFlash s, aon := shiftAon s.t3 s.aon
    ring := (ringAfterReset s).ring, wire := s.wire, free := s.free, pending := s.pending
    sys := { depotEn := s.sys.depotEn, testEn := s.sys.testEn, resetN := s.sys.resetN, coreEn := s.sys.coreEn, corePg := s.sys.corePg
             running := s.sys.running, testPkg := s.sys.testPkg, enrolling := s.sys.enrolling, bootIn := some b, selfRefresh := true } }
  ((s1.setR Reg.RING_STATE ((ringAfterReset s).r Reg.RING_STATE)).setR Reg.RESET_KIND kind).bump (0x800100 + kind - 1)

/-- The supplies fall (R542): unfinished fuse writes are lost, and perhaps the last persistent write (R530). -/
def losePower (s : State) : State :=
  let hit := (Config.freeWord s.free).getLsbD 0
  let f := settleFlash s
  let f1 := match s.flash.writingCopy with
    | some c => if hit then (if c then { f with storeB := none } else { f with storeA := none }) else f
    | none => f
  { ({} : State) with
    fuses := s.fuses, flash := f1, wire := s.wire, free := s.free + 1, pending := s.pending
    sys := { phase := .off, depotEn := s.sys.depotEn, testEn := s.sys.testEn, resetN := s.sys.resetN, coreEn := false
             corePg := false, supplies := false } }

/-- POWER_DOWN (R542). -/
def execPowerDown (s : State) : Host.Outcome State Fault Refusal := .next (losePower s)

/-- COLD_BOOT (R514, R516): the supplies rise into range; boot waits for RESET_N. -/
def execColdBoot (b : BootInputs) (s : State) : Host.Outcome State Fault Refusal :=
  let s1 := if s.sys.phase = .off then s else losePower s
  .next { s1 with sys := { s1.sys with
    phase := if s1.sys.resetN then .booting else .heldInReset
    supplies := true, coreEn := true, corePg := true, bootIn := some b } }

/-- PIN_RESET (R514): RESET_N is asserted for at least 1 µs with supplies in range. -/
def execPinReset (b : BootInputs) (s : State) : Host.Outcome State Fault Refusal :=
  .next (if s.sys.phase = .off then { s with sys := { s.sys with resetN := false } }
  else
    let s1 := warmReset 2 b s
    { s1 with sys := { s1.sys with phase := .heldInReset, resetN := false, coreEn := true } })

/-- RESET_N_DEASSERTED (R514): boot starts when the supplies are in range. -/
def execResetNDeasserted (s : State) : Host.Outcome State Fault Refusal :=
  .next (
    let s1 := { s with sys := { s.sys with resetN := true } }
    if s.sys.phase = .heldInReset then { s1 with sys := { s1.sys with phase := .booting, bootStart := s.t3 } } else s1)

/-- A chip reset that starts at once: kinds 3 and 4. -/
def immediateReset (kind : Nat) (b : BootInputs) (s : State) : State :=
  let s1 := warmReset kind b s
  { s1 with sys := { s1.sys with phase := .booting, coreEn := true } }

/-- FAULT_RESET (R424): the reset that a reaction-4 raise has started; its time is kept. -/
def execFaultReset (b : BootInputs) (s : State) : Host.Outcome State Fault Refusal :=
  .next (if s.sys.faultReset.isSome then
    let s1 := immediateReset 4 b s
    { s1 with aon := { s1.aon with lastFaultReset := some (s1.t3 + suspectSpan) } }
  else s)

/-! ## Firmware (R525 to R529) -/

/-- The fields of an image that the device keeps. -/
def parseFw (b : Bytes) : FwImage :=
  { version := field b 0xC 4, secVersion := field b 0x10 1, keySlot := field b 6 1, revoke := field b 7 1
    signer := slice b 0x20 64, digest := sha256 (b.take (b.length - 64))
    baseline := testPkgOf (slice b (field b 0x18 4) (field b 0x1C 4)) }

/-- Reason 0x0003 of R526. -/
def fwHeaderBad (b : Bytes) : Bool :=
  decide (slice b 0 4 ≠ [0x43#8, 0x46#8, 0x57#8, 0x49#8]) || decide (field b 4 2 ≠ 1) || decide (b.length < 192)
    || decide (field b 8 4 ≠ b.length) || decide (2 ^ 25 < b.length) || decide (b.length - 64 ≤ field b 0x14 4)
    || decide (field b 0x18 4 % 64 ≠ 0) || decide (b.length - 64 < field b 0x18 4 + field b 0x1C 4)

/-- The key of an image's slot is revoked, or is not the fused one. -/
def fwKeyBad (s : State) (slot : Nat) (signer : Bytes) : Bool :=
  decide (4 ≤ slot) || bit s.fuses.keyRevoked slot || decide (sha256 signer ≠ sget (fun _ => []) s.fuses.fwKeyHash slot)

/-- The firmware load result code of an image (R526). -/
def fwCheck (s : State) (b : Bytes) : Nat :=
  let signer := slice b 0x20 64
  if fwHeaderBad b then 0x0003
  else if !decide (bitsOf (field b 7 1) 7 4 = 0) || !zeroAt b 0x11 3 || !zeroAt b 0x60 32 then 0x0004
  else if fwKeyBad s (field b 6 1) signer then 0x000E
  else if !ecdsaVerify signer (sha256 (b.take (b.length - 64))) (b.drop (b.length - 64)) then 0x0001
  else if field b 0x10 1 < s.fuses.secFuses then 0x000D
  else if testCheck signer none (slice b (field b 0x18 4) (field b 0x1C 4)) ≠ 0 then 0x0010
  else 0x0000

/-- A completed write of FW_IMAGE (R528). -/
def fwImageEnd (b : Bytes) (s : State) : State :=
  let code := fwCheck s b
  let s1 := s.setR Reg.FW_LOAD_STATUS code
  if code = 0 then { s1.setR Reg.FW_UPDATE_STATE 2 with sys := { s1.sys with fwPending := some (parseFw b) } }
  else s1.setR Reg.FW_UPDATE_STATE 4

/-- FW_FLASH_WRITE_DONE (R528): programming and read-back have ended. -/
def execFwFlashWriteDone (ok : Bool) (s : State) : Host.Outcome State Fault Refusal :=
  .next (match s.sys.fwPending with
    | some w =>
      if s.r Reg.FW_UPDATE_STATE ≠ 2 then s
      else
        let s1 := { s with sys := { s.sys with fwPending := none } }
        if ok then ({ s1 with flash := { s1.flash with fw := w, fwIntact := true } }).setR Reg.FW_UPDATE_STATE 3
          |>.setR Reg.FW_PENDING_VERSION w.version
        else (({ s1 with flash := { s1.flash with fwIntact := false } }).setR Reg.FW_UPDATE_STATE 4).setR Reg.FW_LOAD_STATUS 0x000F
    | none => s)

/-- Whether an update is being checked or written (R529). -/
def updating (s : State) : Bool := decide (s.r Reg.FW_UPDATE_STATE = 1) || decide (s.r Reg.FW_UPDATE_STATE = 2)

/-- The code of the image in flash at boot: an incomplete image fails for a reason that the spec leaves open. -/
def fwAtBoot (s : State) : Nat :=
  let w := s.flash.fw
  if !s.flash.fwIntact then
    nth 1 [0x0001, 0x0003, 0x0004, 0x000E] ((Config.freeWord s.free).toNat % 4)
  else if bit s.fuses.keyRevoked w.keySlot then 0x000E
  else if w.secVersion < s.fuses.secFuses then 0x000D
  else 0x0000

/-- The image that has reached ready blows its security fuses and revocations (R527). -/
def blowSecurity (s : State) : State :=
  let w := s.sys.running
  let f := s.fuses
  let mask := (bitList w.revoke 4).foldl (fun m k => if k = w.keySlot then m else setBit m k) f.keyRevoked
  { s with fuses := { f with secFuses := max f.secFuses (min 64 w.secVersion), keyRevoked := mask } }

/-! ## Health record (R439) -/

/-- The fuses of state 2 and of the drain cause are blown. -/
def blowHealth (s : State) : State :=
  if s.aon.health1 ∧ !s.fuses.health2 then
    { s with fuses := { s.fuses with health2 := true, drainCause := s.aon.drainCause }
             aon := { s.aon with health1 := false, drainCause := 0 } }
  else s

/-- HEALTH_FUSE_WRITE_DONE (R439). -/
def execHealthFuseWriteDone (s : State) : Host.Outcome State Fault Refusal := .next (blowHealth s)

/-! ## Boot (R517 to R521) -/

/-- The lowest live pace of a monitor in the last part of the full-load pattern; 0 where no window of it has ended. -/
def lowestPace (b : BootInputs) (n : Nat) : Nat :=
  match nth [] b.readings n with
  | [] => 0
  | x :: l => l.foldl min x

/-- Whether the capacities of the channels are legal (R236), and the total in GiB. -/
def totalDensity (l : List Nat) : Option Nat :=
  match l with
  | d :: _ => if l.length = 32 ∧ l.all (fun x => decide (x = d)) ∧ [4, 8, 16].contains d then some (32 * d) else none
  | [] => none

/-- The boot self-test failure that a boot meets, if any: kind 1 is a cold boot, 0 a wake. -/
def bootFailure (s : State) (kind : Nat) (b : BootInputs) : Option Nat :=
  let ram := totalDensity b.density
  if !b.memoryOk then some 0x0020
  else if !b.injectOk then some 0x0021
  else if ram.isNone ∨ (kind ≠ 1 ∧ ram ≠ some (s.r Reg.DRAM_CONFIG_capacity)) then some 0x0022
  else if kind = 1 ∧ !b.initOk then some 0x0024
  else if (List.range 5).any (fun n => decide (lowestPace b n < 1250)) then some 0x0023
  else none

/-- A boot stops with a code: only ETH-M stays on, for the ROM service (R520, R531). -/
def stopBoot (code : Nat) (b : BootInputs) (phase : Phase) (s : State) : State :=
  let s1 := (s.setR Reg.BOOT_STATUS code).setR (Reg.NET_LINK_STATE 2) (if b.linksUp.contains 2 then 2 else 1)
  let s2 := (forEach [0, 1] (fun e s => s.setR (Reg.NET_LINK_STATE e) 0) s1)
  { s2 with sys := { s2.sys with phase := phase, bootIn := none } }

/-- The gate windows of one monitor while the pattern runs (R42, R44), and the calibrated pace they give (R45, R47). -/
def calibrate (b : BootInputs) (n : Nat) (s : State) : State :=
  let l := nth [] b.readings n
  let s1 := s.setR (Reg.PACE_LIVE n) (min 0xFFFF (l.getLast?.getD (s.r (Reg.PACE_LIVE n))))
  (s1.bumpBy (Reg.PACE_LOW n) (l.filter fun x => decide (x < 1250)).length).setR (Reg.PACE_CAL n) (min 0xFFFF (lowestPace b n))

/-- The results of the characterisation (R45, R47). -/
def recordPaces (b : BootInputs) (s : State) : State :=
  (forEach (List.range 5) (calibrate b) s).setR Reg.PACE_CAL_junction (unsigned 16 b.junction)

/-- The test package of a boot (R392). -/
def bootPackage (cold : Bool) (s : State) : State :=
  let base := s.flash.fw.baseline
  let pkg := match s.flash.testPkg with
    | some p => if cold ∧ p.version ≤ base.version then base else p
    | none => base
  { s.setR Reg.TEST_VERSION pkg.version with sys := { s.sys with testPkg := pkg } }

/-- Ports are enabled: links that have trained are up (R517). -/
def enableLinks (b : BootInputs) (s : State) : State :=
  forEach (List.range 3) (fun e s =>
    if s.on (Reg.NET_ENABLE e) then
      s.setR (Reg.NET_LINK_STATE e) (if b.linksUp.any fun x => x.val = e then 2 else 1)
    else s) s

/-- The ring of a cold boot: empty, with RING_SIZE applied (R250, R516). -/
def freshRing (s : State) : State :=
  let n := s.r Reg.RING_SIZE
  ({ s with ring := { size := n } }).setR Reg.RING_STATE (if n = 0 then 3 else 0)

/-- The boot in-field test has ended: every test start time is set, failed units drain the chip (R401, R521). -/
def bootTest (b : BootInputs) (s : State) : State :=
  let s1 := { s with ift := { s.ift with start := (List.range 60).foldl (fun m u => sset dflt0 m u s.t3) [] } }
  failUnits (b.failedUnits.map fun u => u.id).eraseDups s1

/-- A part whose health record is in fuses completes its boot drained (R440). -/
def bootDrained (s : State) : State :=
  if s.fuses.health2 ∧ !s.drained then { drainChip s.fuses.drainCause s with aon := s.aon } else s

/-- The device is ready (R432, R517): ERR_N is released, or the safe state entered. `entries` is SAFE_ENTRIES before the
boot's own raises. -/
def becomeReady (entries : Nat) (s : State) : State :=
  let s1 := ((s.setR Reg.BOOT_STATUS 0).setR Reg.BOOT_TIME ((s.t3 - s.sys.bootStart) / 1000000))
  let s2 := blowSecurity { s1 with sys := { s1.sys with phase := .ready, bootIn := none, selfRefresh := false } }
  if errHeld s2 ∨ s2.drained then (if s2.safe ∧ s2.r Reg.SAFE_ENTRIES ≠ entries then s2 else enterSafe s2)
  else { s2.setR Reg.SAFE_STATE 0 with sys := { s2.sys with errLow := false } }

/-- The last step of a boot after a reset. -/
def finishBoot (b : BootInputs) (s : State) : State :=
  let kind := s.r Reg.RESET_KIND
  let cold := decide (kind = 1)
  let s0 := { blowHealth s with sys := { s.sys with running := s.flash.fw } }
  let code := fwAtBoot s0
  if code ≠ 0 then stopBoot 0x0010 b .recovery (s0.setR Reg.FW_LOAD_STATUS code).nextFree
  else
    let s1 := s0.setR Reg.FW_VERSION s0.flash.fw.version
    match bootFailure s1 kind b with
    | some c => stopBoot c b .failed (if c = 0x0023 then recordPaces b s1 else s1)
    | none =>
      let s2 := bootPackage cold (recordPaces b s1)
      let s3 := if cold then s2.setR Reg.DRAM_CONFIG_capacity ((totalDensity b.density).getD 0) else s2
      let s4 := applyStore cold s3
      let s5 := enableLinks b (if cold then freshRing s4 else s4)
      let s6 := { s5 with net := { s5.net with lw := templateOf s5 } }
      becomeReady 0 (bootDrained (bootTest b s6))

/-! ## Standby and wake (R535 to R538) -/

/-- An accepted STANDBY_CMD (R535). -/
def standbyEnter (s : State) : State :=
  let gs := (List.range 64).filter fun g => gstate s g = 3
  let s1 := if s.sys.errLow then s else captureSource 0x30 s
  ({ s1 with sys := { s1.sys with phase := .enteringStandby, errLow := true, standbyGraphs := gs, wakePending := false } }).setR
    Reg.WAKE_CAUSE 0

/-- A graph leaves the fabric at standby; its package and state loaded stay. -/
def parkGraph (g : Nat) (s : State) : State :=
  releaseRetained g (if within (gstate s g) 2 4 then freeGraph g s else s)

/-- The wake sequence starts (R537, R544, R546); the pause of the suspect timers, the dissent windows and the time since the last
reaction-4 reset ends (R381, R389, R516). -/
def startWake (s : State) : State :=
  let d := s.t3 - s.sys.standbyAt
  let a := s.aon
  let s1 := { s with
    aon := { a with suspect := a.suspect.map fun (p : Nat × Nat) => (p.1, p.2 + d)
                    dissent := a.dissent.map fun (p : Nat × Nat) => (p.1, p.2 + d)
                    lastFaultReset := a.lastFaultReset.map fun x => x + d }
    sys := { s.sys with phase := .waking, coreEn := true, corePg := true, bootStart := s.t3, wakePending := false } }
  s1.setR Reg.CORE_V_REQ 800

/-- What the fabric, the pipes and the cores held is lost when they are turned off, and with the open transfers what they have
reserved. -/
def fabricOff (s : State) : State :=
  { freeSpace SpaceOwner.isTransfer s with
    sram := [], pad := [], units := if s.drained then s.units else [], acc := [], rows := [], lanes := [], gooses := [], lines := []
    plru := [], wins := [], mons := [], pace := [], ift := {}, pipes := [], scans := [], disp := []
    ctxs := s.ctxs.map fun (p : Nat × Ctx) => (p.1, { p.2 with bufs := [], history := [], newest := none })
    ports := s.ports.map fun (p : Nat × CamPort) => (p.1, { epoch := p.2.epoch })
    sup := {}, diale := {}, net := { s.net with waiting := [], bucket := [], overlayRec := [] } }

/-- The links go to sleep: camera, display and Ethernet links down. -/
def linksDown (s : State) : State :=
  let s1 := forEach (List.range 24) (fun p s => (closeFrame p s).setR (Reg.CAM_LINK_STATE p) 0) s
  let s2 := forEach (List.range 4) (fun d s => s.setR (Reg.DSP_LINK_STATE d) 0) s1
  forEach (List.range 3) (fun e s => s.setR (Reg.NET_LINK_STATE e) 0) s2

/-- STANDBY_ENTRY_COMPLETE (R535, R543): open frames have left the gate and ring records are complete; CORE_EN falls. -/
def execStandbyEntryComplete (s : State) : Host.Outcome State Fault Refusal :=
  .next (if s.sys.phase = .enteringStandby ∧ !(List.range 64).any (framesLeft s) ∧ !ringBusy s then
    let s1 := fabricOff (forEach (List.range 64) parkGraph (linksDown s))
    let s2 := { s1 with sys := { s1.sys with
      phase := .standby, coreEn := false, corePg := false, selfRefresh := true, standbyAt := s1.t3 } }
    let s3 := s2.bump Reg.STANDBY_ENTRIES
    if s3.sys.wakePending then startWake s3 else s3
  else s)

/-- Whether WAKE_SRC and the source's own enable let an event wake the device (R537). -/
def wakeEnabled (s : State) (k : Nat) : Bool :=
  bit (s.r Reg.WAKE_SRC) k && decide (k ≠ 3) && (decide (k < 4) || s.on (Reg.CAN_ENABLE (k - 4)))

/-- WAKE_EVENT (R537, R538): the wake sequence records events until its step 1 has ended, 20 ms after its start at most. -/
def execWakeEvent (source : Fin 8) (b : BootInputs) (s : State) : Host.Outcome State Fault Refusal :=
  .next (if !wakeEnabled s source.val then s
    else
      let s1 := s.setR Reg.WAKE_CAUSE (setBit (s.r Reg.WAKE_CAUSE) source.val)
      match s.sys.phase with
      | .enteringStandby => { s1 with sys := { s1.sys with wakePending := true, bootIn := if s.sys.wakePending then s.sys.bootIn else some b } }
      | .standby => startWake { s1 with sys := { s1.sys with bootIn := some b } }
      | .waking => if s.t3 < s.sys.bootStart + 20000000 then s1 else s
      | _ => s)

/-- Servos resume in holdover, triggers at their first instant after the wake (R336). -/
def resumeTime (s : State) : State :=
  let s1 := forEach (List.range 3) (fun b s =>
    if servoMode b (s.r (Reg.T_MODE b)) then
      (s.setR (Reg.T_STATE b) 3).setServo b { s.servo b with
        good := 0, missed := 0, asRun := 0, nextSecond := if b = 0 then (s.t 0 / second + 1) * second else s.t3 }
    else s.setServo b { s.servo b with asRun := 0 }) s
  refreshAs (forEach (List.range 32) (fun t s =>
    if s.on (Reg.TRG_ENABLE t) then setInstant t (firstAt s t (s.t (s.r (Reg.TRG_BASE t)) + 1)) s else s) s1)

/-- Links begin training again: enabled camera and display ports, Ethernet ports as the board finds them. -/
def wakeLinks (b : BootInputs) (s : State) : State :=
  let s1 := forEach (List.range 24) (fun p s => if s.on (Reg.CAM_ENABLE p) then s.setR (Reg.CAM_LINK_STATE p) 1 else s) s
  enableLinks b (forEach (List.range 4) (fun d s => if s.on (Reg.DSP_ENABLE d) then s.setR (Reg.DSP_LINK_STATE d) 1 else s) s1)

/-- A graph recorded at standby is activated again (R537, R538). -/
def reactivate (g : Nat) (s : State) : State :=
  match activateRefusal s g with
  | none => activateGraph g s
  | some _ => s.bump Reg.REACTIVATE_FAIL

/-- The last step of a wake. -/
def finishWake (b : BootInputs) (s : State) : State :=
  match bootFailure s 0 b with
  | some c => stopBoot c b .failed (if c = 0x0023 then recordPaces b s else s)
  | none =>
    let entries := s.r Reg.SAFE_ENTRIES
    let s1 := bootTest b (wakeLinks b (resumeTime (recordPaces b s)))
    let gs := s1.sys.standbyGraphs
    let s2 := becomeReady entries { s1 with sys := { s1.sys with standbyGraphs := [] } }
    forEach gs reactivate s2

/-- READY (R517, R518): the last boot step ends. -/
def execReady (s : State) : Host.Outcome State Fault Refusal :=
  .next (match s.sys.phase, s.sys.bootIn with
    | .booting, some b => finishBoot b s
    | .waking, some b => finishWake b s
    | _, _ => s)

/-! ## Keys and attestation (R532 to R534) -/

/-- The enrolled customer key. -/
def customerKey (s : State) : Option Bytes :=
  if s.fuses.bank1.valid then some s.fuses.bank1.key else if s.fuses.bank0.valid then some s.fuses.bank0.key else none

/-- The abort code of a write of CUSTOMER_KEY (R532). -/
def keyRefusal (s : State) (b : Bytes) : Option Abort :=
  let key := b.take 64
  if s.fuses.lifecycle ≠ 1 ∨ s.sys.enrolling ∨ (s.fuses.bank0.used ∧ s.fuses.bank1.used) then some 8
  else if !onCurve (beVal (key.take 32), beVal (key.drop 32))
      || !ecdsaVerify key (sha256 (leBytes 8 s.fuses.serial)) (b.drop 64) then some 5
  else none

/-- An accepted key goes into the first unused bank, its valid fuse last. -/
def enrol (b : Bytes) (s : State) : State :=
  let k (x : KeyBank) : KeyBank := { x with used := true, key := b.take 64 }
  let f := if !s.fuses.bank0.used then { s.fuses with bank0 := k s.fuses.bank0 }
    else if !s.fuses.bank1.used then { s.fuses with bank1 := k s.fuses.bank1 }
    else s.fuses
  { s with fuses := f, sys := { s.sys with enrolling := true } }

/-- KEY_VALID_FUSE_BLOWN (R532): LIFECYCLE reads 2; it only advances (R522). -/
def execKeyValidFuseBlown (s : State) : Host.Outcome State Fault Refusal :=
  .next (if s.sys.enrolling then
    let f := s.fuses
    let f1 := if f.bank1.used then { f with bank1 := { f.bank1 with valid := true } } else { f with bank0 := { f.bank0 with valid := true } }
    { s with fuses := { f1 with lifecycle := max 2 f1.lifecycle }, sys := { s.sys with enrolling := false } }
  else s)

/-- A write of ATTEST_NONCE starts a report, ready within 20 ms (R534). -/
def startReport (nonce : Bytes) (s : State) : State :=
  { s with sys := { s.sys with attestBusy := some (s.t3 + 20000000), attestNonce := nonce } }

/-- The slots in a range of states, as a mask. -/
def slotMask (s : State) (lo hi : Nat) : Nat := ((List.range 64).filter fun g => within (gstate s g) lo hi).foldl setBit 0

/-- The report (R534). -/
def attestReport (s : State) : Bytes :=
  let loaded := (List.range 64).filter fun g => within (gstate s g) 1 4
  let body := [0x43#8, 0x41#8, 0x54#8, 0x52#8] ++ leBytes 2 1 ++ leBytes 1 s.fuses.lifecycle ++ leBytes 1 (health s)
    ++ leBytes 8 s.fuses.serial ++ s.sys.attestNonce ++ leBytes 4 s.sys.running.version ++ leBytes 1 s.fuses.secFuses
    ++ leBytes 1 s.sys.running.keySlot ++ leBytes 1 (drainCause s) ++ leBytes 1 0 ++ leBytes 8 s.t3
    ++ s.sys.running.digest ++ sha256 s.sys.testPkg.image
    ++ (match customerKey s with
      | some k => sha256 k
      | none => List.replicate 32 0#8)
    ++ leBytes 8 (slotMask s 1 4) ++ leBytes 8 (slotMask s 3 3)
    ++ sha256 (loaded.flatMap fun g => sha256 (s.slot g).image)
  body ++ Config.identitySign (sha256 body)

/-- ATTEST_REPORT_READY (R534). -/
def execAttestReportReady (s : State) : Host.Outcome State Fault Refusal :=
  .next (if s.sys.attestBusy.isSome then
    { s.setBlob Reg.ATTEST_REPORT (attestReport s) with sys := { s.sys with attestBusy := none } }
  else s)

/-! ## Supply and temperature (R545, R546, R550) -/

/-- Whether the core domain is powered. -/
def corePowered (s : State) : Bool := [Phase.booting, .ready, .enteringStandby, .waking].contains s.sys.phase

/-- AVS_LOOP_STEP (R545, R546). -/
def execAvsLoopStep (avsOk : Bool) (volts amps : BitVec 16) (s : State) : Host.Outcome State Fault Refusal :=
  let low := (List.range 5).foldl (fun m n => min m (s.r (Reg.PACE_LIVE n))) (s.r (Reg.PACE_LIVE 0))
  let set := s.r Reg.PACE_SET
  let v := s.r Reg.CORE_V_REQ
  let w := if low + 25 < set then min 850 (v + 5) else if set + 25 < low then max 650 (v - 5) else v
  .next (if !corePowered s then s
    else if !avsOk then s.bump Reg.AVS_ERRORS
    else
      let s1 := ((s.setR Reg.CORE_V_REQ w).setR Reg.CORE_V_READ volts.toNat).setR Reg.CORE_I_READ amps.toNat
      if w = v then s1 else s1.emit (.avs w))

/-- TEMPERATURE_READ (R550): the readings of the four regions and of the control complex in °C. -/
def execTemperatureRead (celsius : List Int) (s : State) : Host.Outcome State Fault Refusal :=
  .next (if !corePowered s then s
    else
      let l := celsius.take 5
      let s1 := forEach l.zipIdx (fun (x : Int × Nat) s => s.setR (Reg.TJ_LIVE x.2) (unsigned 16 x.1)) s
      let s2 := s1.setR Reg.TJ_MAX (unsigned 16 (l.foldl max (s.rI 16 Reg.TJ_MAX)))
      s2.bumpBy Reg.TJ_HIGH (l.filter fun x => decide (110 < x)).length)

end Sys2Proof.Machine
end

