-- ==== Sys2Proof/Machine/Dict.lean ====
section
/-! DEFINITION. The dictionary as requests meet it (17 R443 to R472): which entries exist, what a read returns, the checks
of a written value in the order of R465, what an accepted value does. -/

namespace Sys2Proof.Machine

open Sys2Proof

/-! ## Which entries exist, and for whom (R456, R471, R520, R531, R149) -/

/-- Whether the ROM service or the recovery loader answers instead of the dictionary. -/
def rom (s : State) : Bool := decide (s.sys.phase = .failed) || decide (s.sys.phase = .recovery)

/-- The subindices that the ROM service offers of an index: none of an index that does not exist for it. -/
def romSubs (s : State) (idx : Nat) : List Nat :=
  match idx with
  | 0x1000 => List.range 256
  | 0x8000 => [0, 2]
  | 0x7000 => [0, 1]
  | 0x1030 => [0, 1]
  | 0x7010 => if s.sys.phase = .recovery then [0, 1, 2, 3] else []
  | _ => []

/-- The type of a declared host parameter; the layout of section 0x06 is not given (notes/assumptions/2.md). -/
def hostTy (d : HostDecl) : Ty :=
  nth .u32 [.u8, .u16, .u32, .u64, .i8, .i16, .i32, .i64, .bool, .f32, .str d.size, .dom d.size] (d.ty % 12)

/-- The access code of a class A (`k` 1) or S (`k` 0) of a declared host parameter. -/
def hostAcc (d : HostDecl) (k : Nat) : Acc := nth .no [.no, .r, .w, .rw] (d.access / 4 ^ k % 4)

/-- The host parameters of a slot. -/
def hostOf (s : State) (g : Nat) : List HostDecl := ((s.slot g).pkg.map hostDecls).getD []

/-- The row of host parameter `n` of a slot: its access is never wider than rw/rw/– (R149). -/
def hostRow (s : State) (g n : Nat) : Option DictRow :=
  (hostOf s g)[n - 1]?.map fun d =>
    ⟨0x3400 + g, 0x3400 + g, n, n, hostTy d, hostAcc d 1, hostAcc d 0, .no, d.number, .frameTick⟩

/-- The row of an entry of an index that exists. -/
def rowOf (s : State) (idx sub : Nat) : Option DictRow :=
  if within idx 0x3400 0x343F ∧ sub ≠ 0 then hostRow s (idx - 0x3400) sub else dictRow idx sub

/-- The entry that a request names, or abort code 1 or 2. -/
def entryRow (s : State) (idx sub : Nat) : Except Abort DictRow :=
  if rom s ∧ romSubs s idx = [] then .error 1
  else if rom s ∧ !(romSubs s idx).contains sub then .error 2
  else if !dictHasIndex idx then .error 1
  else match rowOf s idx sub with
    | some r => .ok r
    | none => .error 2

/-- The access code of an entry for a class. -/
def DictRow.acc (r : DictRow) (cls : Nat) : Acc := if cls = 0 then r.a else if cls = 1 then r.s else r.m

/-- Whether an access code lets a read be served. -/
def canRead (a : Acc) : Bool := decide (a = .rw) || decide (a = .r)

/-- Whether an access code lets a write be served. -/
def canWrite (a : Acc) : Bool := decide (a = .rw) || decide (a = .w)

/-! ## Ownership as reported (R466 to R469) -/

/-- An owner code. -/
def ownerCode (kind station number : Nat) (isStaged : Bool) : Nat :=
  kind * 2 ^ 24 + (if isStaged then 2 ^ 23 else 0) + station * 256 + number

/-- The owner of bit `i` of an output entry of the triggers, in force or else staged. -/
def outputOwner (s : State) (key : Nat → Key) (i : Nat) : Nat :=
  match (List.range 32).find? (fun t => bit (s.r (key t)) i), (List.range 32).find? (fun t => bit (s.rStaged (key t)) i) with
  | some t, _ => ownerCode 4 0 t false
  | none, some t => ownerCode 4 0 t true
  | none, none => 0

/-- The capture channel that owns a source. -/
def captureOwner (s : State) (src : Nat) : Nat :=
  match (List.range 16).find? fun c => s.r (Reg.CAP_SOURCE c) = src with
  | some c => ownerCode 5 0 c false
  | none => 0

/-- Who steers a base under a mode: its servo, the host, or nobody (R317). -/
def steeredBy (b mode : Nat) : Nat :=
  if b = 3 ∨ followMode b mode then 0 else if servoMode b mode then 6 else 7

/-- The owner of a base's steering. -/
def steeringOwner (s : State) (b : Nat) : Nat :=
  let now := steeredBy b (s.r (Reg.T_MODE b))
  let next := steeredBy b (s.rStaged (Reg.T_MODE b))
  if now ≠ 0 then ownerCode now 0 b false else if next ≠ 0 then ownerCode next 0 b true else 0

/-- A graph's ownership by slot (0 to 63) and station. -/
def graphOwner (x : Option (Nat × Nat)) : Nat :=
  match x with
  | some (g, st) => ownerCode 1 st (g + 1) false
  | none => 0

/-- The owner code of instance `i` of a kind. -/
def ownerOf (s : State) (kind i : Nat) : Nat :=
  match kind with
  | 1 => match sfind i s.segs with
    | some o => ownerCode (if o.retained then 2 else 1) o.station o.slot false
    | none => 0
  | 2 => let x := s.win i
    if x.owner = 0 then 0 else ownerCode 1 x.station x.owner false
  | 3 => match ctxOfPort s i with
    | some c => ownerCode 3 0 c false
    | none => 0
  | 4 => outputOwner s Reg.TRG_PORTS i
  | 5 => if outputOwner s Reg.TRG_PINS i ≠ 0 then outputOwner s Reg.TRG_PINS i else captureOwner s (i + 1)
  | 6 => outputOwner s Reg.TRG_DISPLAYS i
  | 7 => steeringOwner s i
  | 8 => if i = 0xFF then 0 else captureOwner s i
  | 10 => graphOwner (streamOwner s i)
  | 11 => graphOwner (planeOwner s i)
  | _ => 0

/-- How many instances a numbered kind has. -/
def ownerCount (kind : Nat) : Nat := nth 0 [0, 2048, 512, 24, 24, 8, 4, 8, 256, 0, 32, 16] kind

/-- The owned UDP ports in order: 65536 times Ethernet port plus UDP port, with the owner code. -/
def udpRecords (s : State) : SMap Nat :=
  (udpOwners s).foldl (fun (m : SMap Nat) x =>
    let late := decide (x.2.2.1 = 9) && decide (x.2.1 ≠ s.r Reg.UDP_PORT) && !(decide (x.1 = 0) && decide (x.2.1 = s.r Reg.LW_UDP / 65536))
    sinsert (x.1 * 65536 + x.2.1) (ownerCode x.2.2.1 0 x.2.2.2 late) m) []

/-- The bytes of OWNERS of a kind. -/
def ownersBytes (s : State) (kind : Nat) : Bytes :=
  if kind = 9 then (udpRecords s).flatMap fun p => leBytes 1 (p.1 / 65536) ++ [0#8] ++ leBytes 2 p.1 ++ leBytes 4 p.2
  else (List.range (ownerCount kind)).flatMap fun i => leBytes 4 (ownerOf s kind i)

/-! ## What a read returns (R18, R458, R462) -/

/-- The live mode of a block (0x3081). -/
def blockMode (s : State) (b : Nat) : Nat :=
  match (s.unit b).status with
  | .drained => 5
  | .withdrawn => 4
  | .inTest => 4
  | .slice => 4
  | .inService => heldMode s b

/-- The segments of a block whose owner satisfies `f`, as a mask. -/
def segMask (s : State) (b : Nat) (f : SegOwner → Bool) : Nat :=
  (s.segs.filter fun (p : Nat × SegOwner) => decide (p.1 / 64 = b) && f p.2).foldl (fun m p => setBit m (p.1 % 64)) 0

/-- The power states of a block's banks, two bits each (R214). -/
def banksPower (s : State) (b : Nat) : Nat := ((List.range 16).map fun k => bankPower s b k * 4 ^ k).sum

/-- The partner block in a paired station of a graph that holds its claims (0x5030). -/
def partnerBlock (s : State) (b : Nat) : Nat :=
  ((activeStations s b).findSome? fun st => if st.paired then st.partnerOf b else none).getD 0xFF

/-- The rest of a suspect timer in ms (R381). -/
def suspectLeft (s : State) (u : Nat) : Nat :=
  match sfind u s.aon.suspect with
  | some d => ceilDiv (d - s.t3) 1000000
  | none => 0

/-- The offset and the sequence number of a ring record, 0 while there is none. -/
def ringEnd (x : Option RingRec) (f : RingRec → Nat) : Nat := (x.map f).getD 0

/-- The value of a number entry as a read returns it: entries that mirror other state are computed, the others are
their staged value or the one in force. -/
def liveNat (s : State) (i n : Nat) : Nat :=
  let stored := s.rStaged (i * 256 + n)
  if n = 0 then (if within i 0x3400 0x343F then (hostOf s (i - 0x3400)).length else stored)
  else match i with
  | 0x1000 => if n = 3 then s.fuses.serial % 2 ^ 64 else if n = 4 then s.fuses.dieStep % 65536 else stored
  | 0x1011 => if n = 8 then (if s.sys.depotEn then 1 else 0) else stored
  | 0x2000 => rateSum s fun _ => true
  | 0x3018 => heldSlots s (n - 1)
  | 0x3080 => sget dflt0 s.fuses.repair (n - 1)
  | 0x3081 => blockMode s (n - 1)
  | 0x4000 => setBit (segMask s (n - 1) fun _ => true) 63
  | 0x4001 => banksPower s (n - 1)
  | 0x4002 => segMask s (n - 1) fun o => o.retained
  | 0x4021 => match n with
    | 2 => ringEnd (ringEnds s).1 fun r => r.offset
    | 3 => ringEnd (ringEnds s).2 fun r => r.offset
    | 4 => ringEnd (ringEnds s).1 fun r => r.seq
    | 5 => ringEnd (ringEnds s).2 fun r => r.seq
    | _ => stored
  | 0x5000 => if n = 4 then (if s.sys.errLow then 1 else 0) else stored
  | 0x5004 => if n = 1 then health s else if n = 2 then drainCause s else stored
  | 0x5022 => gooseLoad s (n - 1)
  | 0x5030 => partnerBlock s (n - 1)
  | 0x5032 => suspectLeft s (n - 1)
  | 0x5034 => suspectLeft s (n + 31)
  | 0x5042 => (s.t3 - testStart s (n - 1)) / 1000000
  | 0x7000 => if n = 1 then s.fuses.lifecycle else if n = 2 then s.fuses.secFuses else s.fuses.keyRevoked
  | 0x8031 => (Config.freeWord (s.free + n)).toNat % 65536
  | _ =>
    if within i 0x2C00 0x2C03 ∧ n = 1 then rateSum s (portInPipe s (i - 0x2C00))
    else if within i 0x2C00 0x2C03 ∧ n = 2 then (s.pipe (i - 0x2C00)).ready.length
    else if within i 0x6000 0x6007 ∧ n = 1 then s.t (i - 0x6000)
    else if within i 0x6800 0x6802 ∧ n = 4 then ownMac s (i - 0x6800)
    else stored

/-- The bytes of a DOMAIN or string entry as a read returns them. -/
def liveBlob (s : State) (i n : Nat) : Bytes :=
  let k := i * 256 + n
  match i with
  | 0x1000 =>
    if n = 2 then [0x54#8, 0x42#8, 0x2D#8, 0x38#8, 0x38#8, 0x34#8, 0x30#8, 0x2D#8, 0x4C#8, if s.fuses.orderingLE then 0x45#8 else 0x51#8]
    else s.blob k
  | 0x1040 => ownersBytes s n
  | 0x3010 => (s.slot (n - 1)).image
  | 0x4024 => ringData s
  | 0x5040 => s.sys.testPkg.image
  | 0x7001 => (customerKey s).getD []
  | 0x7020 => if n = 1 then s.fuses.identityKey else s.flash.cert
  | _ => (sfind k s.stagedBlobs).getD (s.blob k)

/-- The value of an entry, exactly its type's bytes (R449). -/
def readValue (s : State) (r : DictRow) (i n : Nat) : Bytes :=
  match r.ty.size with
  | some w => leBytes w (liveNat s i n)
  | none => liveBlob s i n

/-- State conditions of a read (R259, R534). -/
def readRefusal (s : State) (k : Key) : Option Abort :=
  if k = Reg.RING_DATA ∧ s.r Reg.RING_STATE ≠ 2 then some 8
  else if k = Reg.ATTEST_REPORT ∧ s.sys.attestBusy.isSome then some 8
  else none

/-- What a served read of an entry does: a rail reading is drawn anew each time. -/
def noteRead (k : Key) (s : State) : State := if k / 256 = 0x8031 then { s with free := s.free + 8 } else s

/-! ## Length (R449, R455) -/

/-- The exact lengths of the entries whose layout fixes them. -/
def blobLengthOk (k : Key) (b : Bytes) : Bool :=
  let i := k / 256
  let n := k % 256
  let len := b.length
  if within i 0x2300 0x2317 then i2cLength b
  else if within i 0x2800 0x2823 then
    match n with
    | 6 => decide (len % 4 = 0)
    | 7 => decide (len = 8712)
    | 11 => decide (len = 514)
    | _ => decide (len = 24)
  else if within i 0x6800 0x6802 then decide (len = 16)
  else if i = 0x6810 ∨ i = 0x6811 then
    match n with
    | 1 => decide (len % 8 = 0) && decide (len ≠ 0)
    | 4 => decide (len = 32)
    | _ => decide (len = 1536)
  else if within i 0x6900 0x691F ∨ i = 0x6A00 then decide (len = 4) || decide (len = 16)
  else if i = 0x3010 then decide (12 ≤ len)
  else if i = 0x4840 then decide (len = 2048)
  else if i = 0x7001 then decide (len = 128)
  else if i = 0x7021 then decide (len = 16)
  else true

/-- Whether a written value has its entry's length. -/
def lengthOk (r : DictRow) (k : Key) (b : Bytes) : Bool :=
  match r.ty.size with
  | some w => decide (b.length = w)
  | none => blobLengthOk k b

/-! ## State (R146, R250, R305, R437, R438, R485, R497, R501, R529, R532, R535) -/

/-- The writes that a drained chip accepts, and after a handover of the trio the fewer of R437. -/
def drainedOk (s : State) (k : Key) : Bool :=
  k = Reg.RING_CMD || k = Reg.RING_CURSOR || k = Reg.PENDING 0 || k = Reg.PENDING 1 || k = Reg.LATCH_CLEAR
    || (!s.sys.handover && (k / 256 = 0x3013 || k = Reg.STANDBY_CMD))

/-- The writes that an update in progress refuses. -/
def updateBars (k : Key) : Bool :=
  k = Reg.FW_IMAGE || k = Reg.TEST_PACKAGE || k = Reg.CUSTOMER_KEY || k = Reg.RESET_CMD || k = Reg.STANDBY_CMD || persists k

/-- Whether an entry's own state refuses every write of it. -/
def entryBusy (s : State) (k : Key) : Bool :=
  let i := k / 256
  let n := k % 256
  match i with
  | 0x3010 => holds s (n - 1)
  | 0x4023 => decide (s.r Reg.RING_STATE ≠ 2)
  | 0x7001 => decide (s.fuses.lifecycle ≠ 1)
  | 0x8010 => decide (n = 1) && decide (s.sys.phase ≠ .ready)
  | _ =>
    if within i 0x2800 0x2823 ∧ within n 13 15 then sourceTaken s false (i - 0x2800) || contextShown s (i - 0x2800)
    else if within i 0x2500 0x250F ∧ n = 4 then sourceTaken s true (i - 0x2500)
    else if within i 0x4800 0x4803 ∧ within n 2 8 then s.on (Reg.DSP_ENABLE (i - 0x4800))
    else if within i 0x6900 0x691F then streamHeld s (i - 0x6900)
    else false

/-- Whether a write is refused for the state of the device or of its entry. -/
def stateBars (s : State) (k : Key) : Bool :=
  (s.drained && !drainedOk s k) || (updating s && updateBars k) || entryBusy s k

/-! ## Value, ownership, exhaustion -/

/-- Whether a binary32 code is finite (R455). -/
def finite32 (v : Nat) : Bool := decide (bitsOf v 30 23 ≠ 255)

/-- The reserved bits of PENDING (R428). -/
def pendingReserved (word v : Nat) : Bool := (bitList v 64).any fun i => !isFaultSource (64 * word + i)

/-- Whether a point-cloud stream as written has a UDP port that something else owns (R280). -/
def pclOwned (s : State) (n : Nat) (v : Nat → Nat) : Bool := decide (v 3 ≠ 0) && udpOwned s (v 2) (v 3) 8 n

/-- The abort code of a context's number entry; `t` has every value as the write leaves it (R288, R296, R297, R306, R312). -/
def contextRefusal (t : State) (s : State) (c n v : Nat) : Option Abort :=
  let bad (b : Bool) : Option Abort := if b then none else some 5
  match n with
  | 1 => bindRefusal s c v
  | 2 => bad (decide (v ≤ 4))
  | 3 => bad (decide (v < 512))
  | 13 => bad (decide (v ≤ 3) && groupOk v (t.rStaged (Reg.CTX_GROUP c)) (ctxWidth t c))
  | 14 => bad ([2, 3, 7, 8].contains v)
  | 15 => bad (groupOk (t.rStaged (Reg.CTX_OUT_MODE c)) v (ctxWidth t c))
  | _ => none
where
  /-- The width that a context's next frame start will latch. -/
  ctxWidth (t : State) (c : Nat) : Option Nat :=
    let p := t.r (Reg.CTX_PORT c)
    if p < 24 then some (t.rStaged (Reg.CAM_WIDTH p)) else none

/-- The abort code of a number entry of index below 0x4000. -/
def numRefusalLow (t s : State) (i n v : Nat) : Option Abort :=
  let bad (b : Bool) : Option Abort := if b then none else some 5
  if i = 0x1010 then
    match n with
    | 1 => bad (within v 1 16383)
    | 2 => if !within v 1024 65535 then some 5 else if (List.range 3).any (fun e => udpOwned s e v 9 0) then some 6 else none
    | _ => bad (decide (v < 16))
  else if i = 0x1030 then bad (decide (v = 0xA55A))
  else if within i 0x2100 0x2117 then portRefusal t ⟨i - 0x2100, n, v⟩
  else if within i 0x2300 0x2317 then bad (decide (v ≤ 1))
  else if within i 0x2500 0x250F then
    let x := fun m => t.rStaged (i * 256 + m)
    match n with
    | 2 => if 2 ≤ v then some 5 else if pclOwned s (i - 0x2500) x then some 6 else none
    | 3 => if pclOwned s (i - 0x2500) x then some 6 else none
    | 4 => bad (within v 1024 262144 && decide (v % 1024 = 0))
    | _ => none
  else if within i 0x2800 0x2823 then contextRefusal t s (i - 0x2800) n v
  else if i = 0x3013 then graphCmdRefusal s (n - 1) v
  else none

/-- The abort code of a number entry of index 0x4000 to 0x5FFF. -/
def numRefusalMid (t s : State) (i n v : Nat) : Option Abort :=
  let bad (b : Bool) : Option Abort := if b then none else some 5
  let x := fun m => t.rStaged (i * 256 + m)
  if i = 0x4020 then
    match n with
    | 1 => bad (decide (v + 64 ≤ s.r Reg.DRAM_CONFIG_capacity))
    | 2 => bad (decide (v < 2 ^ 24))
    | _ => none
  else if i = 0x4022 then ringCmdRefusal s v
  else if i = 0x4023 then bad (decide (v % 64 = 0) && decide (v < ringBytes s))
  else if within i 0x4800 0x4803 then displayRefusal s (i - 0x4800) (within n 2 8) x
  else if within i 0x4810 0x481F then planeRefusal t (i - 0x4810) (decide (n = 2)) x
  else if i = 0x4840 then bad (decide (v < 2 ^ 24))
  else if i = 0x5000 then bad (decide (v = 1))
  else if i = 0x5002 then bad ((permittedReactions n).contains v)
  else if i = 0x5003 then bad (!pendingReserved (n - 1) v)
  else if i = 0x5010 then bad (withholdLegal v)
  else if i = 0x5020 then bad (decide (v ≤ 15))
  else if within i 0x5050 0x5053 then goldenCtxRefusal s (i - 0x5050) v
  else if within i 0x5060 0x5083 then bad (decide (v ≤ 3))
  else none

/-- The abort code of a number entry of index 0x6000 and above. -/
def numRefusalHigh (t s : State) (i n v : Nat) : Option Abort :=
  let bad (b : Bool) : Option Abort := if b then none else some 5
  let x := fun m => t.rStaged (i * 256 + m)
  if i = 0x6020 then bad (decide (v = 1))
  else if within i 0x6200 0x620F then captureRefusal s (i - 0x6200) v
  else if within i 0x6000 0x67FF then timeRefusal t i n v
  else if within i 0x6800 0x6802 then ethRefusal (i - 0x6800) n v
  else if within i 0x6808 0x680B then canRefusal x n
  else if i = 0x6810 ∨ i = 0x6811 then timeRefusal t i n v
  else if within i 0x6900 0x691F then streamRefusal s (i - 0x6900) x n
  else if i = 0x6A00 then lwRefusal s n v
  else if i = 0x8010 then
    match n with
    | 1 => bad (decide (v = 1))
    | 2 => bad (!bit v 3)
    | _ => bad (canIdOk v)
  else if i = 0x8030 then bad (within v 1300 1600)
  else none

/-- The abort code of a number entry: the type's rule (R455), then the entry's own checks. `t` is `s` with every value of
the write staged. -/
def numRefusal (t s : State) (r : DictRow) (k : Key) (v : Nat) : Option Abort :=
  let i := k / 256
  let n := k % 256
  if r.ty = .bool ∧ 2 ≤ v then some 5
  else if r.ty = .f32 ∧ !finite32 v then some 5
  else if i < 0x4000 then numRefusalLow t s i n v
  else if i < 0x6000 then numRefusalMid t s i n v
  else numRefusalHigh t s i n v

/-- The static defect list is ordered by y and then x (R308). -/
def dpcOrdered (b : Bytes) : Bool :=
  let n := b.length / 4
  let at' (i : Nat) : Nat := field b (4 * i + 2) 2 * 65536 + field b (4 * i) 2
  decide (n ≤ 4096) && (List.range (n - 1)).all fun i => decide (at' i ≤ at' (i + 1))

/-- The space that a package's header asks for (R237). -/
def packageSpace (b : Bytes) : Nat := field b 8 4

/-- The abort code of a DOMAIN entry's value; `own` is the space its own transfer has reserved. -/
def blobRefusal (s : State) (k : Key) (b : Bytes) (own : Bool) : Option Abort :=
  let i := k / 256
  let n := k % 256
  if within i 0x2800 0x2823 ∧ n = 6 then (if dpcOrdered b then none else some 5)
  else if within i 0x2300 0x2317 then i2cRefusal s (i - 0x2300) b
  else if i = 0x3010 then (if !own ∧ packageSpace b ≠ 0 ∧ (firstFit s (granules (packageSpace b))).isNone then some 7 else none)
  else if (i = 0x6810 ∨ i = 0x6811) ∧ n = 1 then (if gclOk b then none else some 5)
  else if (i = 0x6810 ∨ i = 0x6811) ∧ n = 4 then (if slopesOk s (i - 0x6810) b then none else some 5)
  else if (i = 0x6810 ∨ i = 0x6811) ∧ n = 5 then (if qciOk b then none else some 5)
  else if i = 0x7001 then keyRefusal s b
  else none

/-! ## What an accepted value does (R18, R460) -/

/-- Stages a value until its apply point; a persistent one goes to the boot flash (R464, R530). -/
def stageNum (k : Key) (v : Nat) (s : State) : State :=
  let s1 := { s with staged := sinsert k v s.staged }
  if persists k then storeWrite s1 else s1

/-- Stages bytes until their apply point. -/
def stageBlob (k : Key) (b : Bytes) (s : State) : State :=
  let s1 := { s with stagedBlobs := sinsert k b s.stagedBlobs }
  if persists k then storeWrite s1 else s1

/-- A write of PENDING clears the written bits and those of ERR_HOLD; DRAIN stays while the chip is drained (R428). -/
def clearPending (word v : Nat) (s : State) : State :=
  let m := if word = 0 ∧ s.drained then clearBit v Src.DRAIN else v
  let off (x : Nat) : Nat := (bitList m 64).foldl clearBit x
  (s.setR (Reg.PENDING word) (off (s.r (Reg.PENDING word)))).setR (Reg.ERR_HOLD word) (off (s.r (Reg.ERR_HOLD word)))

/-- A write of a context's PORT (R288, R409). -/
def bindPort (c v : Nat) (s : State) : State := modCtx c (fun x => { x with history := [] }) (s.setR (Reg.CTX_PORT c) v)

/-- A write of a last-word entry: the template is rebuilt within 1 ms (R493). -/
def lwWritten (s : State) : State := { s with net := { s.net with lwDue := true } }

/-- What an accepted number does when it applies at once. RESET_CMD acts after its response. -/
def writeNum (k : Key) (v : Nat) (s : State) : State :=
  let i := k / 256
  let n := k % 256
  match i with
  | 0x1030 => s
  | 0x3013 => graphCmd (n - 1) v s
  | 0x4022 => ringCmd v s
  | 0x5000 => (s.setR Reg.FIRST_SOURCE 0).setR Reg.OVERFLOW 0
  | 0x5003 => clearPending (n - 1) v s
  | 0x6020 => scheduleCommit s
  | 0x6A00 => lwWritten (s.setR k v)
  | 0x8010 => if n = 1 then standbyEnter s else s.setR k v
  | _ =>
    if within i 0x2100 0x2117 ∧ n = 1 then (if v = 1 then enablePort (i - 0x2100) s else disablePort (i - 0x2100) s)
    else if within i 0x2100 0x2117 ∧ n = 2 then writeGear (i - 0x2100) v s
    else if within i 0x2800 0x2823 ∧ n = 1 then bindPort (i - 0x2800) v s
    else if within i 0x4800 0x4803 ∧ n = 1 then enableDisplay (i - 0x4800) v s
    else s.setR k v

/-- What accepted bytes do when they apply at once. -/
def writeBlob (k : Key) (b : Bytes) (s : State) : State :=
  let i := k / 256
  let n := k % 256
  match i with
  | 0x3010 => loadPackage (n - 1) b s
  | 0x5040 => testPackageEnd b s
  | 0x6A00 => lwWritten (s.setBlob k b)
  | 0x7001 => enrol b s
  | 0x7010 => fwImageEnd b s
  | 0x7021 => startReport b (s.setBlob k b)
  | _ => if within i 0x2300 0x2317 then i2cStart (i - 0x2300) b s
    else if within i 0x6810 0x6811 ∧ n = 4 then restartShaper (i - 0x6810) (s.setBlob k b) else s.setBlob k b

/-- Whether an entry applies at the write. -/
def appliesAtOnce (r : DictRow) : Bool := decide (r.app = .write) || decide (r.app = .live)

/-- What an accepted value does. -/
def applyValue (r : DictRow) (k : Key) (b : Bytes) (s : State) : State :=
  match r.ty.size with
  | some _ => if appliesAtOnce r then writeNum k (leVal b) s else stageNum k (leVal b) s
  | none => if appliesAtOnce r then writeBlob k b s else stageBlob k b s

/-! ## One write (R451, R456, R459, R465) -/

/-- Stages a number for the checks that look at a whole write; a GEAR takes effect at the write, so the written one is the one in
force (R277). -/
def asWritten (k : Key) (v : Nat) (s : State) : State :=
  if within (k / 256) 0x2100 0x2117 ∧ k % 256 = 2 then s.setR k v else { s with staged := sinsert k v s.staged }

/-- The abort code of a value by value, ownership and exhaustion. -/
def valueRefusal (s : State) (r : DictRow) (k : Key) (b : Bytes) (own : Bool) : Option Abort :=
  match r.ty.size with
  | some _ => numRefusal (asWritten k (leVal b) s) s r k (leVal b)
  | none => if r.ty.isText && !b.all (fun c => within c.toNat 0x20 0x7E) then some 5 else blobRefusal s k b own

/-- The abort code of a write of one entry that its class may write: length, state, value, ownership, exhaustion. -/
def writeRefusal (s : State) (r : DictRow) (k : Key) (b : Bytes) (own : Bool) : Option Abort :=
  if !lengthOk r k b then some 4
  else if stateBars s k then some 8
  else valueRefusal s r k b own

/-- The entries of an index, in ascending order of subindex. -/
def rowsOf (s : State) (idx : Nat) : List (Nat × DictRow) :=
  (List.range 256).filterMap fun n => match entryRow s idx n with
    | .ok r => some (n, r)
    | .error _ => none

/-- Whether an index holds a DOMAIN or string entry. -/
def hasBytes (l : List (Nat × DictRow)) : Bool := l.any fun x => x.2.ty.size.isNone

/-- The bytes that the entries of a list take together. -/
def totalSize (l : List (Nat × DictRow)) : Nat := (l.map fun x => (x.2.ty.size.getD 0)).sum

/-- The values of a complete write: subindex, row, value. -/
def splitValues : List (Nat × DictRow) → Bytes → List (Nat × DictRow × Nat)
  | [], _ => []
  | (n, r) :: t, b =>
    let w := r.ty.size.getD 0
    (n, r, leVal (b.take w)) :: splitValues t (b.drop w)

/-- The abort code of a complete write of an index (R459). -/
def allRefusal (s : State) (idx cls : Nat) (b : Bytes) : Option Abort :=
  let rows := rowsOf s idx
  if rows = [] then some 1
  else if hasBytes rows then some 0xC
  else
    let ws := rows.filter fun x => canWrite (x.2.acc cls)
    if ws = [] then some 3
    else if b.length ≠ totalSize ws then some 4
    else
      let vs := splitValues ws b
      let t := forEach vs (fun x s => asWritten (idx * 256 + x.1) x.2.2 s) s
      vs.findSome? fun x =>
        if stateBars s (idx * 256 + x.1) then some 8 else numRefusal t s x.2.1 (idx * 256 + x.1) x.2.2

/-- An accepted complete write. -/
def applyAll (idx cls : Nat) (b : Bytes) (s : State) : State :=
  forEach (splitValues ((rowsOf s idx).filter fun x => canWrite (x.2.acc cls)) b)
    (fun x s => applyValue x.2.1 (idx * 256 + x.1) (leBytes (x.2.1.ty.size.getD 0) x.2.2) s) s

/-- What a complete read of an index returns (R459). -/
def readAll (s : State) (idx cls : Nat) : Except Abort Bytes :=
  let rows := rowsOf s idx
  if rows = [] then .error 1
  else if hasBytes rows then .error 0xC
  else
    let rs := rows.filter fun x => canRead (x.2.acc cls)
    if rs = [] then .error 3
    else .ok (rs.flatMap fun x => readValue s x.2 idx x.1)

end Sys2Proof.Machine
end

