-- ==== Sys2Proof/Machine/Diale.lean ====
section
/-! DEFINITION. The Diale protocol (17 R443 to R465): frames, requests, transfers, responses; and the commands that are
requests to one entry. -/

namespace Sys2Proof

/-- The source of a request (R452): the port with IP address and UDP port, or the CAN controller with SRC_NODE. -/
def Req.source (q : Req) : Nat × Nat × Nat :=
  if q.port.val < 3 then (q.port.val, q.ip, q.udp.toNat) else (q.port.val, q.node.toNat, 0)

/-- The class of a request (R19). -/
def Req.cls (q : Req) : Nat := Machine.portClass q.port.val

/-- The payload limit of a request's carrier (R445). -/
def Req.limit (q : Req) : Nat := if q.port.val < 3 then 1400 else 40

end Sys2Proof

namespace Sys2Proof.Machine

open Sys2Proof

/-- A request: operation, entry, OFFSET, ALL, LAST, payload; `proto` says that its header breaks R446, `whole` that it stands
for a complete write of a value in as many segments as the carrier needs (notes/assumptions/50.md). -/
structure DReq where
  q : Req
  op : Nat
  idx : Nat
  sub : Nat
  off : Nat := 0
  all : Bool := false
  last : Bool := false
  proto : Bool := false
  whole : Bool := false
  payload : Bytes := []
  boot : Option BootInputs := none

/-- The key of a request's entry. -/
def DReq.key (r : DReq) : Key := r.idx * 256 + r.sub

/-- What answers a request: a payload, and whether LAST is set; or an abort code. -/
abbrev Answer := Except Abort (Bytes × Bool)

/-! ## Transfers (R450 to R452) -/

/-- Whether a transfer is a source's of an entry. -/
def Transfer.isOf (t : Transfer) (src : Nat × Nat × Nat) (k : Key) : Bool := decide (t.src = src) && decide (t.key = k)

/-- The open transfer of a request's source and entry. -/
def transferOf (s : State) (r : DReq) : Option Transfer := s.diale.opened.find? fun t => t.isOf r.q.source r.key

/-- Takes the transfer of a request's source and entry off the list. -/
def dropTransfer (r : DReq) (s : State) : State :=
  { s with diale := { s.diale with
    opened := s.diale.opened.filter fun t => !t.isOf r.q.source r.key
    timedOut := s.diale.timedOut.filter fun x => decide (x ≠ (r.q.source, r.key)) } }

/-- Frees what the write of a package has reserved (R237). -/
def freeReserved (src : Nat × Nat × Nat) (k : Key) (s : State) : State := freeSpace (fun o => decide (o = .transfer src k)) s

/-- Closes the transfer of a request's source and entry; what it buffered and reserved is released. -/
def closeTransfer (r : DReq) (s : State) : State := freeReserved r.q.source r.key (dropTransfer r s)

/-- Opens a transfer. -/
def openTransfer (r : DReq) (write : Bool) (off : Nat) (buf : Bytes) (s : State) : State :=
  let t : Transfer := ⟨r.q.source, r.key, write, off, buf, s.t3⟩
  { s with diale := { s.diale with opened := s.diale.opened ++ [t] } }

/-- Whether no transfer is free once the request's own one is closed. -/
def transfersFull (s : State) (r : DReq) : Bool := decide (8 ≤ (closeTransfer r s).diale.opened.length)

/-- The abort code of a segment that continues no open transfer, and the state after it. -/
def noTransfer (r : DReq) (s : State) : Answer × State :=
  if s.diale.timedOut.contains (r.q.source, r.key) then (.error 0xB, closeTransfer r s) else (.error 0xA, s)

/-- The largest size of an entry's value. -/
def maxSize (r : DictRow) : Nat :=
  match r.ty with
  | .dom n => n
  | .str n => n
  | t => t.size.getD 0

/-! ## Operations (R448 to R452) -/

/-- A read (R449, R459). -/
def handleRead (r : DReq) (s : State) : Answer × State :=
  if r.all then
    match readAll s r.idx r.q.cls with
    | .error c => (.error c, s)
    | .ok b => if r.q.limit < b.length then (.error 4, s) else (.ok (b, false), noteRead r.key s)
  else match entryRow s r.idx r.sub with
    | .error c => (.error c, s)
    | .ok row =>
      let b := readValue s row r.idx r.sub
      if !canRead (row.acc r.q.cls) then (.error 3, s)
      else if r.q.limit < b.length then (.error 4, s)
      else match readRefusal s r.key with
        | some c => (.error c, s)
        | none => (.ok (b, false), noteRead r.key s)

/-- A write (R451, R459). -/
def handleWrite (r : DReq) (s : State) : Answer × State :=
  if r.all then
    match allRefusal s r.idx r.q.cls r.payload with
    | some c => (.error c, s)
    | none => (.ok ([], false), applyAll r.idx r.q.cls r.payload s)
  else match entryRow s r.idx r.sub with
    | .error c => (.error c, s)
    | .ok row =>
      if !canWrite (row.acc r.q.cls) then (.error 3, s)
      else match writeRefusal s row r.key r.payload false with
        | some c => (.error c, s)
        | none => (.ok ([], false), applyValue row r.key r.payload s)

/-- A complete write of one value, however many segments carried it. -/
def handleWhole (r : DReq) (s : State) : Answer × State :=
  match entryRow s r.idx r.sub with
  | .error c => (.error c, s)
  | .ok row =>
    if !canWrite (row.acc r.q.cls) then (.error 3, s)
    else match writeRefusal (if r.op = 4 then closeTransfer r s else s) row r.key r.payload false with
      | some c => (.error c, s)
      | none =>
        if r.q.limit < r.payload.length ∧ maxSize row < r.payload.length then (.error 0xA, s)
        else if r.q.limit < r.payload.length ∧ transfersFull s r then (.error 0xE, s)
        else (.ok ([], decide (r.op = 4)), applyValue row r.key r.payload (if r.op = 4 then closeTransfer r s else s))

/-- One segment of a value from an offset, with the transfer as the segment leaves it; the ring's bytes are read from DRAM for the
segment (R259, R450). -/
def readSegment (r : DReq) (v : Bytes) (s : State) : Answer × State :=
  let part := slice v r.off r.q.limit
  let next := r.off + part.length
  let x := if r.key = Reg.RING_DATA then ringRead r.off part.length (closeTransfer r s) else (part, noteRead r.key (closeTransfer r s))
  if v.length ≤ next then (.ok (x.1, true), x.2) else (.ok (x.1, false), openTransfer r false next v x.2)

/-- A segment of a segmented read (R450). -/
def handleSegRead (r : DReq) (s : State) : Answer × State :=
  match entryRow s r.idx r.sub with
  | .error c => (.error c, s)
  | .ok row =>
    let v := readValue s row r.idx r.sub
    if !canRead (row.acc r.q.cls) then (.error 3, s)
    else if r.off ≠ 0 ∧ !(transferOf s r).any (fun t => !t.isWrite) then noTransfer r s
    else match readRefusal s r.key, transferOf s r with
      | some c, _ => (.error c, s)
      | none, t =>
        if r.off = 0 then (if transfersFull s r then (.error 0xE, s) else readSegment r v s)
        else match t with
          | none => noTransfer r s
          | some t =>
            if r.off ≠ t.off then (.error 0xA, closeTransfer r s)
            else if v ≠ t.buf then (.error 9, closeTransfer r s)
            else readSegment r v s

/-- The whole value of a segmented write is checked and applied as one write (R451). -/
def finishWrite (r : DReq) (row : DictRow) (b : Bytes) (s : State) : Answer × State :=
  let s1 := closeTransfer r s
  match writeRefusal s1 row r.key b true with
  | some c => (.error c, s1)
  | none => (.ok ([], true), applyValue row r.key b s1)

/-- The space that the opening segment of a write reserves (R237). -/
def reserveOf (r : DReq) : Nat := if r.idx = 0x3010 then packageSpace r.payload else 0

/-- Reserves that space for the transfer. -/
def reserveSpace (r : DReq) (s : State) : State :=
  if reserveOf r = 0 then s else allocate (.transfer r.q.source r.key) (reserveOf r) s

/-- The abort code of the opening segment of a segmented write: length, state, exhaustion, then size and transfers. -/
def openingRefusal (r : DReq) (row : DictRow) (s : State) : Option Abort :=
  if r.idx = 0x3010 ∧ r.payload.length < 12 then some 4
  else if stateBars s r.key then some 8
  else if r.idx = 0x3010 ∧ reserveOf r ≠ 0 ∧ (firstFit (closeTransfer r s) (granules (reserveOf r))).isNone then some 7
  else if maxSize row < r.payload.length then some 0xA
  else if transfersFull s r then some 0xE
  else none

/-- A segment of a segmented write (R451). -/
def handleSegWrite (r : DReq) (s : State) : Answer × State :=
  match entryRow s r.idx r.sub with
  | .error c => (.error c, s)
  | .ok row =>
    if !canWrite (row.acc r.q.cls) then (.error 3, s)
    else if r.off = 0 then
      match openingRefusal r row s with
      | some c => (.error c, s)
      | none =>
        if r.last then finishWrite r row r.payload s
        else (.ok ([], false), openTransfer r true r.payload.length r.payload (reserveSpace r (closeTransfer r s)))
    else match transferOf s r with
      | none => noTransfer r s
      | some t =>
        let b := t.buf ++ r.payload
        if !t.isWrite then (.error 0xA, s)
        else if r.off ≠ t.buf.length ∨ maxSize row < b.length then (.error 0xA, closeTransfer r s)
        else if r.last then finishWrite r row b s
        else (.ok ([], false), openTransfer r true b.length b (dropTransfer r s))

/-- A cancel (R452). -/
def handleCancel (r : DReq) (s : State) : Answer × State :=
  match entryRow s r.idx r.sub with
  | .error c => (.error c, s)
  | .ok _ => if (transferOf s r).isSome then (.ok ([], false), closeTransfer r s) else (.error 0xA, s)

/-- Whether a request is answered with a protocol error (R446). -/
def protoBad (r : DReq) : Bool :=
  r.proto || !within r.op 1 5 || (!r.whole && decide (r.q.limit < r.payload.length))
    || (r.all && (decide (3 ≤ r.op) || decide (r.sub ≠ 0)))

/-- Executes a request. -/
def handle (r : DReq) (s : State) : Answer × State :=
  if protoBad r then (.error 0xD, s)
  else if r.whole then handleWhole r s
  else match r.op with
    | 1 => handleRead r s
    | 2 => handleWrite r s
    | 3 => handleSegRead r s
    | 4 => handleSegWrite r s
    | _ => handleCancel r s

/-! ## Responses (R445, R447, R448, R454, R457, R475) -/

/-- The bytes of a frame without its check. -/
def frameBody (node src txn idx sub op flags off : Nat) (payload : Bytes) : Bytes :=
  [0x44#8, 0x4C#8, 0x01#8] ++ leBytes 1 op ++ leBytes 2 node ++ leBytes 2 src ++ leBytes 2 txn ++ leBytes 2 idx
    ++ leBytes 1 sub ++ leBytes 1 flags ++ leBytes 2 payload.length ++ leBytes 4 off ++ payload

/-- A frame with its check. -/
def withCheck (b : Bytes) : Bytes := b ++ leBytes 4 (crc32c b)

/-- The response frame to a request. -/
def responseFrame (s : State) (r : DReq) (a : Answer) : Bytes :=
  let node := s.r Reg.NODE_ID
  let make (op flags off : Nat) (b : Bytes) : Bytes :=
    withCheck (frameBody node r.q.node.toNat r.q.txn.toNat r.idx r.sub op ((if r.all then 1 else 0) + flags) off b)
  let off := if r.op = 3 ∨ r.op = 4 then r.off else 0
  match a with
  | .ok (b, last) => make (r.op + 0x80) (if last then 2 else 0) off b
  | .error c => make 0xFF 0 off (leBytes 4 c)

/-- Sends a response to the request's source; on CAN it is padded and carries KIND 0b111. -/
def sendResponse (q : Req) (frame : Bytes) (s : State) : State :=
  if q.port.val < 3 then
    (s.emit (.diale q (s.r Reg.UDP_PORT) 0 frame)).bump (Reg.NET_TX_FRAMES q.port.val)
  else
    let id := 7 * 2 ^ 26 + s.r Reg.NODE_ID * 2 ^ 12 + q.txn.toNat % 2 ^ 12
    (s.emit (.diale q 0 id (canPad frame))).bump (Reg.CAN_TX_FRAMES (q.port.val - 3))

/-- Whether a kept response answers a request again (R454). -/
def Kept.answers (x : Kept) (r : DReq) : Bool :=
  decide (x.src = r.q.source) && decide (x.idx = r.idx) && decide (x.sub = r.sub) && decide (x.op = r.op)
    && decide (x.txn = r.q.txn.toNat)

/-- The kept response of a repeated request. -/
def keptFor (s : State) (r : DReq) : Option Kept := s.diale.kept.find? fun x => x.answers r

/-- Keeps the last response of a source, for the 16 sources that sent most recently. -/
def keep (r : DReq) (frame : Bytes) (s : State) : State :=
  let rest := s.diale.kept.filter fun x => decide (x.src ≠ r.q.source)
  let x : Kept := ⟨r.q.source, r.idx, r.sub, r.op, r.q.txn.toNat, frame⟩
  { s with diale := { s.diale with kept := rest.drop (rest.length - 15) ++ [x] } }

/-- A repeated request makes its source the one that sent most recently. -/
def keepAgain (x : Kept) (s : State) : State :=
  { s with diale := { s.diale with kept := (s.diale.kept.filter fun y => decide (y.src ≠ x.src)) ++ [x] } }

/-- Counts a request and, if it was refused, the abort (R457). -/
def countRequest (r : DReq) (a : Answer) (s : State) : State :=
  let s1 := s.bump (Reg.REQUESTS r.q.cls)
  match a with
  | .ok _ => s1
  | .error _ => s1.bump (Reg.ABORTS r.q.cls)

/-! ## Serving a request -/

/-- Whether requests reach the dictionary on a port: its link or bus is up, and Diale runs on it (R447, R515, R520). -/
def portLive (s : State) (p : Nat) : Bool :=
  if p < 3 then ethUp s p && portPowered s p
  else canUp s (p - 3) && bit (s.r Reg.CAN_DIALE) (p - 3) && working s

/-- The boot that follows a reset command whose command names none: it meets what the last one met and passes. -/
def passingBoot (s : State) : BootInputs := { firstBoot with density := List.replicate 32 (s.r Reg.DRAM_CONFIG_capacity / 32) }

/-- Whether a request is an accepted RESET_CMD, alone or as the whole of its index, which acts once the response is sent (R459, R472). -/
def isReset (r : DReq) (a : Answer) : Bool :=
  (decide (r.key = Reg.RESET_CMD) || (r.all && decide (r.idx = 0x1030))) && (decide (r.op = 2) || (decide (r.op = 4) && (r.last || r.whole))) && match a with
    | .ok _ => true
    | .error _ => false

/-- Executes a new request, then what hardware raises in the same beat (R430), and answers. -/
def serveNew (r : DReq) (raised : List Nat) (s : State) : State :=
  let (a, s1) := handle r s
  let frame := responseFrame s r a
  let s2 := leaveSafe (raiseAll (raised.filter isFaultSource) s1)
  let s3 := sendResponse r.q frame (keep r frame (countRequest r a s2))
  if isReset r a then immediateReset 3 (r.boot.getD (passingBoot s3)) s3 else s3

/-- A request arrives at the dictionary (R20, R446, R454). -/
def serve (r : DReq) (raised : List Nat) (s : State) : State :=
  let beat (s : State) : State := raiseAll (raised.filter isFaultSource) s
  if !portLive s r.q.port.val then beat s
  else if r.q.port = 2 ∧ !s.sys.depotEn then beat (s.bump Reg.M_DISCARDED)
  else match keptFor s r with
    | some x => beat (sendResponse r.q x.response (keepAgain x s))
    | none => serveNew r raised s

/-! ## Frames (R444 to R447) -/

/-- Whether a received frame is discarded without response (R446). -/
def frameBad (s : State) (c : Carrier) (b : Bytes) : Bool :=
  let len := field b 0xE 2
  let node := field b 4 2 % 2 ^ 14
  let can := decide (3 ≤ c.port.val)
  decide (b.length < 24) || decide (slice b 0 2 ≠ [0x44#8, 0x4C#8]) || decide (b.length < 24 + len)
    || decide (field b (20 + len) 4 ≠ crc32c (b.take (20 + len))) || (decide (node ≠ s.r Reg.NODE_ID) && decide (node ≠ 0))
    || (can && (decide (bitsOf c.canId.toNat 25 12 ≠ node) || decide (bitsOf c.canId.toNat 11 0 ≠ field b 8 2 % 2 ^ 12)))

/-- The request in a frame. -/
def requestOf (c : Carrier) (b : Bytes) : DReq :=
  let flags := field b 0xD 1
  { q := { port := c.port, ip := c.ip, udp := c.udp, mac := c.mac, node := BitVec.ofNat 14 (field b 6 2)
           txn := BitVec.ofNat 16 (field b 8 2), tag := c.tag }
    op := field b 3 1, idx := field b 0xA 2, sub := field b 0xC 1, off := field b 0x10 4
    all := bit flags 0, last := bit flags 1, payload := slice b 0x14 (field b 0xE 2)
    proto := decide (field b 2 1 ≠ 1) || decide (2 ^ 14 ≤ field b 4 2) || decide (2 ^ 14 ≤ field b 6 2) || decide (4 ≤ flags) }

/-- Whether a request to node 0 is one that the device executes (R444). -/
def groupRequest (s : State) (r : DReq) : Bool :=
  !protoBad r && decide (r.op = 2) && !r.all && (decide (r.key = Reg.TIME_COMMIT) || decide (r.key = Reg.RING_CMD))
    && match entryRow s r.idx r.sub with
      | .ok row => canWrite (row.acc r.q.cls)
      | .error _ => false

/-- A request to node 0: executed without an answer, or discarded and counted. -/
def serveGroup (r : DReq) (s : State) : State :=
  if groupRequest s r then leaveSafe ((handle r s).2.bump (Reg.REQUESTS r.q.cls)) else s.bump Reg.BROADCAST_DROP

/-- A Diale frame arrives on a carrier. -/
def dialeReceive (c : Carrier) (b : Bytes) (s : State) : State :=
  if !portLive s c.port.val then s
  else if c.port = 2 ∧ !s.sys.depotEn then s.bump Reg.M_DISCARDED
  else if frameBad s c b then s.bump Reg.DISCARDED
  else if field b 4 2 % 2 ^ 14 = 0 then serveGroup (requestOf c b) s
  else serve (requestOf c b) [] s

/-- DIALE_FRAME_RECEIVE (R446): on CAN, only frames of KIND 0b110 are requests. -/
def execDialeFrameReceive (c : Carrier) (bytes : Bytes) (s : State) : Host.Outcome State Fault Refusal :=
  let can := decide (3 ≤ c.port.val)
  let s1 := if can ∧ canUp s (c.port.val - 3) ∧ working s then s.bump (Reg.CAN_RX_FRAMES (c.port.val - 3)) else s
  .next (if can ∧ bitsOf c.canId.toNat 28 26 ≠ 6 then s1 else dialeReceive c bytes s1)

/-! ## The general operations as commands -/

/-- READ (R448, R449, R459). -/
def execRead (q : Req) (idx : BitVec 16) (sub : BitVec 8) (all : Bool) (s : State) : Host.Outcome State Fault Refusal :=
  .next (serve { q := q, op := 1, idx := idx.toNat, sub := sub.toNat, all := all } [] s)

/-- WRITE (R448, R459). -/
def execWrite (q : Req) (idx : BitVec 16) (sub : BitVec 8) (all : Bool) (payload : Bytes) (s : State) : Host.Outcome State Fault Refusal :=
  .next (serve { q := q, op := 2, idx := idx.toNat, sub := sub.toNat, all := all, payload := payload } [] s)

/-- SEGMENTED_READ (R450). -/
def execSegmentedRead (q : Req) (idx : BitVec 16) (sub : BitVec 8) (off : BitVec 32) (s : State) : Host.Outcome State Fault Refusal :=
  .next (serve { q := q, op := 3, idx := idx.toNat, sub := sub.toNat, off := off.toNat } [] s)

/-- SEGMENTED_WRITE (R451). -/
def execSegmentedWrite (q : Req) (idx : BitVec 16) (sub : BitVec 8) (off : BitVec 32) (last : Bool) (payload : Bytes) (s : State) :
    Host.Outcome State Fault Refusal :=
  .next (serve { q := q, op := 4, idx := idx.toNat, sub := sub.toNat, off := off.toNat, last := last, payload := payload } [] s)

/-- CANCEL (R452). -/
def execCancel (q : Req) (idx : BitVec 16) (sub : BitVec 8) (s : State) : Host.Outcome State Fault Refusal :=
  .next (serve { q := q, op := 5, idx := idx.toNat, sub := sub.toNat } [] s)

/-- TRANSFER_TIMEOUT (R452): transfer `n` of the open ones has had no segment for 1,000 ms of T3. -/
def execTransferTimeout (n : Nat) (s : State) : Host.Outcome State Fault Refusal :=
  .next (match s.diale.opened[n]? with
    | some t =>
      if t.lastT3 + 1000000000 ≤ s.t3 then
        freeReserved t.src t.key (({ s with diale := { s.diale with
          opened := s.diale.opened.eraseIdx n, timedOut := s.diale.timedOut ++ [(t.src, t.key)] } }).bump Reg.TIMEOUTS)
      else s
    | none => s)

/-! ## Requests to one entry -/

/-- The write of a number to an entry. -/
def numWrite (q : Req) (k : Key) (bytes : Nat) (v : Nat) : DReq :=
  { q := q, op := 2, idx := k / 256, sub := k % 256, payload := leBytes bytes v }

/-- The complete write of a value: one write, or as many segments as its carrier needs. -/
def wholeWrite (q : Req) (k : Key) (b : Bytes) : DReq :=
  let long := decide (q.limit < b.length)
  { q := q, op := if long then 4 else 2, idx := k / 256, sub := k % 256, whole := true, last := long, payload := b
    off := if long then (b.length - 1) / q.limit * q.limit else 0 }

/-- PACKAGE_WRITE (R139, R146, R148, R237). -/
def execPackageWrite (q : Req) (g : Fin 64) (image : Bytes) (s : State) : Host.Outcome State Fault Refusal :=
  .next (serve (wholeWrite q (Reg.PACKAGE g.val) image) [] s)

/-- ACTIVATE (R140). -/
def execActivate (q : Req) (g : Fin 64) (s : State) : Host.Outcome State Fault Refusal :=
  .next (serve (numWrite q (Reg.GRAPH_CMD g.val) 1 1) [] s)

/-- DEACTIVATE (R145, R147). -/
def execDeactivate (q : Req) (g : Fin 64) (s : State) : Host.Outcome State Fault Refusal :=
  .next (serve (numWrite q (Reg.GRAPH_CMD g.val) 1 2) [] s)

/-- UNLOAD (R146). -/
def execUnload (q : Req) (g : Fin 64) (s : State) : Host.Outcome State Fault Refusal :=
  .next (serve (numWrite q (Reg.GRAPH_CMD g.val) 1 3) [] s)

/-- PENDING_CLEAR (R428, R430). -/
def execPendingClear (q : Req) (word : Fin 2) (value : BitVec 64) (raised : List Nat) (s : State) : Host.Outcome State Fault Refusal :=
  .next (serve (numWrite q (Reg.PENDING word.val) 8 value.toNat) raised s)

/-- LATCH_CLEAR (R429, R430). -/
def execLatchClear (q : Req) (value : BitVec 8) (raised : List Nat) (s : State) : Host.Outcome State Fault Refusal :=
  .next (serve (numWrite q Reg.LATCH_CLEAR 1 value.toNat) raised s)

/-- REACTION_WRITE (R423). -/
def execReactionWrite (q : Req) (source : BitVec 8) (value : BitVec 8) (s : State) : Host.Outcome State Fault Refusal :=
  .next (serve (numWrite q (0x500200 + source.toNat) 1 value.toNat) [] s)

/-- TEST_PACKAGE_WRITE (R394). -/
def execTestPackageWrite (q : Req) (image : Bytes) (s : State) : Host.Outcome State Fault Refusal :=
  .next (serve (wholeWrite q Reg.TEST_PACKAGE image) [] s)

/-- PORT_ENABLE (R262, R277). -/
def execPortEnable (q : Req) (p : Fin 24) (s : State) : Host.Outcome State Fault Refusal :=
  .next (serve (numWrite q (Reg.CAM_ENABLE p.val) 1 1) [] s)

/-- PORT_DISABLE (R262). -/
def execPortDisable (q : Req) (p : Fin 24) (s : State) : Host.Outcome State Fault Refusal :=
  .next (serve (numWrite q (Reg.CAM_ENABLE p.val) 1 0) [] s)

/-- PORT_GEAR_WRITE (R262). -/
def execPortGearWrite (q : Req) (p : Fin 24) (value : BitVec 8) (s : State) : Host.Outcome State Fault Refusal :=
  .next (serve (numWrite q (Reg.CAM_GEAR p.val) 1 value.toNat) [] s)

/-- PORT_RATE_WRITE (R277, R289). -/
def execPortRateWrite (q : Req) (p : Fin 24) (sub : BitVec 8) (value : Bytes) (s : State) : Host.Outcome State Fault Refusal :=
  .next (serve (wholeWrite q ((0x2100 + p.val) * 256 + sub.toNat) value) [] s)

/-- PORT_BIND (R288). -/
def execPortBind (q : Req) (ctx : Fin 36) (value : BitVec 8) (s : State) : Host.Outcome State Fault Refusal :=
  .next (serve (numWrite q (Reg.CTX_PORT ctx.val) 1 value.toNat) [] s)

/-- I2C_REQ (R279). -/
def execI2cReq (q : Req) (p : Fin 24) (bytes : Bytes) (s : State) : Host.Outcome State Fault Refusal :=
  .next (serve (wholeWrite q (Reg.CAM_I2C_REQ p.val) bytes) [] s)

/-- PARAM_HOLD_WRITE (R304). -/
def execParamHoldWrite (q : Req) (ctx : Fin 36) (value : BitVec 8) (s : State) : Host.Outcome State Fault Refusal :=
  .next (serve (numWrite q (Reg.CTX_PARAM_HOLD ctx.val) 1 value.toNat) [] s)

/-- RING_FREEZE (R256, R257). -/
def execRingFreeze (q : Req) (s : State) : Host.Outcome State Fault Refusal := .next (serve (numWrite q Reg.RING_CMD 1 1) [] s)

/-- RING_RELEASE (R257). -/
def execRingRelease (q : Req) (s : State) : Host.Outcome State Fault Refusal := .next (serve (numWrite q Reg.RING_CMD 1 2) [] s)

/-- Segment `i` of a readout of RING_DATA; each segment is a request of its own, with its own TXN. -/
def ringSegment (q : Req) (i : Nat) : DReq :=
  { q := { q with txn := q.txn + BitVec.ofNat 16 i }, op := 3, idx := 0x4024, sub := 1, off := i * q.limit }

/-- Whether the first segment of a readout is served. -/
def ringReadable (s : State) (q : Req) : Bool :=
  portLive s q.port.val && (decide (q.port ≠ 2) || s.sys.depotEn) && (keptFor s (ringSegment q 0)).isNone
    && match (handle (ringSegment q 0) s).1 with
      | .ok _ => true
      | .error _ => false

/-- RING_DATA_READ (R259): the 65,536 bytes are read in the segments that the carrier needs. -/
def execRingDataRead (q : Req) (s : State) : Host.Outcome State Fault Refusal :=
  let n := if ringReadable s q then ceilDiv 65536 q.limit else 1
  .next (forEach (List.range n) (fun i s => serve (ringSegment q i) [] s) s)

/-- RING_CURSOR_WRITE (R259). -/
def execRingCursorWrite (q : Req) (value : BitVec 64) (s : State) : Host.Outcome State Fault Refusal :=
  .next (serve (numWrite q Reg.RING_CURSOR 8 value.toNat) [] s)

/-- RING_SIZE_WRITE (R250). -/
def execRingSizeWrite (q : Req) (value : BitVec 16) (s : State) : Host.Outcome State Fault Refusal :=
  .next (serve (numWrite q Reg.RING_SIZE 2 value.toNat) [] s)

/-- TIME_COMMIT (R327). -/
def execTimeCommit (q : Req) (value : BitVec 8) (s : State) : Host.Outcome State Fault Refusal :=
  .next (serve (numWrite q Reg.TIME_COMMIT 1 value.toNat) [] s)

/-- STAGED_TIME_WRITE (R317 to R328). -/
def execStagedTimeWrite (q : Req) (idx : BitVec 16) (sub : BitVec 8) (value : Bytes) (s : State) : Host.Outcome State Fault Refusal :=
  .next (serve (wholeWrite q (idx.toNat * 256 + sub.toNat) value) [] s)

/-- FRER_WRITE (R491). -/
def execFrerWrite (q : Req) (n : Fin 32) (sub : BitVec 8) (value : Bytes) (s : State) : Host.Outcome State Fault Refusal :=
  .next (serve (wholeWrite q ((0x6900 + n.val) * 256 + sub.toNat) value) [] s)

/-- DSP_ENABLE (R497, R513). -/
def execDspEnable (q : Req) (d : Fin 4) (value : BitVec 8) (s : State) : Host.Outcome State Fault Refusal :=
  .next (serve (numWrite q (Reg.DSP_ENABLE d.val) 1 value.toNat) [] s)

/-- DSP_TIMING_WRITE (R497). -/
def execDspTimingWrite (q : Req) (d : Fin 4) (sub : BitVec 8) (value : Bytes) (s : State) : Host.Outcome State Fault Refusal :=
  .next (serve (wholeWrite q ((0x4800 + d.val) * 256 + sub.toNat) value) [] s)

/-- PLANE_SOURCE_WRITE (R501, R509). -/
def execPlaneSourceWrite (q : Req) (d : Fin 4) (p : Fin 4) (value : BitVec 8) (s : State) : Host.Outcome State Fault Refusal :=
  .next (serve (numWrite q (Reg.PLN_SOURCE (4 * d.val + p.val)) 1 value.toNat) [] s)

/-- RESET_CMD (R472, R514): the response is sent first. -/
def execResetCmd (q : Req) (value : BitVec 16) (b : BootInputs) (s : State) : Host.Outcome State Fault Refusal :=
  .next (serve { numWrite q Reg.RESET_CMD 2 value.toNat with boot := some b } [] s)

/-- FW_IMAGE_WRITE (R528). -/
def execFwImageWrite (q : Req) (image : Bytes) (s : State) : Host.Outcome State Fault Refusal :=
  .next (serve (wholeWrite q Reg.FW_IMAGE image) [] s)

/-- CUSTOMER_KEY_WRITE (R532). -/
def execCustomerKeyWrite (q : Req) (value : Bytes) (s : State) : Host.Outcome State Fault Refusal :=
  .next (serve (wholeWrite q Reg.CUSTOMER_KEY value) [] s)

/-- ATTEST_NONCE_WRITE (R534). -/
def execAttestNonceWrite (q : Req) (value : Bytes) (s : State) : Host.Outcome State Fault Refusal :=
  .next (serve (wholeWrite q Reg.ATTEST_NONCE value) [] s)

/-- STANDBY_CMD (R535). -/
def execStandbyCmd (q : Req) (value : BitVec 8) (s : State) : Host.Outcome State Fault Refusal :=
  .next (serve (numWrite q Reg.STANDBY_CMD 1 value.toNat) [] s)

/-! ## Received Ethernet frames (R447, R474, R481, R531) -/

/-- The link-local IPv6 address of a MAC address, on which the ROM service answers (R531). -/
def linkLocal (mac : Nat) : Nat :=
  0xFE80 * 2 ^ 112 + ((mac / 2 ^ 24) ^^^ 0x020000) * 2 ^ 40 + 0xFFFE * 2 ^ 24 + mac % 2 ^ 24

/-- ETH-M's IPv4 address under the ROM service: from an intact persistent copy, else 169.254.88.40. -/
def romIpv4 (s : State) : Nat :=
  match newestStore s with
  | some c => (sfind (Reg.NET_IPV4 2) c.vals).getD 0xA9FE5828
  | none => 0xA9FE5828

/-- Whether a destination address is the port's own. -/
def addressed (s : State) (e : Nat) (v6 : Bool) (ip : Nat) : Bool :=
  if rom s then (if v6 then decide (ip = linkLocal (ownMac s e)) else decide (ip = romIpv4 s)) else ownIp s e v6 ip

/-- Whether something owns a UDP destination port of an Ethernet port (R466). -/
def udpHeld (s : State) (e port : Nat) : Bool := (udpOwners s).any fun x => decide (x.1 = e) && decide (x.2.1 = port)

/-- Dispatch of a received frame by its body. -/
def dispatchEth (f : EthFrame) (s : State) : State :=
  let e := f.port.val
  match f.body with
  | .udp srcIp dstIp v6 frag srcPort dstPort data =>
    if frag ∨ !udpHeld s e dstPort.toNat then discardRx e s
    else if dstPort.toNat = s.r Reg.UDP_PORT then
      (if addressed s e v6 dstIp then
        dialeReceive { port := ⟨e, by omega⟩, ip := srcIp, udp := srcPort, mac := f.src, tag := f.tag } data s
      else s)
    else if e < 2 then pclReceive e dstPort.toNat data s else s
  | .arp target => answerArp e f.src.toNat target s
  | .neighbour target => answerNeighbour e f.src.toNat target s
  | .echo dstIp v6 data => answerEcho e f.src.toNat dstIp v6 data s
  | .gptp => s
  | .other => s

/-- ETH_FRAME_RECEIVE (R474, R481). -/
def execEthFrameReceive (f : EthFrame) (s : State) : Host.Outcome State Fault Refusal :=
  let e := f.port.val
  .next (if !ethUp s e ∨ !portPowered s e then s
  else
    let (pass, s1) := qciPass f (s.bump (Reg.NET_RX_FRAMES e))
    if !pass then s1.bump (Reg.TSN_QCI_DROPS e)
    else if 1528 < f.size then discardRx e s1
    else dispatchEth f s1)

end Sys2Proof.Machine
end

