-- ==== Sys2Proof/Machine/Dispatch.lean ====
section
/-! DEFINITION. One arm per command: a direct call of its meaning. -/

namespace Sys2Proof.Machine

open Sys2Proof

/-- What a command does to everything but the queue. -/
def exec (i : Instr) (s : State) : Host.Outcome State Fault Refusal :=
  match i with
  | .dialeFrameReceive c bytes => Sys2Proof.Machine.execDialeFrameReceive c bytes s
  | .read q idx sub all => Sys2Proof.Machine.execRead q idx sub all s
  | .write q idx sub all payload => Sys2Proof.Machine.execWrite q idx sub all payload s
  | .segmentedRead q idx sub off => Sys2Proof.Machine.execSegmentedRead q idx sub off s
  | .segmentedWrite q idx sub off last payload => Sys2Proof.Machine.execSegmentedWrite q idx sub off last payload s
  | .cancel q idx sub => Sys2Proof.Machine.execCancel q idx sub s
  | .transferTimeout n => Sys2Proof.Machine.execTransferTimeout n s
  | .packageWrite q g image => Sys2Proof.Machine.execPackageWrite q g image s
  | .activate q g => Sys2Proof.Machine.execActivate q g s
  | .deactivate q g => Sys2Proof.Machine.execDeactivate q g s
  | .unload q g => Sys2Proof.Machine.execUnload q g s
  | .graphSetupComplete g => Sys2Proof.Machine.execGraphSetupComplete g s
  | .deactivationComplete g => Sys2Proof.Machine.execDeactivationComplete g s
  | .windowCloseAck b w => Sys2Proof.Machine.execWindowCloseAck b w s
  | .tileFetch u g station => Sys2Proof.Machine.execTileFetch u g station s
  | .expandTile m u t flips => Sys2Proof.Machine.execExpandTile m u t flips s
  | .verificationTile m t flips => Sys2Proof.Machine.execVerificationTile m t flips s
  | .accumulate b flips => Sys2Proof.Machine.execAccumulate b flips s
  | .accumulatorDrain b row entry => Sys2Proof.Machine.execAccumulatorDrain b row entry s
  | .tileComplete u t => Sys2Proof.Machine.execTileComplete u t s
  | .muleTransfer m t move flips => Sys2Proof.Machine.execMuleTransfer m t move flips s
  | .scratchpadRead b row word use err => Sys2Proof.Machine.execScratchpadRead b row word use err s
  | .regionCacheRead r g addr sectors unit err tag => Sys2Proof.Machine.execRegionCacheRead r g addr sectors unit err tag s
  | .dramRead addr g cls unit err => Sys2Proof.Machine.execDramRead addr g cls unit err s
  | .dramPartialWrite addr bytes g cls err => Sys2Proof.Machine.execDramPartialWrite addr bytes g cls err s
  | .onchipMemoryRead w err => Sys2Proof.Machine.execOnchipMemoryRead w err s
  | .dramWriteInvalidate addr bytes cls => Sys2Proof.Machine.execDramWriteInvalidate addr bytes cls s
  | .windowWrite b w g station place data => Sys2Proof.Machine.execWindowWrite b w g station place data s
  | .handshakeStall p waited => Sys2Proof.Machine.execHandshakeStall p waited s
  | .bridgeOverflow d port => Sys2Proof.Machine.execBridgeOverflow d port s
  | .paceGateWindow m beats => Sys2Proof.Machine.execPaceGateWindow m beats s
  | .pairCompare u => Sys2Proof.Machine.execPairCompare u s
  | .blockResetComplete u => Sys2Proof.Machine.execBlockResetComplete u s
  | .gooseCompare r flips => Sys2Proof.Machine.execGooseCompare r flips s
  | .taskBudgetExpiry m frame => Sys2Proof.Machine.execTaskBudgetExpiry m frame s
  | .taskAliveExpiry m => Sys2Proof.Machine.execTaskAliveExpiry m s
  | .gateRelease g station frame => Sys2Proof.Machine.execGateRelease g station frame s
  | .gateWithholdTimeout g station frame => Sys2Proof.Machine.execGateWithholdTimeout g station frame s
  | .recordTxStart n => Sys2Proof.Machine.execRecordTxStart n s
  | .ctrlWindowCompare p sigA sigB stores => Sys2Proof.Machine.execCtrlWindowCompare p sigA sigB stores s
  | .vote t0 t1 t2 circuitsDiffer => Sys2Proof.Machine.execVote t0 t1 t2 circuitsDiffer s
  | .dissentTimeout core => Sys2Proof.Machine.execDissentTimeout core s
  | .resyncComplete => Sys2Proof.Machine.execResyncComplete s
  | .healthFuseWriteDone => Sys2Proof.Machine.execHealthFuseWriteDone s
  | .faultReset b => Sys2Proof.Machine.execFaultReset b s
  | .pendingClear q word value raised => Sys2Proof.Machine.execPendingClear q word value raised s
  | .latchClear q value raised => Sys2Proof.Machine.execLatchClear q value raised s
  | .reactionWrite q source value => Sys2Proof.Machine.execReactionWrite q source value s
  | .suspectTimerExpiry u => Sys2Proof.Machine.execSuspectTimerExpiry u s
  | .iftDue u => Sys2Proof.Machine.execIftDue u s
  | .iftOverdue u => Sys2Proof.Machine.execIftOverdue u s
  | .iftSlotStart u => Sys2Proof.Machine.execIftSlotStart u s
  | .iftSlotEnd u signatures ownChecksFailed => Sys2Proof.Machine.execIftSlotEnd u signatures ownChecksFailed s
  | .gooseTest r signatures => Sys2Proof.Machine.execGooseTest r signatures s
  | .testPackageWrite q image => Sys2Proof.Machine.execTestPackageWrite q image s
  | .goldenSliceComplete p pipeFlips sliceWord => Sys2Proof.Machine.execGoldenSliceComplete p pipeFlips sliceWord s
  | .portEnable q p => Sys2Proof.Machine.execPortEnable q p s
  | .portDisable q p => Sys2Proof.Machine.execPortDisable q p s
  | .portGearWrite q p value => Sys2Proof.Machine.execPortGearWrite q p value s
  | .portRateWrite q p sub value => Sys2Proof.Machine.execPortRateWrite q p sub value s
  | .portBind q ctx value => Sys2Proof.Machine.execPortBind q ctx value s
  | .linkTrainingComplete p fsyncLatency => Sys2Proof.Machine.execLinkTrainingComplete p fsyncLatency s
  | .aphyLinkLoss p => Sys2Proof.Machine.execAphyLinkLoss p s
  | .aphyRetransmission p => Sys2Proof.Machine.execAphyRetransmission p s
  | .aphyPacketLost p => Sys2Proof.Machine.execAphyPacketLost p s
  | .frameStart p hdr => Sys2Proof.Machine.execFrameStart p hdr s
  | .frameEnd p hdr => Sys2Proof.Machine.execFrameEnd p hdr s
  | .pixelLine p bytes crcOk hdr => Sys2Proof.Machine.execPixelLine p bytes crcOk hdr s
  | .embeddedLine p bytes crcOk hdr => Sys2Proof.Machine.execEmbeddedLine p bytes crcOk hdr s
  | .headerUncorrectable p couldBeLong => Sys2Proof.Machine.execHeaderUncorrectable p couldBeLong s
  | .otherPacket p hdr crcOk => Sys2Proof.Machine.execOtherPacket p hdr crcOk s
  | .lineTimeout p => Sys2Proof.Machine.execLineTimeout p s
  | .i2cReq q p bytes => Sys2Proof.Machine.execI2cReq q p bytes s
  | .i2cDone p status data => Sys2Proof.Machine.execI2cDone p status data s
  | .pclPacket eth udp payload => Sys2Proof.Machine.execPclPacket eth udp payload s
  | .scanTimeout n => Sys2Proof.Machine.execScanTimeout n s
  | .ispLineProcess p memLane overflow => Sys2Proof.Machine.execIspLineProcess p memLane overflow s
  | .memoryLaneTakeFrame p => Sys2Proof.Machine.execMemoryLaneTakeFrame p s
  | .ispFrameDone p memLane => Sys2Proof.Machine.execIspFrameDone p memLane s
  | .paramHoldWrite q ctx value => Sys2Proof.Machine.execParamHoldWrite q ctx value s
  | .ringFreeze q => Sys2Proof.Machine.execRingFreeze q s
  | .ringRelease q => Sys2Proof.Machine.execRingRelease q s
  | .ringDataRead q => Sys2Proof.Machine.execRingDataRead q s
  | .ringCursorWrite q value => Sys2Proof.Machine.execRingCursorWrite q value s
  | .ringSizeWrite q value => Sys2Proof.Machine.execRingSizeWrite q value s
  | .dramScrub burst err => Sys2Proof.Machine.execDramScrub burst err s
  | .onchipScrub w err => Sys2Proof.Machine.execOnchipScrub w err s
  | .dramRefresh channel bank => Sys2Proof.Machine.execDramRefresh channel bank s
  | .timeCommit q value => Sys2Proof.Machine.execTimeCommit q value s
  | .timeCommitApply => Sys2Proof.Machine.execTimeCommitApply s
  | .stagedTimeWrite q idx sub value => Sys2Proof.Machine.execStagedTimeWrite q idx sub value s
  | .triggerFire t => Sys2Proof.Machine.execTriggerFire t s
  | .ppsEdge falling => Sys2Proof.Machine.execPpsEdge falling s
  | .ppsMissedSecond => Sys2Proof.Machine.execPpsMissedSecond s
  | .gptpSyncReceive eth gmTime => Sys2Proof.Machine.execGptpSyncReceive eth gmTime s
  | .gptpPdelayExchange eth completed delay => Sys2Proof.Machine.execGptpPdelayExchange eth completed delay s
  | .gptpPdelayTransmit eth => Sys2Proof.Machine.execGptpPdelayTransmit eth s
  | .gptpSyncTransmit eth => Sys2Proof.Machine.execGptpSyncTransmit eth s
  | .gptpAnnounceReceive eth => Sys2Proof.Machine.execGptpAnnounceReceive eth s
  | .gptpSyncTimeout eth => Sys2Proof.Machine.execGptpSyncTimeout eth s
  | .captureEvent source => Sys2Proof.Machine.execCaptureEvent source s
  | .ethFrameReceive f => Sys2Proof.Machine.execEthFrameReceive f s
  | .arpRequest eth target mac senderIp => Sys2Proof.Machine.execArpRequest eth target mac senderIp s
  | .neighbourSolicitation eth target mac senderIp => Sys2Proof.Machine.execNeighbourSolicitation eth target mac senderIp s
  | .echoRequest eth dstIp v6 mac senderIp data => Sys2Proof.Machine.execEchoRequest eth dstIp v6 mac senderIp data s
  | .ethLinkLoss eth => Sys2Proof.Machine.execEthLinkLoss eth s
  | .ethLinkUp eth => Sys2Proof.Machine.execEthLinkUp eth s
  | .canBusOff c => Sys2Proof.Machine.execCanBusOff c s
  | .canBusRecovery c => Sys2Proof.Machine.execCanBusRecovery c s
  | .lwTemplateRebuild => Sys2Proof.Machine.execLwTemplateRebuild s
  | .frerWrite q n sub value => Sys2Proof.Machine.execFrerWrite q n sub value s
  | .dspEnable q d value => Sys2Proof.Machine.execDspEnable q d value s
  | .dspTimingWrite q d sub value => Sys2Proof.Machine.execDspTimingWrite q d sub value s
  | .dspFrameStart d => Sys2Proof.Machine.execDspFrameStart d s
  | .dspLineFetch d => Sys2Proof.Machine.execDspLineFetch d s
  | .dspLineScan d => Sys2Proof.Machine.execDspLineScan d s
  | .dspFrameEnd d => Sys2Proof.Machine.execDspFrameEnd d s
  | .dspLinkLoss d => Sys2Proof.Machine.execDspLinkLoss d s
  | .planeSourceWrite q d p value => Sys2Proof.Machine.execPlaneSourceWrite q d p value s
  | .coldBoot b => Sys2Proof.Machine.execColdBoot b s
  | .pinReset b => Sys2Proof.Machine.execPinReset b s
  | .resetCmd q value b => Sys2Proof.Machine.execResetCmd q value b s
  | .ready => Sys2Proof.Machine.execReady s
  | .fwImageWrite q image => Sys2Proof.Machine.execFwImageWrite q image s
  | .fwFlashWriteDone ok => Sys2Proof.Machine.execFwFlashWriteDone ok s
  | .customerKeyWrite q value => Sys2Proof.Machine.execCustomerKeyWrite q value s
  | .attestNonceWrite q value => Sys2Proof.Machine.execAttestNonceWrite q value s
  | .attestReportReady => Sys2Proof.Machine.execAttestReportReady s
  | .standbyCmd q value => Sys2Proof.Machine.execStandbyCmd q value s
  | .standbyEntryComplete => Sys2Proof.Machine.execStandbyEntryComplete s
  | .wakeEvent source b => Sys2Proof.Machine.execWakeEvent source b s
  | .avsLoopStep avsOk volts amps => Sys2Proof.Machine.execAvsLoopStep avsOk volts amps s
  | .temperatureRead celsius => Sys2Proof.Machine.execTemperatureRead celsius s
  | .vectorLaneOperation v op int fmt a b c flips => Sys2Proof.Machine.execVectorLaneOperation v op int fmt a b c flips s
  | .resetNDeasserted => Sys2Proof.Machine.execResetNDeasserted s
  | .powerDown => Sys2Proof.Machine.execPowerDown s
  | .dspLinkUp d => Sys2Proof.Machine.execDspLinkUp d s
  | .keyValidFuseBlown => Sys2Proof.Machine.execKeyValidFuseBlown s

end Sys2Proof.Machine
end

