-- ==== Sys2Proof/Safety.lean ====
section
/-! DEFINITION. The terms that claims use: well-formed stores, fuses that only blow, what a step changes and leaves alone,
when a request is executed and how it is answered. -/

namespace Sys2Proof.Machine

open Sys2Proof

/-! ## Invariants -/

/-- The stores that are compared as data are in their one canonical form: DRAM, the dictionary values in force and the
staged ones. -/
structure State.canonical (s : State) : Prop where
  mem : Memory.wf s.mem
  regs : swf dictDefault s.regs = true
  staged : sasc s.staged = true

/-- A key bank after some commands: what is blown stays blown. -/
def KeyBank.le (a b : KeyBank) : Prop := (a.used → b.used ∧ b.key = a.key) ∧ (a.valid → b.valid)

/-- The fuses after some commands: a fuse that is blown stays blown, and what the factory fused stays. -/
structure Fuses.le (a b : Fuses) : Prop where
  factory : (b.orderingLE, b.serial, b.dieStep, b.repair, b.fwKeyHash, b.mac, b.identityKey)
    = (a.orderingLE, a.serial, a.dieStep, a.repair, a.fwKeyHash, a.mac, a.identityKey)
  lifecycle : a.lifecycle ≤ b.lifecycle
  secFuses : a.secFuses ≤ b.secFuses
  revoked : ∀ k, a.keyRevoked.testBit k → b.keyRevoked.testBit k
  bank0 : a.bank0.le b.bank0
  bank1 : a.bank1.le b.bank1
  health : a.health2 → b.health2 ∧ b.drainCause = a.drainCause

/-! ## What a command changes

A frame reads `t = s.withRegs t.regs`: `t` is `s` with other dictionary values, and nothing else. -/

/-- The same state with other dictionary values in force. -/
def State.withRegs (s : State) (m : SMap Nat) : State := { s with regs := m }

/-- The same state with another Rooster. -/
def State.withRooster (s : State) (x : Rooster) : State := { s with rooster := x }

/-- `t` is `u` in everything but the dictionary values in force, where it has those of `l` and else those of `s`. -/
structure Becomes (s t u : State) (l : List (Key × Nat)) : Prop where
  values : ∀ p ∈ l, t.r p.1 = p.2
  others : ∀ k, (∀ p ∈ l, k ≠ p.1) → t.r k = s.r k
  rest : t = u.withRegs t.regs

/-- A counter's value one higher: it saturates at its type's largest value. -/
def State.oneMore (s : State) (k : Key) : Nat := min (dictMax k) (s.r k + 1)

/-- The DRAM commands that name an address outside the device addresses (R237). -/
def outsideDram (s : State) : Instr → Prop
  | .dramRead addr _ _ _ _ => s.capacity ≤ addr
  | .dramPartialWrite addr _ _ _ _ => s.capacity ≤ addr
  | .regionCacheRead _ _ addr _ _ _ _ => s.capacity ≤ addr
  | .dramWriteInvalidate addr bytes _ => s.capacity < addr + bytes.length
  | .dramScrub burst _ => s.capacity ≤ 32 * burst
  | _ => False

/-- A unit may fetch from a station of a graph (R130, R153, R375): the graph runs, the station may use the unit, every unit of its
group can take the tiles, and the copies of a pair have come as far. -/
structure Fetches (s : State) (u : UnitRef) (g : Fin 64) (station : Nat) (p : Package) (st : Station) : Prop where
  pkg : (s.slot g.val).pkg = some p
  here : stationOf s g.val station = some st
  active : within (gstate s g.val) 3 4 = true
  running : s.drained = false
  uses : st.uses u.id = true
  room : ∀ v ∈ fetchGroup st u.id, canFetch s st v = true
  level : ∀ v ∈ fetchGroup st u.id, pairLevel s st v = true

/-! ## Requests -/

/-- A request reaches the dictionary and is new (R447, R454, R475). -/
structure Accepts (s : State) (r : DReq) : Prop where
  live : portLive s r.q.port.val = true
  depot : r.q.port = 2 → s.sys.depotEn = true
  new : keptFor s r = none

/-- What a complete write meets: a transfer of its own that it replaces is closed, and what it has reserved is
free (R237). -/
def State.forWhole (s : State) (r : DReq) : State := if r.op = 4 then closeTransfer r s else s

/-- A write of one value that its class may make and that no check refuses (R456, R465). -/
structure Permits (s : State) (r : DReq) (row : DictRow) : Prop where
  entry : entryRow s r.idx r.sub = .ok row
  access : canWrite (row.acc r.q.cls) = true
  checks : writeRefusal (s.forWhole r) row r.key r.payload false = none

/-- A complete write of one value that is served: it fits into one frame, or the entry is large enough and a transfer is free
(R449, R451, R452). -/
structure PermitsWhole (s : State) (r : DReq) (row : DictRow) : Prop extends Permits s r row where
  fits : r.payload.length ≤ r.q.limit ∨ (r.payload.length ≤ maxSize row ∧ transfersFull s r = false)

/-- The answer to a complete write: one write response, or that to the last segment. -/
def wholeAnswer (r : DReq) : Answer := .ok ([], decide (r.op = 4))

/-- The state after a request: `t` is what its effect left, `s` the state it met. The device leaves the safe state if nothing
holds it there any more, the request is counted and its response is kept and sent (R341, R454, R457). -/
def answered (r : DReq) (a : Answer) (s t : State) : State :=
  sendResponse r.q (responseFrame s r a) (keep r (responseFrame s r a) (countRequest r a (leaveSafe t)))

end Sys2Proof.Machine
end

