-- ==== Sys2Proof/Certificates/Slice0/Obligations.lean ====
section
/-! DEFINITION. The statements for the provers. A clause that rests on a choice of the model names its log entry. -/

open Sys2Proof Sys2Proof.Machine

/-! ## The queue, and what no command takes back -/

/-- Tier 1. The model's own rule for its queue (notes/assumptions/7.md): a step takes the front command and runs it
with the rest of the queue. -/
def Obligations.StepRunsFrontCommand : Prop :=
  ∀ (c : Instr) (rest : List Instr) (s : State), step { s with pending := c :: rest } = exec c { s with pending := rest }

/-- Tier 1. With no command waiting a step is one cycle of Rooster (R316; that an idle step is a cycle is the model's
choice, notes/assumptions/7.md): the time bases may move, and nothing else does; a base that follows no other and
whose rate is not adjusted moves by 2 ns. -/
def Obligations.IdleStepOnlyMovesTime : Prop :=
  ∀ s : State, s.pending = [] → ∃ t, step s = .next t ∧ t = s.withRooster t.rooster
    ∧ (s.sys.phase = .off ∨ s.sys.phase = .heldInReset → t = s)
    ∧ (s.sys.phase ≠ .off → s.sys.phase ≠ .heldInReset → ∀ n, n < 8 → followSource s n = none →
        s.r (Reg.T_RATE_ADJ n) = 0 → sget dflt0 s.rooster.frac n < 2 ^ 32 → t.t n = (s.t n + 2) % 2 ^ 64)

/-- Tier 2. No command adds to, drops or reorders the commands that wait. What has left the device stays out: no step
takes back or changes anything it has sent, and no free value is drawn twice. -/
def Obligations.CommandsKeepTheQueueAndWhatWasSent : Prop :=
  (∀ (c : Instr) (s t : State), exec c s = .next t → t.pending = s.pending)
  ∧ (∀ s t : State, step s = .next t → s.wire <+: t.wire ∧ s.free ≤ t.free)

/-- Tier 2. Every command completes on every state, but for a DRAM access outside the device addresses 0 to the
capacity minus 1 (R237), which stops under its name and nothing else does. -/
def Obligations.OnlyOutsideDramStops : Prop :=
  ∀ (c : Instr) (s : State),
    (outsideDram s c → exec c s = .fault .dramAddress) ∧ (¬ outsideDram s c → ∃ t, exec c s = .next t)

/-- Tier 3. DRAM and the dictionary values keep their one canonical form: equal contents are equal data, in every
state that a step reaches from a state of that form, reset or not. -/
def Obligations.StepKeepsCanonicalForm : Prop :=
  ∀ s t : State, s.canonical → step s = .next t → t.canonical

/-- Tier 3. Fuses only blow (R439, R522, R527, R532): over any step of any state the lifecycle and the security fuses
only advance, a revoked key slot stays revoked, a used key bank keeps its key and its valid fuse, a blown health
record keeps its drain cause, and what the factory fused stays. -/
def Obligations.FusesOnlyBlow : Prop :=
  ∀ s t : State, step s = .next t → s.fuses.le t.fuses

/-- Tier 1. The form holds after reset. What the spec says of the device right after a cold reset: a boot is in
progress with ERR_N low (R432), no source is pending, latched or counted (R426, R428, R429), the safe state has not
been entered, no graph is loaded (R140), every camera port is disabled (R262), every stream without a port, the chip
is not drained (R433), no byte of DRAM is written. -/
def Obligations.ResetLeavesDefaults : Prop :=
  (State.reset.canonical)
  ∧ (State.reset.sys.phase = .booting ∧ State.reset.sys.errLow = true ∧ State.reset.drained = false ∧ State.reset.safe = false
       ∧ State.reset.r Reg.FIRST_SOURCE = 0 ∧ State.reset.r (Reg.PENDING 0) = 0 ∧ State.reset.r (Reg.ERR_HOLD 1) = 0
       ∧ State.reset.r (Reg.CAM_ENABLE 23) = 0 ∧ State.reset.r (Reg.GRAPH_STATE 63) = 0 ∧ State.reset.r (Reg.PLN_SOURCE 15) = 0xFF
       ∧ (∀ a, State.reset.memByte a = 0#8) ∧ State.reset.pending = [])

/-! ## Requests -/

/-- Tier 2. READ of one entry (R448, R449, R462): a request that reaches the dictionary, names an entry its class may
read and asks for a value that fits into a frame is answered with exactly the bytes of the value; reading changes
nothing but what counting it does, a rail reading apart, whose free values are drawn. READ
of a whole index (R459): the values that the class may read, in ascending order of subindex. -/
def Obligations.ReadAnswersTheValue : Prop :=
  (∀ (q : Req) (idx : BitVec 16) (sub : BitVec 8) (s : State) (row : DictRow),
       let r : DReq := { q := q, op := 1, idx := idx.toNat, sub := sub.toNat }
       let v := readValue s row idx.toNat sub.toNat
       Accepts s r → entryRow s idx.toNat sub.toNat = .ok row → canRead (row.acc q.cls) = true → v.length ≤ q.limit →
         readRefusal s r.key = none →
       exec (.read q idx sub false) s = .next (answered r (.ok (v, false)) s (noteRead r.key s))
         ∧ (idx.toNat ≠ 0x8031 → noteRead r.key s = s))
  ∧ (∀ (q : Req) (idx : BitVec 16) (b : Bytes) (s : State),
       let r : DReq := { q := q, op := 1, idx := idx.toNat, sub := 0, all := true }
       Accepts s r → readAll s idx.toNat q.cls = .ok b → b.length ≤ q.limit →
       exec (.read q idx 0 true) s = .next (answered r (.ok (b, false)) s (noteRead r.key s)))

/-- Tier 2. WRITE of one entry (R449, R451, R465): a value that its class may write and that no check refuses is
applied, and the write is answered with an empty payload. RESET_CMD, which acts after its response, has a statement of
its own. WRITE of a whole index (R459): every value is checked before any changes; then all are applied (the index of
RESET_CMD, whose write acts after its response, apart). -/
def Obligations.WriteAppliesTheValue : Prop :=
  (∀ (q : Req) (idx : BitVec 16) (sub : BitVec 8) (payload : Bytes) (s : State) (row : DictRow),
       let r : DReq := { q := q, op := 2, idx := idx.toNat, sub := sub.toNat, payload := payload }
       Accepts s r → payload.length ≤ q.limit → Permits s r row → r.key ≠ Reg.RESET_CMD →
       exec (.write q idx sub false payload) s = .next (answered r (.ok ([], false)) s (applyValue row r.key payload s)))
  ∧ (∀ (q : Req) (idx : BitVec 16) (payload : Bytes) (s : State),
       let r : DReq := { q := q, op := 2, idx := idx.toNat, sub := 0, all := true, payload := payload }
       Accepts s r → payload.length ≤ q.limit → allRefusal s idx.toNat q.cls payload = none → idx.toNat ≠ 0x1030 →
       exec (.write q idx 0 true payload) s = .next (answered r (.ok ([], false)) s (applyAll idx.toNat q.cls payload s)))

/-- Tier 2. A refused READ or WRITE (R449, R456, R459, R465) is answered with its abort code and has no other effect:
an entry that does not exist (codes 1 and 2), a class without access (3), a value that does not fit (4), a failed
check. -/
def Obligations.RefusedRequestsOnlyAbort : Prop :=
  ∀ (q : Req) (idx : BitVec 16) (sub : BitVec 8) (payload : Bytes) (s : State),
    let rd : DReq := { q := q, op := 1, idx := idx.toNat, sub := sub.toNat }
    let wr : DReq := { q := q, op := 2, idx := idx.toNat, sub := sub.toNat, payload := payload }
    (∀ c, Accepts s rd → entryRow s idx.toNat sub.toNat = .error c →
      exec (.read q idx sub false) s = .next (answered rd (.error c) s s))
    ∧ (∀ row, Accepts s rd → entryRow s idx.toNat sub.toNat = .ok row → canRead (row.acc q.cls) = false →
      exec (.read q idx sub false) s = .next (answered rd (.error 3) s s))
    ∧ (∀ c, Accepts s wr → payload.length ≤ q.limit → entryRow s idx.toNat sub.toNat = .error c →
      exec (.write q idx sub false payload) s = .next (answered wr (.error c) s s))
    ∧ (∀ row, Accepts s wr → payload.length ≤ q.limit → entryRow s idx.toNat sub.toNat = .ok row →
      canWrite (row.acc q.cls) = false → exec (.write q idx sub false payload) s = .next (answered wr (.error 3) s s))
    ∧ (∀ row c, Accepts s wr → payload.length ≤ q.limit → entryRow s idx.toNat sub.toNat = .ok row →
      canWrite (row.acc q.cls) = true → writeRefusal s row wr.key payload false = some c →
      exec (.write q idx sub false payload) s = .next (answered wr (.error c) s s))
    ∧ (Accepts s wr → q.limit < payload.length →
      exec (.write q idx sub false payload) s = .next (answered wr (.error 0xD) s s))

/-- Tier 2. What answering a request adds to its effect `t` (R448, R454, R457): unless the device now leaves the safe
state, one frame leaves on the request's port, that response is kept as the source's last one, and only the counters
of requests, aborts and sent frames change. -/
def Obligations.AnsweringOnlyCountsAndSends : Prop :=
  ∀ (r : DReq) (a : Answer) (s t : State), (t.safe = false ∨ errHeld t = true ∨ t.drained = true) →
    let u := answered r a s t
    (∃ o, u.wire = t.wire ++ [o])
    ∧ (u.diale.kept.find? fun x => x.answers r) = some ⟨r.q.source, r.idx, r.sub, r.op, r.q.txn.toNat, responseFrame s r a⟩
    ∧ (∀ k, k ≠ Reg.REQUESTS r.q.cls → k ≠ Reg.ABORTS r.q.cls → (∀ e, e < 3 → k ≠ Reg.NET_TX_FRAMES e) →
        (∀ c, c < 4 → k ≠ Reg.CAN_TX_FRAMES c) → u.r k = t.r k)
    ∧ u.r (Reg.REQUESTS r.q.cls) = t.oneMore (Reg.REQUESTS r.q.cls)
    ∧ { u with regs := t.regs, wire := t.wire, diale := t.diale } = t ∧ u.diale.opened = t.diale.opened

/-- Tier 2. A repeated request is not executed again (R454): the kept response goes out once more and its
source becomes the one that sent last, whatever the operation. Without DEPOT_EN a request on ETH-M gets no response and is counted in M_DISCARDED (R20, R457). -/
def Obligations.RepeatedAndDisabledRequestsAreNotExecuted : Prop :=
  (∀ (q : Req) (idx : BitVec 16) (sub : BitVec 8) (payload : Bytes) (x : Kept) (s : State),
       portLive s q.port.val = true → (q.port = 2 → s.sys.depotEn = true) →
       let rd : DReq := { q := q, op := 1, idx := idx.toNat, sub := sub.toNat }
       let wr : DReq := { q := q, op := 2, idx := idx.toNat, sub := sub.toNat, payload := payload }
       (keptFor s rd = some x → exec (.read q idx sub false) s = .next (sendResponse q x.response (keepAgain x s)))
       ∧ (keptFor s wr = some x → exec (.write q idx sub false payload) s = .next (sendResponse q x.response (keepAgain x s))))
  ∧ (∀ (q : Req) (idx : BitVec 16) (sub : BitVec 8) (payload : Bytes) (s : State),
       q.port = 2 → portLive s 2 = true → s.sys.depotEn = false →
       (∃ t, exec (.read q idx sub false) s = .next t ∧ Becomes s t s [(Reg.M_DISCARDED, s.oneMore Reg.M_DISCARDED)])
       ∧ (∃ t, exec (.write q idx sub false payload) s = .next t ∧ Becomes s t s [(Reg.M_DISCARDED, s.oneMore Reg.M_DISCARDED)]))

/-- Tier 2. SEGMENTED_READ (R450): segment 0 opens a transfer, or serves a value that fits whole (the ring's
bytes are read from DRAM, R259); a later one must name the next unread offset of the source's own transfer, and a value that has changed since closes it with code 9.
SEGMENTED_WRITE (R451): the opening segment opens a transfer and changes nothing else; a later one adds its bytes; the
one with LAST checks and applies the whole value as one write and closes the transfer; a segment out of order closes
it and applies nothing. -/
def Obligations.SegmentedTransfersServeAndApply : Prop :=
  (∀ (q : Req) (idx : BitVec 16) (sub : BitVec 8) (off : BitVec 32) (s : State) (row : DictRow),
       let r : DReq := { q := q, op := 3, idx := idx.toNat, sub := sub.toNat, off := off.toNat }
       let v := readValue s row idx.toNat sub.toNat
       Accepts s r → entryRow s idx.toNat sub.toNat = .ok row → canRead (row.acc q.cls) = true → readRefusal s r.key = none →
       let part := slice v off.toNat q.limit
       let x := readSegment r v s
       (off.toNat = 0 → transfersFull s r = false → exec (.segmentedRead q idx sub off) s = .next (answered r x.1 s x.2))
       ∧ (r.key ≠ Reg.RING_DATA → x.1 = .ok (part, decide (v.length ≤ off.toNat + part.length)))
       ∧ (r.key = Reg.RING_DATA → x.1 = .ok ((ringRead off.toNat part.length (closeTransfer r s)).1,
           decide (v.length ≤ off.toNat + part.length)))
       ∧ (v.length ≤ off.toNat + part.length → x.2.diale.opened = (closeTransfer r s).diale.opened)
       ∧ (∀ t, off.toNat ≠ 0 → transferOf s r = some t → t.isWrite = false → t.off = off.toNat →
         (t.buf = v → exec (.segmentedRead q idx sub off) s = .next (answered r x.1 s x.2))
         ∧ (t.buf ≠ v → exec (.segmentedRead q idx sub off) s = .next (answered r (.error 9) s (closeTransfer r s)))))
  ∧ (∀ (q : Req) (idx : BitVec 16) (sub : BitVec 8) (off : BitVec 32) (last : Bool) (payload : Bytes) (s : State) (row : DictRow),
       let r : DReq := { q := q, op := 4, idx := idx.toNat, sub := sub.toNat, off := off.toNat, last := last, payload := payload }
       let s1 := closeTransfer r s
       Accepts s r → payload.length ≤ q.limit → entryRow s idx.toNat sub.toNat = .ok row → canWrite (row.acc q.cls) = true →
         r.key ≠ Reg.RESET_CMD →
       (off.toNat = 0 → last = false → openingRefusal r row s = none →
         exec (.segmentedWrite q idx sub off last payload) s
           = .next (answered r (.ok ([], false)) s (openTransfer r true payload.length payload (reserveSpace r s1))))
       ∧ (∀ t, off.toNat ≠ 0 → transferOf s r = some t → t.isWrite = true →
         (off.toNat = t.buf.length → (t.buf ++ payload).length ≤ maxSize row → last = false →
           exec (.segmentedWrite q idx sub off last payload) s = .next (answered r (.ok ([], false)) s
             (openTransfer r true (t.buf ++ payload).length (t.buf ++ payload) (dropTransfer r s))))
         ∧ (off.toNat = t.buf.length → (t.buf ++ payload).length ≤ maxSize row → last = true →
           writeRefusal s1 row r.key (t.buf ++ payload) true = none →
           exec (.segmentedWrite q idx sub off last payload) s
             = .next (answered r (.ok ([], true)) s (applyValue row r.key (t.buf ++ payload) s1)))
         ∧ (off.toNat ≠ t.buf.length →
           exec (.segmentedWrite q idx sub off last payload) s = .next (answered r (.error 0xA) s s1))))

/-- Tier 2. CANCEL and TRANSFER_TIMEOUT (R452): either closes one open transfer and drops what it buffered; a timeout
is counted, and the source's next segment of that entry aborts with the code for it. -/
def Obligations.TransfersAreClosed : Prop :=
  (∀ (q : Req) (idx : BitVec 16) (sub : BitVec 8) (s : State) (row : DictRow) (t : Transfer),
    let r : DReq := { q := q, op := 5, idx := idx.toNat, sub := sub.toNat }
    Accepts s r → entryRow s idx.toNat sub.toNat = .ok row → transferOf s r = some t →
    exec (.cancel q idx sub) s = .next (answered r (.ok ([], false)) s (closeTransfer r s))
      ∧ transferOf (closeTransfer r s) r = none)
  ∧ (∀ (n : Nat) (t : Transfer) (s : State), s.diale.opened[n]? = some t → t.lastT3 + 1000000000 ≤ s.t3 →
    ∃ u, exec (.transferTimeout n) s = .next u ∧ u.diale.opened = s.diale.opened.eraseIdx n
      ∧ (t.src, t.key) ∈ u.diale.timedOut ∧ u.r Reg.TIMEOUTS = s.oneMore Reg.TIMEOUTS
      ∧ (∀ k, k ≠ Reg.TIMEOUTS → u.r k = s.r k) ∧ { u with regs := s.regs, diale := s.diale } = s)

/-- Tier 3. Frames decode to the request they carry (R445, R446, R447): for every header value and every payload
within the carrier's limit, a well-formed frame to the device's own node on an Ethernet port is executed as exactly
that request, with every field as it was encoded. -/
def Obligations.FramesDecodeToTheirRequest : Prop :=
  ∀ (c : Carrier) (op idx sub flags off : Nat) (src : BitVec 14) (txn : BitVec 16) (payload : Bytes) (s : State),
    c.port.val < 3 → portLive s c.port.val = true → (c.port = 2 → s.sys.depotEn = true) →
    s.r Reg.NODE_ID < 2 ^ 14 → s.r Reg.NODE_ID ≠ 0 → op < 256 → idx < 2 ^ 16 → sub < 256 → flags < 4 → off < 2 ^ 32 →
    payload.length ≤ 1400 →
    exec (.dialeFrameReceive c (withCheck (frameBody (s.r Reg.NODE_ID) src.toNat txn.toNat idx sub op flags off payload))) s
      = .next (serve { q := { port := c.port, ip := c.ip, udp := c.udp, mac := c.mac, node := src, txn := txn, tag := c.tag }
                       op := op, idx := idx, sub := sub, off := off, all := flags.testBit 0, last := flags.testBit 1
                       payload := payload } [] s)

/-- Tier 2. A frame that R446 discards gets no response and is counted in DISCARDED, whatever else it holds; one on a
CAN bus is counted as a received frame besides, and there a frame of another KIND than a request's is only that. -/
def Obligations.BadFramesAreDiscarded : Prop :=
  ∀ (c : Carrier) (b : Bytes) (s : State), portLive s c.port.val = true → (c.port = 2 → s.sys.depotEn = true) →
    (c.port.val < 3 → frameBad s c b = true →
      ∃ t, exec (.dialeFrameReceive c b) s = .next t ∧ Becomes s t s [(Reg.DISCARDED, s.oneMore Reg.DISCARDED)])
    ∧ (3 ≤ c.port.val → bitsOf c.canId.toNat 28 26 = 6 → frameBad s c b = true →
      ∃ t, exec (.dialeFrameReceive c b) s = .next t
        ∧ Becomes s t s [(Reg.DISCARDED, s.oneMore Reg.DISCARDED), (Reg.CAN_RX_FRAMES (c.port.val - 3), s.oneMore (Reg.CAN_RX_FRAMES (c.port.val - 3)))])
    ∧ (3 ≤ c.port.val → bitsOf c.canId.toNat 28 26 ≠ 6 →
      ∃ t, exec (.dialeFrameReceive c b) s = .next t
        ∧ Becomes s t s [(Reg.CAN_RX_FRAMES (c.port.val - 3), s.oneMore (Reg.CAN_RX_FRAMES (c.port.val - 3)))])

/-! ## The commands that are requests to one entry -/

/-- Tier 2. ACTIVATE, DEACTIVATE and UNLOAD (R140, R145, R146, R147): an accepted command is answered, and its slot is
activating, deactivating (or loaded again when it was still activating) or empty. -/
def Obligations.GraphCommandsMoveTheSlot : Prop :=
  ∀ (q : Req) (g : Fin 64) (s : State) (row : DictRow),
    let r (v : Nat) : DReq := numWrite q (Reg.GRAPH_CMD g.val) 1 v
    (Accepts s (r 1) → Permits s (r 1) row →
      exec (.activate q g) s = .next (answered (r 1) (.ok ([], false)) s (activateGraph g.val s))
        ∧ (activateGraph g.val s).r (Reg.GRAPH_STATE g.val) = 2)
    ∧ (Accepts s (r 2) → Permits s (r 2) row →
      (gstate s g.val ≠ 2 → exec (.deactivate q g) s = .next (answered (r 2) (.ok ([], false)) s (s.setR (Reg.GRAPH_STATE g.val) 4)))
      ∧ (gstate s g.val = 2 → exec (.deactivate q g) s = .next (answered (r 2) (.ok ([], false)) s (freeGraph g.val s))
        ∧ ((s.slot g.val).pkg.isSome → (freeGraph g.val s).r (Reg.GRAPH_STATE g.val) = 1)))
    ∧ (Accepts s (r 3) → Permits s (r 3) row →
      exec (.unload q g) s = .next (answered (r 3) (.ok ([], false)) s (unloadGraph g.val s))
        ∧ (unloadGraph g.val s).r (Reg.GRAPH_STATE g.val) = 0 ∧ (unloadGraph g.val s).r (Reg.PKG_ID g.val) = 0
        ∧ (unloadGraph g.val s).slot g.val = {})

/-- Tier 2. PACKAGE_WRITE and TEST_PACKAGE_WRITE (R139, R146, R148, R394): a complete image is checked; LOAD_STATUS or
TEST_LOAD_STATUS holds the result code, and only an image with code 0 becomes the slot's package or the test package
in use. -/
def Obligations.PackageWritesReportTheirCode : Prop :=
  ∀ (q : Req) (g : Fin 64) (image : Bytes) (s : State) (row : DictRow),
    let r : DReq := wholeWrite q (Reg.PACKAGE g.val) image
    let v : DReq := wholeWrite q Reg.TEST_PACKAGE image
    let key := if s.fuses.bank1.valid then some s.fuses.bank1.key else if s.fuses.bank0.valid then some s.fuses.bank0.key else none
    (Accepts s r → PermitsWhole s r row →
      exec (.packageWrite q g image) s = .next (answered r (wholeAnswer r) s (loadPackage g.val image (s.forWhole r)))
        ∧ (loadPackage g.val image s).r (Reg.LOAD_STATUS g.val) = (loadCheck key image).1
        ∧ (∀ p, (loadCheck key image).2 = some p → (loadPackage g.val image s).slot g.val = { image := image, pkg := some p }
            ∧ (loadPackage g.val image s).r (Reg.GRAPH_STATE g.val) = 1))
    ∧ (Accepts s v → PermitsWhole s v row →
      exec (.testPackageWrite q image) s = .next (answered v (wholeAnswer v) s (testPackageEnd image (s.forWhole v)))
        ∧ (testPackageEnd image s).r Reg.TEST_LOAD_STATUS = testCheck s.sys.running.signer (some s.sys.testPkg.version) image
        ∧ (testCheck s.sys.running.signer (some s.sys.testPkg.version) image ≠ 0 → (testPackageEnd image s).sys = s.sys))

/-- Tier 2. PENDING_CLEAR, LATCH_CLEAR and REACTION_WRITE (R423, R428, R429, R430): written 1 bits leave PENDING and
ERR_HOLD, the latch reads 0, a reaction takes effect at once; what hardware raises in the same beat is raised after
the write. -/
def Obligations.CollectorWrites : Prop :=
  ∀ (q : Req) (s : State) (row : DictRow) (raised : List Nat),
    let beat (t : State) : State := raiseAll (raised.filter isFaultSource) t
    (∀ (word : Fin 2) (v : BitVec 64),
      let r : DReq := numWrite q (Reg.PENDING word.val) 8 v.toNat
      Accepts s r → Permits s r row →
      exec (.pendingClear q word v raised) s = .next (answered r (.ok ([], false)) s (beat (clearPending word.val v.toNat s))))
    ∧ (let r : DReq := numWrite q Reg.LATCH_CLEAR 1 1;
      Accepts s r → Permits s r row →
      exec (.latchClear q 1 raised) s
        = .next (answered r (.ok ([], false)) s (beat ((s.setR Reg.FIRST_SOURCE 0).setR Reg.OVERFLOW 0))))
    ∧ (∀ (source v : BitVec 8),
      let r : DReq := numWrite q (0x500200 + source.toNat) 1 v.toNat
      Accepts s r → Permits s r row →
      exec (.reactionWrite q source v) s
        = .next (answered r (.ok ([], false)) s (s.setR (Reg.REACTION (source.toNat - 1)) v.toNat)))

/-- Tier 2. What a write of PENDING does (R428): a bit stays exactly when it was set and is not written, or is DRAIN's
on a drained chip; ERR_HOLD likewise; everything else stays. A write with a reserved bit set is refused as an invalid
value. -/
def Obligations.PendingClearsWrittenBits : Prop :=
  ∀ (q : Req) (word : Fin 2) (v : BitVec 64) (s : State),
    let t := clearPending word.val v.toNat s
    let r : DReq := numWrite q (Reg.PENDING word.val) 8 v.toNat
    (∀ i, i < 64 →
      let kept : Bool := !v.toNat.testBit i || (decide (word = 0) && s.drained && decide (i = 0x3E));
      ((t.r (Reg.PENDING word.val)).testBit i = ((s.r (Reg.PENDING word.val)).testBit i && kept))
      ∧ ((t.r (Reg.ERR_HOLD word.val)).testBit i = ((s.r (Reg.ERR_HOLD word.val)).testBit i && kept)))
    ∧ (∀ k, k ≠ Reg.PENDING word.val → k ≠ Reg.ERR_HOLD word.val → t.r k = s.r k) ∧ t = s.withRegs t.regs
    ∧ (∀ row i, i < 64 → v.toNat.testBit i = true → isFaultSource (64 * word.val + i) = false → Accepts s r →
        entryRow s r.idx r.sub = .ok row → canWrite (row.acc q.cls) = true → stateBars s r.key = false →
      exec (.pendingClear q word v []) s = .next (answered r (.error 5) s s))

/-- Tier 2. PORT_ENABLE, PORT_DISABLE, PORT_GEAR_WRITE, PORT_RATE_WRITE, PORT_BIND, I2C_REQ and PARAM_HOLD_WRITE
(R262, R277, R279, R288, R289, R304): accepted writes of camera ports and contexts. An enabled port trains its link; a
disabled one has its link down; a gear change of an enabled port trains again; an I2C request on a port whose link is
up starts a transaction. -/
def Obligations.CameraWrites : Prop :=
  ∀ (q : Req) (p : Fin 24) (c : Fin 36) (v : BitVec 8) (s : State) (row : DictRow),
    (let r := numWrite q (Reg.CAM_ENABLE p.val) 1 1;
      Accepts s r → Permits s r row →
      exec (.portEnable q p) s = .next (answered r (.ok ([], false)) s (enablePort p.val s))
        ∧ (enablePort p.val s).on (Reg.CAM_ENABLE p.val) = true)
    ∧ (let r := numWrite q (Reg.CAM_ENABLE p.val) 1 0;
      Accepts s r → Permits s r row →
      exec (.portDisable q p) s = .next (answered r (.ok ([], false)) s (disablePort p.val s)))
    ∧ (let r := numWrite q (Reg.CAM_GEAR p.val) 1 v.toNat;
      Accepts s r → Permits s r row →
      exec (.portGearWrite q p v) s = .next (answered r (.ok ([], false)) s (writeGear p.val v.toNat s))
        ∧ (s.on (Reg.CAM_ENABLE p.val) = false → writeGear p.val v.toNat s = s.setR (Reg.CAM_GEAR p.val) v.toNat))
    ∧ (∀ (sub : BitVec 8) (b : Bytes),
      let r := wholeWrite q ((0x2100 + p.val) * 256 + sub.toNat) b
      Accepts s r → PermitsWhole s r row →
      exec (.portRateWrite q p sub b) s = .next (answered r (wholeAnswer r) s (applyValue row r.key b (s.forWhole r))))
    ∧ (let r := numWrite q (Reg.CTX_PORT c.val) 1 v.toNat;
      Accepts s r → Permits s r row →
      exec (.portBind q c v) s = .next (answered r (.ok ([], false)) s (bindPort c.val v.toNat s))
        ∧ (bindPort c.val v.toNat s).r (Reg.CTX_PORT c.val) = v.toNat)
    ∧ (∀ b : Bytes,
      let r := wholeWrite q (Reg.CAM_I2C_REQ p.val) b
      Accepts s r → PermitsWhole s r row →
      exec (.i2cReq q p b) s = .next (answered r (wholeAnswer r) s (i2cStart p.val b s))
        ∧ (portUp s p.val = true → (i2cStart p.val b s).blob (Reg.CAM_I2C_RESP p.val) = [1#8, 0#8]
            ∧ (i2cStart p.val b s).wire = s.wire ++ [.i2c p.val b])
        ∧ (portUp s p.val = false → (i2cStart p.val b s).blob (Reg.CAM_I2C_RESP p.val) = [4#8, 0#8]
            ∧ (i2cStart p.val b s).wire = s.wire))
    ∧ (let r := numWrite q (Reg.CTX_PARAM_HOLD c.val) 1 v.toNat;
      Accepts s r → Permits s r row →
      exec (.paramHoldWrite q c v) s = .next (answered r (.ok ([], false)) s (s.setR (Reg.CTX_PARAM_HOLD c.val) v.toNat)))

/-- Tier 2. RING_FREEZE, RING_RELEASE, RING_CURSOR_WRITE and RING_SIZE_WRITE (R250, R256, R257, R259). A freeze takes
a recording ring to freezing, or at once to frozen when no record is in progress, and notes T0; a release resumes
recording; a new size is staged for the next cold boot and stored. RING_DATA_READ (R259, R450): on a frozen ring the
readout serves as many segments as the carrier needs for its 65,536 bytes, each a request of its own. -/
def Obligations.RingWritesAndReadout : Prop :=
  (∀ (q : Req) (s : State) (row : DictRow),
       (let r := numWrite q Reg.RING_CMD 1 1;
         Accepts s r → Permits s r row →
         exec (.ringFreeze q) s = .next (answered r (.ok ([], false)) s (ringFreezeNow s))
           ∧ (s.r Reg.RING_STATE = 0 →
             Becomes s (ringFreezeNow s) s [(Reg.RING_STATE, if ringBusy s then 1 else 2), (Reg.RING_FREEZE_TIME, s.t 0)]))
       ∧ (let r := numWrite q Reg.RING_CMD 1 2;
         Accepts s r → Permits s r row →
         exec (.ringRelease q) s = .next (answered r (.ok ([], false)) s (s.setR Reg.RING_STATE 0)))
       ∧ (∀ v : BitVec 64,
         let r := numWrite q Reg.RING_CURSOR 8 v.toNat
         Accepts s r → Permits s r row →
         exec (.ringCursorWrite q v) s = .next (answered r (.ok ([], false)) s (s.setR Reg.RING_CURSOR v.toNat)))
       ∧ (∀ v : BitVec 16,
         let r := numWrite q Reg.RING_SIZE 2 v.toNat
         Accepts s r → Permits s r row →
         exec (.ringSizeWrite q v) s = .next (answered r (.ok ([], false)) s (stageNum Reg.RING_SIZE v.toNat s))
           ∧ (stageNum Reg.RING_SIZE v.toNat s).rStaged Reg.RING_SIZE = v.toNat
           ∧ (stageNum Reg.RING_SIZE v.toNat s).r Reg.RING_SIZE = s.r Reg.RING_SIZE
           ∧ (s.canonical →
               ((newestStore (stageNum Reg.RING_SIZE v.toNat s)).bind fun c => sfind Reg.RING_SIZE c.vals) = some v.toNat)))
  ∧ (∀ (q : Req) (s : State), ringReadable s q = true →
       exec (.ringDataRead q) s
         = .next (forEach (List.range (ceilDiv 65536 q.limit)) (fun i t => serve (ringSegment q i) [] t) s)
       ∧ (∀ row, entryRow s 0x4024 1 = .ok row → s.r Reg.RING_STATE = 2 ∧ (readValue s row 0x4024 1).length = 65536))

/-- Tier 2. TIME_COMMIT, STAGED_TIME_WRITE and FRER_WRITE (R317, R327, R491): a commit is scheduled once, at least 100
µs later on a whole millisecond of T3; a staged time value reads back and changes nothing in force. DSP_ENABLE,
DSP_TIMING_WRITE and PLANE_SOURCE_WRITE (R497, R501, R509, R513): accepted writes of display ports and planes. -/
def Obligations.TimeStreamAndDisplayWrites : Prop :=
  (∀ (q : Req) (s : State) (row : DictRow),
       (let r := numWrite q Reg.TIME_COMMIT 1 1;
         Accepts s r → Permits s r row →
         exec (.timeCommit q 1) s = .next (answered r (.ok ([], false)) s (scheduleCommit s))
           ∧ (s.rooster.commitAt = none → ∃ d, (scheduleCommit s).rooster.commitAt = some d ∧ d % 1000000 = 0
               ∧ s.t3 + 100000 ≤ d ∧ d < s.t3 + 1100000)
           ∧ (s.rooster.commitAt.isSome → scheduleCommit s = s))
       ∧ (∀ (idx : BitVec 16) (sub : BitVec 8) (b : Bytes),
         let r := wholeWrite q (idx.toNat * 256 + sub.toNat) b
         Accepts s r → PermitsWhole s r row → r.key ≠ Reg.RESET_CMD →
         exec (.stagedTimeWrite q idx sub b) s = .next (answered r (wholeAnswer r) s (applyValue row r.key b (s.forWhole r))))
       ∧ (∀ (n : Fin 32) (sub : BitVec 8) (b : Bytes),
         let r := wholeWrite q ((0x6900 + n.val) * 256 + sub.toNat) b
         Accepts s r → PermitsWhole s r row →
         exec (.frerWrite q n sub b) s = .next (answered r (wholeAnswer r) s (applyValue row r.key b (s.forWhole r)))))
  ∧ (∀ (q : Req) (d p : Fin 4) (v : BitVec 8) (s : State) (row : DictRow),
       (let r := numWrite q (Reg.DSP_ENABLE d.val) 1 v.toNat;
         Accepts s r → Permits s r row →
         exec (.dspEnable q d v) s = .next (answered r (.ok ([], false)) s (enableDisplay d.val v.toNat s)))
       ∧ (∀ (sub : BitVec 8) (b : Bytes),
         let r := wholeWrite q ((0x4800 + d.val) * 256 + sub.toNat) b
         Accepts s r → PermitsWhole s r row →
         exec (.dspTimingWrite q d sub b) s = .next (answered r (wholeAnswer r) s (applyValue row r.key b (s.forWhole r))))
       ∧ (let r := numWrite q (Reg.PLN_SOURCE (4 * d.val + p.val)) 1 v.toNat;
         Accepts s r → Permits s r row →
         exec (.planeSourceWrite q d p v) s
           = .next (answered r (.ok ([], false)) s (s.setR (Reg.PLN_SOURCE (4 * d.val + p.val)) v.toNat))))

/-- Tier 2. Staged values (R18, R460): a number whose entry does not apply at the write reads back as written while
the value in force stays, and its apply point puts it in force; a persistent one is in the boot flash from then on
(R464, R530). -/
def Obligations.StagedValuesWaitForTheirApplyPoint : Prop :=
  ∀ (row : DictRow) (k : Key) (b : Bytes) (s : State), s.canonical → row.ty.size.isSome → appliesAtOnce row = false →
    let t := applyValue row k b s
    t.rStaged k = leVal b ∧ (∀ j, t.r j = s.r j) ∧ (∀ j, j ≠ k → t.rStaged j = s.rStaged j)
      ∧ (t.applyStaged fun j => decide (j = k)).r k = leVal b
      ∧ (persists k = true → ((newestStore t).bind fun c => sfind k c.vals) = some (leVal b))
      ∧ (persists k = false → t.flash = s.flash)

/-- Tier 2. RESET_CMD (R472, R514, R516): an accepted command is answered first; then a warm reset of kind 3 begins,
whose boot has ERR_N low, and fuses, DRAM bytes and fault counts stay. FW_IMAGE_WRITE, CUSTOMER_KEY_WRITE,
ATTEST_NONCE_WRITE and STANDBY_CMD (R528, R532, R534, R535): accepted writes of the boot and security entries. -/
def Obligations.ResetAndSystemWrites : Prop :=
  (∀ (q : Req) (b : BootInputs) (s : State) (row : DictRow),
       let r : DReq := { numWrite q Reg.RESET_CMD 2 0xA55A with boot := some b }
       Accepts s r → Permits s r row →
       ∃ t, exec (.resetCmd q 0xA55A b) s = .next t ∧ t = immediateReset 3 b (answered r (.ok ([], false)) s s)
         ∧ t.r Reg.RESET_KIND = 3 ∧ t.sys.phase = .booting ∧ t.sys.errLow = true ∧ t.sys.bootIn = some b
         ∧ t.wire = (answered r (.ok ([], false)) s s).wire ∧ t.fuses = s.fuses ∧ t.mem = s.mem)
  ∧ (∀ (q : Req) (b : Bytes) (s : State) (row : DictRow),
       (let r := wholeWrite q Reg.FW_IMAGE b;
         Accepts s r → PermitsWhole s r row →
         exec (.fwImageWrite q b) s = .next (answered r (wholeAnswer r) s (fwImageEnd b (s.forWhole r)))
           ∧ (fwImageEnd b s).r Reg.FW_LOAD_STATUS = fwCheck s b
           ∧ (fwImageEnd b s).r Reg.FW_UPDATE_STATE = (if fwCheck s b = 0 then 2 else 4))
       ∧ (let r := wholeWrite q Reg.CUSTOMER_KEY b;
         Accepts s r → PermitsWhole s r row →
         exec (.customerKeyWrite q b) s = .next (answered r (wholeAnswer r) s (enrol b (s.forWhole r)))
           ∧ (enrol b s).sys.enrolling = true ∧ (enrol b s).fuses.lifecycle = s.fuses.lifecycle
           ∧ (s.fuses.bank0.used = false → (enrol b s).fuses.bank0.used = true ∧ (enrol b s).fuses.bank0.key = b.take 64
               ∧ (enrol b s).fuses.bank1 = s.fuses.bank1))
       ∧ (let r := wholeWrite q Reg.ATTEST_NONCE b;
         Accepts s r → PermitsWhole s r row →
         exec (.attestNonceWrite q b) s = .next (answered r (wholeAnswer r) s (startReport b ((s.forWhole r).setBlob Reg.ATTEST_NONCE b)))
           ∧ (startReport b (s.setBlob Reg.ATTEST_NONCE b)).sys.attestBusy = some (s.t3 + 20000000))
       ∧ (let r := numWrite q Reg.STANDBY_CMD 1 1;
         Accepts s r → Permits s r row →
         exec (.standbyCmd q 1) s = .next (answered r (.ok ([], false)) s (standbyEnter s))
           ∧ (standbyEnter s).sys.phase = .enteringStandby ∧ (standbyEnter s).sys.errLow = true
           ∧ (standbyEnter s).r Reg.WAKE_CAUSE = 0))

/-! ## Graphs, tiles and windows -/

/-- Tier 2. GRAPH_SETUP_COMPLETE and DEACTIVATION_COMPLETE (R142, R145, R157, R216): setup ends an activating graph's
wait; without resident weights and without retained regions it changes nothing but its slot, and it never writes DRAM.
A deactivating graph whose last frame has left the gate closes its open windows, and once they are closed frees its
resources and is loaded again; the segments it keeps are retained. WINDOW_CLOSE_ACK (R221): a closing window closes
when both flush markers have arrived, and with the last one of a closing graph its deactivation ends. WINDOW_WRITE (R204, R219,
R220): an open or closing window takes a write of its writers within the half that the frame uses, byte for byte,
while its banks are on; any other write changes nothing but its counter and the source it raises, which carries the
block and the writer. -/
def Obligations.GraphEventsAndWindows : Prop :=
  (∀ (g : Fin 64) (s : State) (p : Package), (s.slot g.val).pkg = some p →
       (gstate s g.val = 2 → (s.slot g.val).setupDone = false →
         exec (.graphSetupComplete g) s = .next (setupGraph g.val s)
           ∧ ((setupGraph g.val s).slot g.val).setupDone = true
           ∧ (p.residency = false → ((setupGraph g.val s).slot g.val).retained = [])
           ∧ (setupGraph g.val s).mem = s.mem ∧ (∀ h, h ≠ g.val → ((setupGraph g.val s).slot h).pkg = (s.slot h).pkg)
           ∧ ((s.slot g.val).retained = [] →
               (setupGraph g.val s).r (Reg.RETAIN_RECOPY g.val) = s.r (Reg.RETAIN_RECOPY g.val)
               ∧ ((∀ st ∈ p.stations, st.tiling.reuse ≠ 2) → { setupGraph g.val s with slots := s.slots } = s)))
       ∧ (gstate s g.val = 4 → framesLeft s g.val = false →
         exec (.deactivationComplete g) s = .next (finishDeactivation g.val s)
           ∧ ((∀ k, k < 512 → (s.win k).owner = g.val + 1 → (s.win k).state = .closed) →
             let t := finishDeactivation g.val s
             t.r (Reg.GRAPH_STATE g.val) = 1 ∧ (∀ x ∈ t.segs, x.2.slot = g.val + 1 → x.2.retained = true)
             ∧ (t.slot g.val).monitors = [] ∧ (t.slot g.val).hwQueues = [] ∧ (t.slot g.val).closing = false
             ∧ (t.slot g.val).pkg = some p ∧ t.mem = s.mem)
           ∧ ((s.slot g.val).closing = false → (∃ k, k < 512 ∧ (s.win k).owner = g.val + 1 ∧ (s.win k).state ≠ .closed) →
             let t := finishDeactivation g.val s
             t.r (Reg.GRAPH_STATE g.val) = 4 ∧ (t.slot g.val).closing = true
             ∧ (∀ k, k < 512 → (s.win k).owner = g.val + 1 → (s.win k).state = .isOpen → (t.win k).state = .closing)
             ∧ { t with slots := s.slots, wins := s.wins } = s))
       ∧ (framesLeft s g.val = true → exec (.deactivationComplete g) s = .next s))
  ∧ (∀ (b : Fin 32) (w : Fin 16) (region chip : Bool) (s : State),
       let k := 16 * b.val + w.val
       let x := s.win k
       let shut := s.setWin k { x with state := .closed, regionMark := false, chipMark := false }
       let both : Bool := (x.regionMark || region) && (x.chipMark || chip)
       let last : Prop := (s.slot (x.owner - 1)).closing = true ∧ windowsClosing shut (x.owner - 1) = false
       (x.state ≠ .closing → exec (.windowCloseAck b ⟨w, region, chip⟩) s = .next s)
       ∧ (x.state = .closing → both = false → exec (.windowCloseAck b ⟨w, region, chip⟩) s
           = .next (s.setWin k { x with regionMark := x.regionMark || region, chipMark := x.chipMark || chip }))
       ∧ (x.state = .closing → both = true → ¬ last → exec (.windowCloseAck b ⟨w, region, chip⟩) s = .next shut)
       ∧ (x.state = .closing → both = true → last → exec (.windowCloseAck b ⟨w, region, chip⟩) s = .next (freeGraph (x.owner - 1) shut)
           ∧ ((s.slot (x.owner - 1)).pkg.isSome → (freeGraph (x.owner - 1) shut).r (Reg.GRAPH_STATE (x.owner - 1)) = 1)))
  ∧ (∀ (b : Fin 32) (w : Fin 16) (g : Fin 64) (station frame off : Nat) (data : Bytes) (s : State),
       let x := s.win (16 * b.val + w.val)
       let half := (x.limit - x.base) / 2
       let a := (x.base + frame % 2 * half) * 512 + off
       let dropped (src : Nat) : State := raise src (.writer b.val g.val station) (s.bump (Reg.WINDOW_DROPS b.val))
       (x.state = .closed → exec (.windowWrite b w g station ⟨frame, off⟩ data) s = .next (dropped Src.WINDOW_CLOSED))
       ∧ (x.state ≠ .closed → (x.owner ≠ g.val + 1 ∨ x.writers.contains station = false ∨ half * 512 < off + data.length) →
           exec (.windowWrite b w g station ⟨frame, off⟩ data) s = .next (dropped Src.WINDOW_BOUNDS))
       ∧ (x.state ≠ .closed → x.owner = g.val + 1 → x.writers.contains station = true → x.base ≤ x.limit →
           off + data.length ≤ half * 512 → data ≠ [] →
           (∀ n, a / 262144 ≤ n → n ≤ (a + data.length - 1) / 262144 → bankPower s b.val n = 1) →
           ((off % 8 = 0 ∧ data.length % 8 = 0) ∨ ∀ k, s.sramErr k = 0) →
         ∃ t, exec (.windowWrite b w g station ⟨frame, off⟩ data) s = .next t
           ∧ (∀ i (h : i < data.length), t.padByte (padKey b.val (a / 512) (a % 512 + i)) = data[i])
           ∧ (∀ k, (k < padKey b.val (a / 512) (a % 512) ∨ padKey b.val (a / 512) (a % 512 + data.length) ≤ k) → t.padByte k = s.padByte k)
           ∧ (∀ e ∈ t.sram, e ∈ s.sram) ∧ { t with pad := s.pad, sram := s.sram } = s))

/-- Tier 2. TILE_FETCH (R117, R129, R130, R132, R153, R375): a unit that may take tiles is served from the older open
slot first, once the headers of the frame's inputs have been read and found good; where that slot's next tile is
ready, every unit of the group gets the same indices in its log, the counter moves past them, and every other unit and
value stays. A header that is wrong or lost hands out nothing. -/
def Obligations.TileFetchHandsOutReadyTiles : Prop :=
  ∀ (u : UnitRef) (g : Fin 64) (station : Nat) (s : State) (p : Package) (st : Station), Fetches s u g station p st →
    exec (.tileFetch u g station) s = .next (serveFetch g p st (fetchGroup st u.id) (openSlots s g.val station) s)
    ∧ (∀ x l, openSlots s g.val station = x :: l →
      let h := inputHeaders g p st x.frame [0, 1, 2, 3] s
      let v := h.2
      ((∀ n, n < 4 → ∀ q y, p.producer? st n = some q → stFrame? s g.val q.number x.frame = some y → y.base = 0) → h = (none, s))
      ∧ (∀ who, h.1 = some who → l = [] →
          exec (.tileFetch u g station) s = .next (headerStall g.val st.number x.frame who v))
      ∧ (h.1 = none → stFrame? v g.val st.number x.frame = some x → skipCount v g.val p st x = 0 → x.next < x.limit →
          tileReady v g.val p st x.frame x.next = true →
        ∃ t, exec (.tileFetch u g station) s = .next t
          ∧ (let n := min (fetchCount st) (x.limit - x.next)
             let idx := (List.range n).map fun k => x.next + k;
             (∀ w ∈ fetchGroup st u.id, (t.unit w).log = (v.unit w).log ++ idx.map (logEntry g p st x.frame idx))
             ∧ (∀ w, w ∉ fetchGroup st u.id → t.unit w = v.unit w)
             ∧ stFrame? t g.val st.number x.frame = some { x with next := x.next + n, issued := x.issued ++ idx })
          ∧ (∀ k, k ≠ g.val → t.slot k = v.slot k) ∧ { t with slots := v.slots, units := v.units } = v))

/-- Tier 2. TILE_COMPLETE (R30, R120, R122, R128, R375): a tile that its unit holds, whose checks have closed and whose
queues have a free slot, leaves the logs of the units that hold it, in the order in which they took their tiles;
before that it is written into its tensor, and its descriptor, with its place and check word, joins the frame's, and
its index the counter's record of tiles done, leaving the issued ones. -/
def Obligations.TileCompletionAnnouncesTheTile : Prop :=
  ∀ (u : UnitRef) (t : TileRef) (s : State) (p : Package) (st : Station),
    (s.slot t.g.val).pkg = some p → stationOf s t.g.val t.station = some st →
    ((∀ e ∈ (s.unit u.id).log, e.ref ≠ t) → exec (.tileComplete u t) s = .next s)
    ∧ (∀ e ∈ (s.unit u.id).log, e.ref = t →
        exec (.tileComplete u t) s = .next (
          let s1 := completeTile u.id t p st s;
          if (s1.unit u.id).log.any (fun e => e.ref = t) then s1
          else forEach (u.id :: (partner s u.id).toList) tryWithdraw s1))
    ∧ (∀ x e l, u.id < 32 → stFrame? s t.g.val st.number t.frame = some x → x.abandoned = false → x.stalled = false →
        (s.unit u.id).log = e :: l → e.ref ≠ t → exec (.tileComplete u t) s = .next s)
    ∧ (∀ (replay : Bool) (r : Nat) (data : List Nat × List Nat) (x : StFrame), st.number = t.station →
        let e := validExtents s t.g.val p st t.frame t.index
        let w := storeTile t.g p st t.frame t.index r (boxOf p st t.index).1 e data.1 data.2 s
        stFrame? w t.g.val t.station t.frame = some x →
        let v := announceTile p st t r replay data s
        (∃ y d, stFrame? v t.g.val t.station t.frame = some y ∧ y.descs = x.descs ++ [d] ∧ d.index = t.index
          ∧ (d.o0, d.o1, d.o2) = (boxOf p st t.index).1 ∧ (d.e0, d.e1, d.e2) = e
          ∧ d.check = crc32c (checkBytes (tileFmt st) data.1 data.2) ∧ d.replay = replay ∧ d.last = false
          ∧ t.index ∈ y.done ∧ t.index ∉ y.issued)
        ∧ { v with slots := w.slots } = w)
    ∧ (let v := releaseTile t u.id s;
        (∀ e ∈ (v.unit u.id).log, e.ref ≠ t) ∧ (∀ w, w ≠ u.id → v.unit w = s.unit w) ∧ { v with units := s.units } = s)

/-- Tier 2. EXPAND_TILE, VERIFICATION_TILE and MULE_TRANSFER (R117, R121, R155, R177, R179, R564): a Mule in service
writes an expanded tile into the operand buffers of the units that share it, forwards the descriptor of a source tile
that it has read good, brings source tiles, weights and resident activations to units, and moves tiles in memory. What
it reads under a wrong header, or with another check word, is a fault and is not used. -/
def Obligations.MulesCheckWhatTheyMove : Prop :=
  ∀ (m : Fin 16) (u : UnitRef) (t : TileRef) (flips : List (Nat × Byte)) (s : State) (p : Package) (st : Station),
    (s.slot t.g.val).pkg = some p → stationOf s t.g.val t.station = some st →
    (∀ (q z : Station) (r : ExpandRec) (s1 s2 : State) (rows : List (List Nat × List Nat)),
        let us := if u.id < 32 then castActs st u.id else [u.id]
        let c := expandShare st r t
        let pos := (List.range (sharePositions p st t u.id)).map (positionOf s1 p st t u.id)
        expansionOf p st = some (q, r, z) → muleServes s m u.region = true → st.tiling.reuse ≠ 3 →
        (∀ v ∈ us, bufferRoom s v st t = true) → actsPresent s u.id p st t = false →
        readHeaders t.g t.frame [q.number, z.number] s = (none, s1) →
        expandRows t.g p q r z t.frame u.region c.1 c.2 pos s1 = (.ok rows, s2) →
        let k := (pos.filter Option.isSome).length
        let b := checkBytes (fmtOr st.fmtIn) ((rows.take k).flatMap Prod.fst) ((rows.take k).flatMap Prod.snd)
      (headerHit flips = true → exec (.expandTile m u t flips) s = .next (operandFault u.id t (.tensor t.g.val q.number t.frame) s1))
      ∧ (headerHit flips = false → crc32c (flipFrom flips 0 b) ≠ crc32c b →
          exec (.expandTile m u t flips) s = .next (operandFault u.id t (.tile { t with station := q.number }) s2))
      ∧ (flips = [] → ∃ v, exec (.expandTile m u t flips) s = .next v
          ∧ (∀ w ∈ us, ∃ o ∈ (v.unit w).opBuf, o.ref = t ∧ o.expanded = true ∧ o.acts = layoutActs st (c.2 - c.1) rows)
          ∧ (∀ w, (v.unit w).log = (s2.unit w).log) ∧ (∀ w, w ∉ us → v.unit w = s2.unit w) ∧ { v with units := s2.units } = s2))
    ∧ (∀ (q z : Station) (r : ExpandRec) (w : Ident) (s1 : State),
        expansionOf p st = some (q, r, z) → muleServes s m u.region = true → st.tiling.reuse ≠ 3 →
        (∀ v ∈ (if u.id < 32 then castActs st u.id else [u.id]), bufferRoom s v st t = true) → actsPresent s u.id p st t = false →
        readHeaders t.g t.frame [q.number, z.number] s = (some w, s1) →
      exec (.expandTile m u t flips) s = .next (operandFault u.id t w s1))
    ∧ (∀ (r : ExpandRec) (q : Station) (x0 x : StFrame) (s1 : State), st.params = .expand r → p.producer? st 0 = some q →
        stFrame? s t.g.val t.station t.frame = some x0 → muleServes s m (p.regionOf st) = true →
        x0.slotOpen = true → x0.abandoned = false → x0.stalled = false → readHeader t.g q.number t.frame 3 s = (none, s1) →
      (headerHit flips = true →
        exec (.verificationTile m t flips) s = .next (headerStall t.g.val t.station t.frame (.tensor t.g.val q.number t.frame) s1))
      ∧ (headerHit flips = false → skipCount s1 t.g.val p st x0 = 0 → stFrame? s1 t.g.val t.station t.frame = some x →
          x.next = t.index → t.index < x.limit → tileReady s1 t.g.val p st t.frame t.index = true → queuesOpen s1 t.g.val p st = true →
          let j := (nth (0, 0) (p.verTiles st r) t.index).2
          let y := readWhole t.g p q t.frame j (m.val / 4) flips s1
        (∀ o e c k d, y.1 = .good o e c k →
            ((stFrame? y.2 t.g.val q.number t.frame).bind fun f => f.descs.find? fun d => decide (d.index = j)) = some d →
          exec (.verificationTile m t flips) s = .next (resumeProducers t.g.val p st (finishStation t.g.val p st t.frame
            (modFrame t.g.val t.station t.frame (fun y => { y with
              next := y.next + 1, done := addNat t.index y.done
              descs := y.descs ++ [{ d with index := t.index, kind := 0, replay := false, last := false, shape := 0xFF }] }) y.2))))
        ∧ (y.1 = .wrong → exec (.verificationTile m t flips) s = .next (transferCheckFault t (.tile { t with station := q.number, index := j })
            (modFrame t.g.val t.station t.frame (fun y => { y with next := y.next + 1, issued := y.issued ++ [t.index] }) y.2)))))
    ∧ (∀ (q : Station) (n : Fin 4) (j : Nat) (s1 : State),
        let us := castSource s p st u.id
        muleServes s m u.region = true → p.producer? st n.val = some q → q.kind ≠ 2 → st.tiling.reuse ≠ 3 →
        (∀ v ∈ us, bufferRoom s v st t = true) → (wantedTiles s t.g.val p st t.frame t.index).contains (n.val, j) = true →
        (bufOf s u.id t).got.contains (n.val, j) = false → readHeader t.g q.number t.frame 3 s = (none, s1) → headerHit flips = false →
        let y := readWhole t.g p q t.frame j u.region flips s1
      (∀ o e c k, y.1 = .good o e c k → ∃ v, exec (.muleTransfer m t (.fetch u n j) flips) s = .next v
          ∧ (∀ w ∈ us, ∃ b ∈ (v.unit w).opBuf, b.ref = t ∧ (n.val, j) ∈ b.got ∧ ⟨n.val, j, o, e, c, k⟩ ∈ b.srcs)
          ∧ (∀ w, (v.unit w).log = (y.2.unit w).log) ∧ (∀ w, w ∉ us → v.unit w = y.2.unit w) ∧ { v with units := y.2.units } = y.2)
      ∧ (y.1 = .wrong → exec (.muleTransfer m t (.fetch u n j) flips) s
          = .next (operandFault u.id t (.tile { t with station := q.number, index := j }) y.2)))
    ∧ (∀ (r : MatmulRec) (a b c : Bytes) (s1 s2 s3 : State),
        let us := if u.id < 32 then castWeights st u.id else [u.id]
        let l := weightRanges p st r u.id t
        muleServes s m u.region = true → st.params = .matmul r → st.tiling.reuse ≠ 2 → (st.shape = 4 → u.id % 8 = 0) →
        (∀ v ∈ us, bufferRoom s v st t = true) → (bufOf s u.id t).weights = none →
        readConstants t.g u.region (nth [] l 0) s = (.data a, s1) → readConstants t.g u.region (nth [] l 1) s1 = (.data b, s2) →
        readConstants t.g u.region (nth [] l 2) s2 = (.data c, s3) →
      ∃ v, exec (.muleTransfer m t (.weights u) flips) s = .next v
        ∧ (∀ w ∈ us, ∃ o ∈ (v.unit w).opBuf, o.ref = t ∧ o.weights = some (a, b, c))
        ∧ (∀ w, (v.unit w).log = (s3.unit w).log) ∧ (∀ w, w ∉ us → v.unit w = s3.unit w) ∧ { v with units := s3.units } = s3)
    ∧ (∀ (q : Station) (y : StFrame) (rows : List (List Nat × List Nat)) (s1 s2 : State),
        let x := s.unit u.id
        let w := writeRowsOf (frameRows p st u.id t.frame) (residentBytes p st rows) s2
        muleServes s m u.region = true → p.producer? st 0 = some q → st.tiling.reuse = 3 → x.resetting = false →
        x.resident.contains (t.g, t.station, t.frame) = false → (∃ e ∈ x.log, e.ref = t) →
        (∀ e ∈ x.log, e.ref.g = t.g → e.ref.station = t.station → e.ref.frame % 2 = t.frame % 2 → e.ref.frame = t.frame) →
        stFrame? s t.g.val q.number t.frame = some y → y.lastSent = true → headerHit flips = false →
        readHeaders t.g t.frame (q.number :: ((expansionOf p st).map fun y => y.2.2.number).toList) s = (none, s1) →
        frameOperand u.id t flips p st q s1 = (.ok rows, s2) →
      ∃ v, exec (.muleTransfer m t (.resident u) flips) s = .next v ∧ (t.g, t.station, t.frame) ∈ (v.unit u.id).resident
        ∧ (∀ k, k ≠ u.id → v.unit k = w.unit k) ∧ { v with units := w.units } = w)
    ∧ (∀ (s1 : State), muleServes s m (m.val / 4) = true → readHeader t.g st.number t.frame 3 s = (none, s1) →
        let y := readWhole t.g p st t.frame t.index (m.val / 4) flips s1
      (headerHit flips = true →
        exec (.muleTransfer m t .copy flips) s = .next (transferCheckFault t (.tensor t.g.val st.number t.frame) s1))
      ∧ (headerHit flips = false → y.1 = .wrong → exec (.muleTransfer m t .copy flips) s = .next (transferCheckFault t (.tile t) y.2))
      ∧ (headerHit flips = false → y.1 ≠ .wrong → exec (.muleTransfer m t .copy flips) s = .next y.2))

/-! ## Cells, lanes and numbers -/

/-- Tier 2. ACCUMULATE (R53 to R61, R66, R72, R75): one beat of a chain whose head the block is moves every token one row
on and takes the next one, when its operands are in place, into row 0; each row writes the accumulator entry of the
tile whose token reaches it and no other, and the entry of a tile's last token closes; a masked cell of an integer
tile keeps its value; the stationary registers take a load wave together. A beat that cannot run changes nothing but
what its multicast sources release. ACCUMULATOR_DRAIN (R55, R58, R95): a quarter of the earliest closed entry of a row
leaves three beats after it closed; after the fourth, the row is in the output buffer and the entry is free.
VECTOR_LANE_OPERATION (R100, R371): a vector block in service puts each lane's result, with the bits a defect flips,
and counts one beat; a block that cannot accept a beat changes nothing. -/
def Obligations.CellsAndLanesCompute : Prop :=
  (∀ (b : Fin 32) (flips : List BeatFlip) (s : State),
       let s1 := releaseActs b.val (releaseWeights b.val s)
       ((s.unit b.val).status = .slice → working s = true → s.drained = false → (s.unit b.val).resetting = false →
         exec (.accumulate b flips) s = .next (sliceBeat b.val flips s))
       ∧ ((s.unit b.val).status ≠ .slice → (s.unit b.val).log = [] → exec (.accumulate b flips) s = .next s)
       ∧ (∀ e0 st rest, (s.unit b.val).status ≠ .slice → (s.unit b.val).log.head? = some e0 →
           stationOf s e0.ref.g.val e0.ref.station = some st → chainOf st b.val = b.val :: rest →
           let us := b.val :: rest
         (mayBeat s us = false → exec (.accumulate b flips) s = .next s)
         ∧ (mayBeat s us = true →
           (unfed? s1 b.val = none → exec (.accumulate b flips) s
               = .next (if unfinished s1 us && canAdvance s1 us none then advance us none flips s1 else s1))
           ∧ (∀ e r, unfed? s1 b.val = some e → runOf s1 e = some r →
             (operandsIn s1 b.val r e = false → exec (.accumulate b flips) s = .next s1)
             ∧ (operandsIn s1 b.val r e = true → r.count = 0 → exec (.accumulate b flips) s = .next (zeroTile us r e s1))
             ∧ (operandsIn s1 b.val r e = true → r.count ≠ 0 → nextToken s1 b.val r e = none → exec (.accumulate b flips) s = .next s1)
             ∧ (∀ tok, operandsIn s1 b.val r e = true → r.count ≠ 0 → nextToken s1 b.val r e = some tok →
               (canAdvance s1 us (some tok) = false → exec (.accumulate b flips) s = .next s1)
               ∧ (canAdvance s1 us (some tok) = true → exec (.accumulate b flips) s
                   = .next (advance us (some tok) flips (tokenTaken b.val r e (decide (tok.kind = .weights)) s1))))))))
  ∧ (∀ (b : Fin 32) (toks : List (Option StagTok)) (flips : List BeatFlip) (s : State), toks.length = 16 →
       let base := 16 * b.val
       let part (k : Nat) : RowBeat := rowBeat s base k (nth none toks k) flips
       let t := chainBeat [b.val] toks flips s
       dueChecks s b.val = [] → (∀ k, k < 16 → (part k).faults = []) →
       (∀ k, k < 16 → (t.row (base + k)).tok = (part k).regs.tok ∧ (t.row (base + k)).cells = (part k).regs.cells)
       ∧ (∀ k i e, k < 16 → (part k).entry = some (i, e) → t.accE (accKey (base + k) i) = e)
       ∧ (∀ key, (∀ k i e, k < 16 → (part k).entry = some (i, e) → key ≠ accKey (base + k) i) → t.accE key = s.accE key)
       ∧ (∀ row, (row < base ∨ base + 16 ≤ row) → t.row row = s.row row)
       ∧ (∀ v, v ≠ b.val → t.unit v = s.unit v) ∧ (t.unit b.val).beat = (s.unit b.val).beat + 1
       ∧ (t.unit b.val).log = (s.unit b.val).log ∧ { t with rows := s.rows, acc := s.acc, units := s.units } = s
       ∧ (∀ k y z, k < 16 → flips = [] → toks.head? = some (some z) → z.kind = .load → z.last = true → nth none toks k = some y →
           y.kind = .load → (t.row (base + k)).stat = y.data ∧ (t.row (base + k)).statScale = y.scales))
  ∧ (∀ (base k i : Nat) (y : StagTok) (s : State), y.kind ≠ .load → entryFor s (base + k) y.ref = some i →
       let old := s.accE (accKey (base + k) i)
       ∃ e, (rowBeat s base k (some y) []).entry = some (i, e) ∧ e.owner = some y.ref ∧ e.float = !y.fmt.isInt ∧ e.cells.length = 64
         ∧ e.state = (if y.last then .closed else .accumulating) ∧ e.closedAt = (s.unit ((base + k) / 16)).beat
         ∧ e.masked = maskBits s (base + k) y.ref
         ∧ (∀ c, c < 64 → y.kind = .initial → nth false e.masked c = false →
             (nth (0#32, 0) e.cells c).1 = BitVec.ofNat 32 (leVal (slice y.data.bytes (4 * c) 4)))
         ∧ (∀ c, c < 64 → nth false e.masked c = true →
             (y.kind = .initial → (nth (0#32, 0) e.cells c).1 = 0#32)
             ∧ (y.kind = .weights → y.fmt.isInt = true → old.state ≠ .free → (nth (0#32, 0) e.cells c).1 = (nth (0#32, 0) old.cells c).1)))
  ∧ (∀ (b : Fin 32) (row : Fin 16) (entry : Fin 32) (s : State),
       let k := accKey (16 * b.val + row.val) entry.val
       let e := s.accE k
       let bad := (s.unit b.val).checks.filter fun c => decide (c.2.1 = row.val)
       (rowDue s (16 * b.val + row.val) = none → exec (.accumulatorDrain b row entry) s = .next s)
       ∧ (∀ i due, rowDue s (16 * b.val + row.val) = some (i, due) →
         ((i ≠ entry.val ∨ (due > (s.unit b.val).beat ∧ awaitsEntry s b.val = false)) → exec (.accumulatorDrain b row entry) s = .next s)
         ∧ (i = entry.val → (due ≤ (s.unit b.val).beat ∨ awaitsEntry s b.val = true) → (s.unit b.val).resetting = false → s.drained = false →
           (bad ≠ [] → exec (.accumulatorDrain b row entry) s
             = .next (cellFaults b.val (bad.map fun c => (Src.CELL_RESIDUE, Ident.cell b.val c.2.1 c.2.2))
                 (s.setUnit b.val { s.unit b.val with checks := (s.unit b.val).checks.filter fun c => !decide (c.2.1 = row.val) })))
           ∧ (bad = [] → ∃ t, exec (.accumulatorDrain b row entry) s = .next t ∧ (∀ j, j ≠ k → t.accE j = s.accE j)
             ∧ (e.quarter < 3 → t.accE k = { e with state := .draining, quarter := e.quarter + 1 }
                 ∧ (t.unit b.val).outBuf = (s.unit b.val).outBuf)
             ∧ (3 ≤ e.quarter → t.accE k = {} ∧ (t.unit b.val).outBuf = (s.unit b.val).outBuf ++ outRow s b.val row.val due e)
             ∧ (∀ v, v ≠ b.val → t.unit v = s.unit v) ∧ { t with acc := s.acc, units := s.units } = s))))
  ∧ (∀ (v : Fin 8) (op : VOp) (int : Bool) (fmt : Fmt) (a b c : LaneSrc) (flips : List (Nat × BitVec 32)) (s : State),
       let u := 32 + v.val
       let ready := working s = true ∧ (s.unit u).resetting = false ∧ (s.unit u).status = .inService ∧ s.drained = false ∧ mayAccept s u = true
       let arg (x : LaneSrc) (i : Nat) : BitVec 32 := nth 0#32 (laneOperand s v.val x) i
       (¬ ready → exec (.vectorLaneOperation v op int fmt a b c flips) s = .next s)
       ∧ (ready → ∃ t, exec (.vectorLaneOperation v op int fmt a b c flips) s = .next t
         ∧ (let x := laneResults op int fmt (fromInput a) (laneOperand s v.val a) (laneOperand s v.val b) (laneOperand s v.val c);
            t.laneV v.val = flipLanes flips x.1 ++ x.2)
         ∧ (∀ i, i < 512 → op ≠ .load → op ≠ .store → (∀ f ∈ flips, f.1 ≠ i) →
             nth 0#32 (t.laneV v.val) i = (if int then intLane op (arg a i) (arg b i) (arg c i) else fpLane op (arg a i) (arg b i) (arg c i)))
         ∧ (∀ w, w ≠ v.val → t.laneV w = s.laneV w) ∧ (∀ w, w ≠ u → t.unit w = s.unit w)
         ∧ (t.unit u).beat = (s.unit u).beat + 1 ∧ { t with lanes := s.lanes, units := s.units } = s))

/-- Tier 2. Integer accumulation (R89): the products and the accumulator are added exactly modulo 2^32, with no
saturation. The residue check of an integer cell (R72): it passes on every sum, a wrapped one included, and fails when
one bit of the new value is wrong. -/
def Obligations.IntegerAccumulationWrapsAndIsChecked : Prop :=
  (∀ (f : Fmt) (acc : Option (BitVec 32 × Nat)) (w b : BitVec 64) (xw xa : Nat), f.isInt = true →
       (cellAccumulate f acc w b xw xa 0#32).1
         = ((acc.map fun a => a.1).getD 0#32) + BitVec.ofInt 32 (intProducts f w b).sum)
  ∧ (∀ (f : Fmt) (a : BitVec 32) (w b : BitVec 64) (i : Nat), f.isInt = true → i < 32 →
       (intAccumulate f (some (a, res3 a.toInt)) w b 0#32).2.2 = true
       ∧ (intAccumulate f (some (a, res3 a.toInt)) w b (1#32 <<< i)).2.2 = false)

/-- Tier 3. Every code of every number format (R80, R82, R96, R97) stands for a value that converts back to exactly
that code, but for the codes of a NaN. -/
def Obligations.NumberCodesSurviveConversion : Prop :=
  ∀ (f : Fmt) (c : Nat), c < 2 ^ f.width → decodeElem f c ≠ .nan → toElem f (decodeElem f c) = c

/-! ## Memories -/

/-- Tier 2. DRAM_READ and DRAM_SCRUB (R243, R245, R246, R249): a clean burst is counted and nothing else changes; one
wrong symbol is corrected on the way and counted against its channel, and a scrub writes it back; more is
uncorrectable, counted and left, and a unit that reads it replays its tile. An address outside the device stops. The
code of a burst (R242, R243): a burst without a wrong symbol is clean, and one wrong symbol of data or check is found
in its place and corrected, whatever its value. -/
def Obligations.DramReadsAndScrubs : Prop :=
  (∀ (addr : Nat) (g : Option (Fin 64)) (cls : Fin 5) (unit : Option UnitRef) (err : BurstErr) (s : State),
       let n := addr / 32
       let e := mergeErr (s.burstErr n) err
       let c := (countRead g cls.val s).setBurstErr n e
       let d := (countRead none 4 s).setBurstErr n e
       (addr < s.capacity →
         (decodeBurst e = .clean → exec (.dramRead addr g cls unit err) s = .next c ∧ exec (.dramScrub n err) s = .next d)
         ∧ (∀ f, decodeBurst e = .corrected f →
           exec (.dramRead addr g cls unit err) s = .next (raise Src.DRAM_CORR (.channel (channelOf (32 * n))) (c.bump (Reg.DRAM_CORR (channelOf (32 * n)))))
           ∧ ∃ t, exec (.dramScrub n err) s = .next t
               ∧ t = (raise Src.DRAM_CORR (.channel (channelOf (32 * n))) (d.bump (Reg.DRAM_CORR (channelOf (32 * n))))).setBurstErr n (mergeErr e [f]))
         ∧ (decodeBurst e = .uncorrectable →
           let who : Ident := .dram (channelOf (32 * n)) (channelAddress (32 * n))
           let x := raise Src.DRAM_UNCORR who (c.bump (Reg.DRAM_UNCORR (channelOf (32 * n))));
           exec (.dramRead addr g cls unit err) s = .next ((unit.map fun u => replayCurrent u.id who x).getD x)
           ∧ exec (.dramScrub n err) s = .next (raise Src.DRAM_UNCORR who (d.bump (Reg.DRAM_UNCORR (channelOf (32 * n)))))))
       ∧ (s.capacity ≤ addr → exec (.dramRead addr g cls unit err) s = .fault .dramAddress)
       ∧ (s.capacity ≤ 32 * n → exec (.dramScrub n err) s = .fault .dramAddress)
       ∧ c.mem = s.mem ∧ d.mem = s.mem ∧ (∀ j, j ≠ n → c.burstErr j = s.burstErr j))
  ∧ (decodeBurst [] = .clean ∧ ∀ (i : Fin 40) (v : Byte), 4 ≤ i.val → v ≠ 0#8 →
       decodeBurst [(i, v)] = .corrected (i, v) ∧ residual [(i, v)] = [])

/-- Tier 2. DRAM_PARTIAL_WRITE (R244): the bytes that fall into the burst are stored in it, at their address, and no
other byte of DRAM changes; a whole burst needs no read, less reads the burst first and stores nothing into an
uncorrectable one. -/
def Obligations.PartialWritesStoreTheirBytes : Prop :=
  ∀ (addr : Nat) (bytes : Bytes) (g : Option (Fin 64)) (cls : Fin 5) (err : BurstErr) (s : State),
    let n := addr / 32
    let b := bytes.take (32 - addr % 32)
    let e := mergeErr (s.burstErr n) err
    (addr < s.capacity → ∃ t, exec (.dramPartialWrite addr bytes g cls err) s = .next t
      ∧ (∀ a, (a < 32 * n ∨ 32 * n + 32 ≤ a) → t.memByte a = s.memByte a)
      ∧ ((b.length = 32 ∨ decodeBurst e ≠ .uncorrectable) →
          (∀ i (h : i < b.length), t.memByte (addr + i) = b[i]) ∧ (b ≠ [] → t.burstErr n = []))
      ∧ ((b.length = 32 ∨ e = []) → ∀ a, (a < addr ∨ addr + b.length ≤ a) → t.memByte a = s.memByte a)
      ∧ (b.length < 32 → decodeBurst e = .uncorrectable → ∀ a, t.memByte a = s.memByte a))
    ∧ (s.capacity ≤ addr → exec (.dramPartialWrite addr bytes g cls err) s = .fault .dramAddress)

/-- Tier 2. DRAM_WRITE_INVALIDATE (R226) and DRAM_REFRESH (R247): a write from outside the fabric empties the lines of
what it writes; with nothing cached and no burst in error its bytes are in DRAM and every other byte stays. A refresh
changes nothing. -/
def Obligations.OutsideWritesInvalidateCachedLines : Prop :=
  ∀ (addr : Nat) (bytes : Bytes) (cls : Fin 5) (channel : Fin 32) (bank : Nat) (s : State),
    (addr + bytes.length ≤ s.capacity →
      exec (.dramWriteInvalidate addr bytes cls) s = .next (outsideWrite addr bytes cls.val s)
      ∧ (s.lines = [] → (∀ n, s.burstErr n = []) →
          (∀ i (h : i < bytes.length), (outsideWrite addr bytes cls.val s).memByte (addr + i) = bytes[i])
          ∧ (∀ a, (a < addr ∨ addr + bytes.length ≤ a) → (outsideWrite addr bytes cls.val s).memByte a = s.memByte a)))
    ∧ (∀ (r : Fin 4) (a : Nat) (cov : List Nat), ((s.set (setKey r.val a)).filter fun l => l.has a).length ≤ 1 →
        ∀ l ∈ (invalidateLine r.val a cov s).set (setKey r.val a), l.has a = false)
    ∧ (s.capacity < addr + bytes.length → exec (.dramWriteInvalidate addr bytes cls) s = .fault .dramAddress)
    ∧ exec (.dramRefresh channel bank) s = .next s

/-- Tier 2. REGION_CACHE_READ (R225, R229, R231, R245): what the rule for the address says is read through the region
cache or past it, and a unit whose sector brings no data replays its tile. A valid sector that is not poisoned is a
hit that changes no data; a wrong tag is corrected, or its line is lost. ONCHIP_SCRUB of a cached word (R229): what it
finds wrong is refetched, poisoned or, in a tag, invalidates the line. -/
def Obligations.RegionCacheReads : Prop :=
  ∀ (r : Fin 4) (g : Fin 64) (addr : Nat) (sectors : List (Fin 4)) (unit : Option UnitRef) (err : List (Fin 4 × ReadErr))
      (tag : ReadErr) (s : State),
    (addr < s.capacity →
      let c := accessCached s r.val addr
      let s1 := if c then cachedRead r.val g addr sectors err tag s else uncachedRead r.val g addr sectors s
      ((unit = none ∨ lostSector s1 r.val addr c sectors = none) →
        exec (.regionCacheRead r g addr sectors unit err tag) s = .next s1)
      ∧ (∀ u n, unit = some u → lostSector s1 r.val addr c sectors = some n →
        exec (.regionCacheRead r g addr sectors unit err tag) s
          = .next (replayCurrent u.id (.dram (channelOf (32 * n)) (channelAddress (32 * n))) s1)))
    ∧ (s.capacity ≤ addr → exec (.regionCacheRead r g addr sectors unit err tag) s = .fault .dramAddress)
    ∧ ((∀ x ∈ s.space, addr < x.base ∨ x.base + x.size ≤ addr) → accessCached s r.val addr = true)
    ∧ (∀ x k st p q, s.space.find? (fun x => decide (x.base ≤ addr) && decide (addr < x.base + x.size)) = some x →
        x.owner = .tensor k st → (s.slot k).pkg = some p → stationOf s k st = some q →
        (q.crossRegion = true → accessCached s r.val addr = false)
        ∧ (q.crossRegion = false → q.kind ≠ 1 → (accessCached s r.val addr = true ↔ stationRegions p q = [r.val])))
    ∧ (∀ (w i : Nat) (l : CacheLine), (s.set (setKey r.val addr))[w]? = some l → l.has addr = true →
        (s.set (setKey r.val addr)).findIdx? (fun l => l.has addr) = some w → nth false l.valid i = true → nth false l.poison i = false →
      allocWay r.val g.val addr s = (w, s)
      ∧ readSector r.val (setKey r.val addr) w addr i g .none s = s.bump (Reg.RC_HITS r.val)
      ∧ readSector r.val (setKey r.val addr) w addr i g .single s = raise Src.RC_CORR (.cache r.val) (s.bump (Reg.RC_HITS r.val))
      ∧ readTag r.val addr .none s = s ∧ readTag r.val addr .single s = raise Src.RC_CORR (.cache r.val) s
      ∧ readTag r.val addr .double s = raise Src.RC_UNCORR (.cache r.val) (modLine (setKey r.val addr) w (fun _ => emptyLine) s)
      ∧ (i = addr / 32 % 4 → ∀ e,
        (secDed s e = 1 → exec (.onchipScrub (.regionData r addr) e) s = .next (raise Src.RC_CORR (.cache r.val) s).nextFree)
        ∧ (secDed s e = 2 → nth false l.dirty i = true → exec (.onchipScrub (.regionData r addr) e) s = .next (raise Src.RC_UNCORR (.cache r.val)
            (modLine (setKey r.val addr) w (fun l => { l with poison := setAt false i true l.poison }) s)).nextFree)
        ∧ (secDed s e = 2 → nth false l.dirty i = false → exec (.onchipScrub (.regionData r addr) e) s = .next (raise Src.RC_CORR (.cache r.val)
            (fetchSector r.val (setKey r.val addr) w addr i (Fin.ofNat 64 (l.slot - 1)) s)).nextFree)))
    ∧ (∀ (set way : Nat) (e : ReadErr),
        let k := 4096 * r.val + set % 4096;
        (secDed s e = 0 → exec (.onchipScrub (.regionData r addr) e) s = .next s.nextFree
          ∧ exec (.onchipScrub (.regionTag r set way) e) s = .next s.nextFree)
        ∧ (way < 16 → secDed s e = 1 → exec (.onchipScrub (.regionTag r set way) e) s = .next (raise Src.RC_CORR (.cache r.val) s).nextFree)
        ∧ (way < 16 → way < (s.set k).length → secDed s e = 2 → exec (.onchipScrub (.regionTag r set way) e) s
            = .next (raise Src.RC_UNCORR (.cache r.val) (modLine k way (fun _ => emptyLine) s)).nextFree))

/-- Tier 1. SCRATCHPAD_READ and ONCHIP_MEMORY_READ complete (R204, R228, R229): a read of a word without an error, whatever
the word and its reader, changes nothing but the drawn free value; one wrong bit is corrected, reported with the word's
identity, and the word is clean again. -/
def Obligations.OnchipReadsComplete : Prop :=
  ∀ (b : Fin 32) (row : Fin 8192) (word : Fin 64) (reader : UnitRef) (use : RowUse) (o : OnchipWord) (s : State),
    exec (.onchipMemoryRead o .none) s = .next s.nextFree
    ∧ exec (.onchipMemoryRead o .single) s = .next (raise Src.ONCHIP_CORR (.memory o) s.nextFree)
    ∧ (bankPower s b.val (row.val / 512) = 1 → s.sramErr (wordKey b.val row.val word.val) = 0 →
      exec (.scratchpadRead b row word ⟨reader, use⟩ .none) s = .next s.nextFree
      ∧ ∃ t, exec (.scratchpadRead b row word ⟨reader, use⟩ .single) s = .next (raise Src.SCRATCH_CORR (.word b.val row.val word.val) t)
          ∧ t.sramErr (wordKey b.val row.val word.val) = 0 ∧ { t with sram := s.sram } = s.nextFree)

/-- Tier 2. SCRATCHPAD_READ, ONCHIP_MEMORY_READ and ONCHIP_SCRUB (R204, R228, R229, R230, R232): what is found in a
word is the worse of what the read meets and what the word was left with. Nothing wrong changes nothing; one wrong bit
is corrected and reported; more is reported, the reading unit replays its tile, and what held the word is treated as
lost. A bank that is off or in retention is neither read nor scrubbed, and what a unit under test finds uncorrectable
is its test's. -/
def Obligations.OnchipWordsAreCheckedOnRead : Prop :=
  ∀ (b : Fin 32) (row : Fin 8192) (word : Fin 64) (reader : UnitRef) (use : RowUse) (o : OnchipWord) (e : ReadErr) (s : State),
    let k := wordKey b.val row.val word.val
    let v := wordVerdict s k e
    let who : Ident := .word b.val row.val word.val
    (bankPower s b.val (row.val / 512) = 1 →
      (v = 0 → exec (.scratchpadRead b row word ⟨reader, use⟩ e) s = .next s.nextFree
        ∧ exec (.onchipScrub (.scratch b row.val word.val) e) s = .next s.nextFree)
      ∧ (v = 1 → exec (.scratchpadRead b row word ⟨reader, use⟩ e) s = .next (raise Src.SCRATCH_CORR who (s.nextFree.setSramErr k 0))
        ∧ exec (.onchipScrub (.scratch b row.val word.val) e) s
            = .next (raise Src.SCRATCH_CORR who (s.setSramErr k 0)).nextFree)
      ∧ (v = 2 → ((s.unit reader.id).status = .inTest →
            exec (.scratchpadRead b row word ⟨reader, use⟩ e) s = .next (s.nextFree.setSramErr k 2))
        ∧ ((s.unit reader.id).status ≠ .inTest → exec (.scratchpadRead b row word ⟨reader, use⟩ e) s = .next (
            let t := replayCurrent reader.id (.word b.val row.val 0) (s.nextFree.setSramErr k 2);
            raise Src.SCRATCH_UNCORR who (if use = .window ∨ use = .other then t else rewriteRow b.val row.val t)))
        ∧ exec (.onchipScrub (.scratch b row.val word.val) e) s
            = .next (raise Src.SCRATCH_UNCORR who (s.setSramErr k 2)).nextFree)
      ∧ v ≤ 2 ∧ (s.sramErr k = 0 → (e = .none → v = 0) ∧ (e = .single → v = 1) ∧ (e = .double → v = 2)))
    ∧ (bankPower s b.val (row.val / 512) ≠ 1 → exec (.scratchpadRead b row word ⟨reader, use⟩ e) s = .next s
      ∧ exec (.onchipScrub (.scratch b row.val word.val) e) s = .next s.nextFree)
    ∧ (secDed s e = 0 → exec (.onchipMemoryRead o e) s = .next s.nextFree ∧ exec (.onchipScrub (.other o) e) s = .next s.nextFree)
    ∧ (secDed s e = 1 → exec (.onchipMemoryRead o e) s = .next (raise Src.ONCHIP_CORR (.memory o) s.nextFree)
      ∧ exec (.onchipScrub (.other o) e) s = .next (raise Src.ONCHIP_CORR (.memory o) s).nextFree)
    ∧ (secDed s e = 2 → exec (.onchipMemoryRead o e) s = .next (onchipLoss o (raise Src.ONCHIP_UNCORR (.memory o) s.nextFree))
      ∧ exec (.onchipScrub (.other o) e) s = .next (raise Src.ONCHIP_UNCORR (.memory o) s).nextFree)

/-! ## Redundancy, tasks and the gate -/

/-- Tier 2. PAIR_COMPARE, BLOCK_RESET_COMPLETE and GOOSE_COMPARE (R108, R347, R372, R375, R377): equal windows let both
copies go on, different ones restart them; a reset unit runs its replay set next; the output that a Goose recomputes
from a sample's retained inputs, with the bits its defects flip, only counts when it equals the block's and is a fault
when it does not. -/
def Obligations.CopiesAreComparedAndRestarted : Prop :=
  ∀ (u : UnitRef) (r : Fin 4) (codes scales : List Nat) (s : State),
    (∀ (v : Nat) (x y : Nat × BitVec 64) (lx ly : List (Nat × BitVec 64)),
        let a := if isCopyA s u.id then u.id else v
        let b := if isCopyA s u.id then v else u.id
        partner s u.id = some v → v ≠ u.id → (s.unit a).closed = x :: lx → (s.unit b).closed = y :: ly → s.drained = false →
        (s.unit a).resetting = false → (s.unit b).resetting = false →
      (x = y → ∃ t, exec (.pairCompare u) s = .next t
        ∧ (t.unit a).closed = lx ∧ (t.unit b).closed = ly ∧ (t.unit a).compared = x.1 + 1 ∧ (t.unit b).compared = x.1 + 1
        ∧ (t.unit a).log = (s.unit a).log ∧ (∀ e ∈ (t.unit b).log, e ∈ (s.unit b).log)
        ∧ (∀ w, w ≠ a → w ≠ b → t.unit w = s.unit w) ∧ { t with units := s.units } = s)
      ∧ (x ≠ y → exec (.pairCompare u) s = .next (pairMismatch a b x.1 s)))
    ∧ ((s.unit u.id).resetting = true → s.drained = false →
        let live (e : LogEntry) : Bool := !tileAbandoned s e.ref;
      ∃ t, exec (.blockResetComplete u) s = .next t ∧ (t.unit u.id).resetting = false ∧ (t.unit u.id).beat = 0
        ∧ (t.unit u.id).replay = (s.unit u.id).replay.filter live ∧ (t.unit u.id).log = (s.unit u.id).log.filter live
        ∧ (∀ k, t.r k = s.r k) ∧ { t with units := s.units, wins := s.wins } = s)
    ∧ (∀ (x : Sample) (l : List Sample), (s.goose r.val).samples = x :: l → s.drained = false →
        let n := (s.setGoose r.val { s.goose r.val with samples := l }).bump (Reg.GOOSE_SAMPLES r.val);
        let c := flipCodes codes (gooseOutput s x).1;
        let k := flipCodes scales (gooseOutput s x).2;
      (c = x.codes → k = x.scales → exec (.gooseCompare r ⟨codes, scales⟩) s = .next n)
      ∧ ((c ≠ x.codes ∨ k ≠ x.scales) → exec (.gooseCompare r ⟨codes, scales⟩) s = .next (
          let m := raise Src.GOOSE_MISMATCH (.sample x.block.val x.ref)
            (markStation x.ref.g.val x.ref.station x.ref.frame Fsw.CHECK_MISMATCH n);
          if (s.unit x.block.val).resetting then m else occurrence Src.GOOSE_MISMATCH x.block.val m)))
    ∧ (∀ l : List Nat, flipCodes [] l = l)

/-- Tier 2. TASK_BUDGET_EXPIRY and TASK_ALIVE_EXPIRY (R357, R359, R360, R361): before its limit a task monitor does
nothing; at it a finished frame is on time, an unfinished one is marked, raised, counted and abandoned; a task that
has not run for its ALIVE_MAX is counted and raised, and its next limit follows. -/
def Obligations.TaskMonitorsExpire : Prop :=
  ∀ (m : Fin 256) (frame : Nat) (s : State),
    let g := s.r (Reg.MON_GRAPH m.val)
    let span := 1000 * s.r (Reg.MON_ALIVE_MAX m.val)
    (∀ p, (s.mon m.val).running.find? (fun p => p.1 = frame) = some p →
      (s.t3 < p.2 + 1000 * s.r (Reg.MON_BUDGET m.val) → exec (.taskBudgetExpiry m frame) s = .next s)
      ∧ (s.drained = false → p.2 + 1000 * s.r (Reg.MON_BUDGET m.val) ≤ s.t3 →
        (taskDone s m.val frame = true → taskAbandoned s m.val frame = false →
          exec (.taskBudgetExpiry m frame) s = .next (completeTask m.val frame p.2 s))
        ∧ (taskDone s m.val frame = true → taskAbandoned s m.val frame = true →
          exec (.taskBudgetExpiry m frame) s = .next (endTask m.val frame s))
        ∧ (taskDone s m.val frame = false →
          exec (.taskBudgetExpiry m frame) s = .next (overrun m.val frame s))))
    ∧ (g ≠ 0 → span ≠ 0 → s.drained = false → 3 ≤ gstate s (g - 1) →
      (s.t3 < (s.mon m.val).since + span → exec (.taskAliveExpiry m) s = .next s)
      ∧ ((s.mon m.val).since + span ≤ s.t3 → exec (.taskAliveExpiry m) s = .next (raise Src.TASK_ALIVE (.monitor m.val)
          ((s.setMon m.val { s.mon m.val with since := (s.mon m.val).since + span }).bump (Reg.MON_ALIVE_FAULTS m.val)))))

/-- Tier 2. GATE_RELEASE and GATE_WITHHOLD_TIMEOUT (R121, R349, R351, R352, R354): a record whose data is complete
leaves once its checks have closed or a mark withholds VALID, and not before an earlier one of its station, after which
the empty records that waited for it follow (that a withheld one keeps this order too is the model's reading,
notes/assumptions/122.md); 10 ms after a withholding mark a record without its data leaves empty. The gate reads the
record's payload from DRAM (that it does is the model's reading, notes/assumptions/129.md); a tile whose check word
differs is a TILE_CHECK, and no record is formed of it. -/
def Obligations.TheGateReleasesRecords : Prop :=
  ∀ (g : Fin 64) (station frame : Nat) (s : State) (p : PublishRec) (x : StFrame),
    publishOf s g.val station = some p → stFrame? s g.val station frame = some x → x.released = false → s.drained = false →
    (x.abandoned = false → x.stalled = false → dataComplete s g.val station frame = true →
      let t := if x.handed then s else handRecord g.val station frame s
      let open_ := checksClosed t g.val station frame = true
        ∨ fswWithheld (recordWord t g.val station frame) (t.r (Reg.WITHHOLD g.val)) = true
      (earlierWaits t g.val station frame = true → exec (.gateRelease g station frame) s = .next t)
      ∧ (earlierWaits t g.val station frame = false → ¬ open_ → exec (.gateRelease g station frame) s = .next t)
      ∧ (earlierWaits t g.val station frame = false → open_ →
          exec (.gateRelease g station frame) s = .next (releaseWhole g station frame t)))
    ∧ ((x.abandoned = true ∨ x.stalled = true ∨ dataComplete s g.val station frame = false) →
        exec (.gateRelease g station frame) s = .next s)
    ∧ (x.abandoned = true → exec (.gateWithholdTimeout g station frame) s = .next s)
    ∧ (∀ (t s1 : State) (b : Bytes), recordPayload g station frame t = (.ok b, s1) → releaseWhole g station frame t
        = (flushRecords g.val station (releaseRecord g.val station frame 0 b s1)).nextFree)
    ∧ (∀ (t s1 : State) (z : TileRef), recordPayload g station frame t = (.error (.tile z), s1) → releaseWhole g station frame t
        = modFrame g.val station frame (fun x => { x with stalled := true })
            (raise Src.TILE_CHECK (.tile z) (markStation g.val station frame Fsw.CHECK_MISMATCH s1)))
    ∧ (∀ d, x.abandoned = false → x.markAt = some d →
      (s.t3 < d + 10000000 → exec (.gateWithholdTimeout g station frame) s = .next s)
      ∧ (d + 10000000 ≤ s.t3 → (dataComplete s g.val station frame = false ∨ x.stalled = true) →
        exec (.gateWithholdTimeout g station frame) s = .next (freeOutBufs (abandonStation g.val station frame s)))
      ∧ (d + 10000000 ≤ s.t3 → dataComplete s g.val station frame = true → x.stalled = false →
        exec (.gateWithholdTimeout g station frame) s
          = .next (if earlierWaits s g.val station frame then s else releaseWhole g station frame s)))

/-- Tier 2. What a released record is (R350, R351, R435, R489, R490): its word has VALID exactly when it has a
payload, no mark that WITHHOLD names, and the device is neither in the safe state nor drained, nor the frame older
than the last exit from it; it takes the stream's next SEQ and waits behind the stream's other records, of which a
fifth pushes the oldest out. -/
def Obligations.ReleasedRecordsCarryTheirVerdict : Prop :=
  ∀ (g : Fin 64) (st f kind : Nat) (payload : Bytes) (s : State) (p : PublishRec),
    publishOf s g.val st = some p → p.overlayTarget = false → p.stream < 32 →
    let t := releaseRecord g.val st f kind payload s
    let word := recordWord s g.val st f
    let valid : Prop := kind = 0 ∧ fswWithheld word (s.r (Reg.WITHHOLD g.val)) = false ∧ s.safe = false ∧ s.drained = false
      ∧ (s.slot g.val).admitAfter ≤ f
    let before := waitingOf s p.stream
    ∃ x, waitingOf t p.stream = (before ++ [x]).drop (if before.length < 4 then 0 else 1)
      ∧ x.seq = s.r (Reg.STR_SEQ p.stream) ∧ x.payload = payload ∧ x.graph = g.val + 1 ∧ x.kind = kind ∧ x.frameNo = f
      ∧ (valid → x.word = fswMark word Fsw.VALID ∧ t.r (Reg.GATE_VALID g.val) = s.oneMore (Reg.GATE_VALID g.val))
      ∧ (¬ valid → x.word = word ∧ t.r (Reg.GATE_NOT_VALID g.val) = s.oneMore (Reg.GATE_NOT_VALID g.val))
      ∧ t.r (Reg.STR_SEQ p.stream) = (s.r (Reg.STR_SEQ p.stream) + 1) % 2 ^ 32
      ∧ (∀ n, n ≠ p.stream → waitingOf t n = waitingOf s n) ∧ (∀ h, h ≠ g.val → t.slot h = s.slot h)
      ∧ { t with regs := s.regs, slots := s.slots, net := s.net } = s

/-- Tier 2. RECORD_TX_START (R476, R479, R490, R491, R492): the oldest waiting record starts. On a CAN controller on its
bus, and on an Ethernet port whose link is up, whose gates are always open and whose shaper has credit, it leaves at
once and is charged to its queue's credit; on a controller off its bus and in a queue without credit it waits, on a port
whose link is down it is dropped and counted. -/
def Obligations.TheOldestRecordStarts : Prop :=
  ∀ (n : Fin 32) (s : State) (x : Rec) (rest : List Rec), waitingOf s n.val = x :: rest →
    let e := s.r (Reg.STR_PORT n.val)
    (e < 2 → exec (.recordTxStart n) s = .next (startEth e n.val x rest s))
    ∧ (e < 2 → s.on (Reg.STR_FRER n.val) = false →
      (ethUp s e = false → ∃ t, exec (.recordTxStart n) s = .next t ∧ waitingOf t n.val = rest ∧ t.wire = s.wire
        ∧ Becomes s t (setWaiting n.val rest s) [(Reg.NET_TX_DISCARDED e, s.oneMore (Reg.NET_TX_DISCARDED e))])
      ∧ (ethUp s e = true → alwaysOpen s e (queueOf (s.r (Reg.STR_VLAN1 n.val))) = true →
        (shaperOpen s e (queueOf (s.r (Reg.STR_VLAN1 n.val))) = false → exec (.recordTxStart n) s = .next s)
        ∧ (shaperOpen s e (queueOf (s.r (Reg.STR_VLAN1 n.val))) = true → ∃ t, exec (.recordTxStart n) s = .next t ∧ waitingOf t n.val = rest
          ∧ t.wire = s.wire ++ [.record e (s.r (Reg.STR_DEST_MAC n.val)) (s.r (Reg.STR_VLAN1 n.val)) none (s.blob (Reg.STR_DEST_IP n.val))
              (s.r (Reg.STR_SRC_UDP n.val)) (s.r (Reg.STR_DST_UDP n.val)) (recordBytes s x x.word)]
          ∧ t.r (Reg.STR_SENT n.val) = s.oneMore (Reg.STR_SENT n.val) ∧ t.r (Reg.NET_TX_FRAMES e) = s.oneMore (Reg.NET_TX_FRAMES e)
          ∧ t.net = (chargeQueue e n.val x ⟨s.r (Reg.STR_DEST_MAC n.val), s.r (Reg.STR_VLAN1 n.val)⟩ (setWaiting n.val rest s)).net)))
    ∧ (4 ≤ e → e < 8 →
      (canUp s (e - 4) = false → exec (.recordTxStart n) s = .next s)
      ∧ (canUp s (e - 4) = true → ∃ t, exec (.recordTxStart n) s = .next t ∧ waitingOf t n.val = rest
        ∧ t.wire = s.wire ++ [.canRecord (e - 4) (s.r (Reg.STR_CAN_ID n.val)) (canPad (recordBytes s x x.word))]
        ∧ Becomes s t ((setWaiting n.val rest s).emit (.canRecord (e - 4) (s.r (Reg.STR_CAN_ID n.val)) (canPad (recordBytes s x x.word))))
            [(Reg.STR_SENT n.val, s.oneMore (Reg.STR_SENT n.val)), (Reg.CAN_TX_FRAMES (e - 4), s.oneMore (Reg.CAN_TX_FRAMES (e - 4)))]))

/-! ## The supervisor, fuses and faults -/

/-- Tier 2. VOTE (R386, R387, R388, R389): three equal transactions, and two equal ones while the third is awaited or
resynchronises, issue; a core that disagrees with two equal ones dissents; without two equal ones, or with different
circuits, the supervisor is handed over. CTRL_WINDOW_COMPARE, DISSENT_TIMEOUT and RESYNC_COMPLETE (R383, R384, R386,
R387): equal signatures make a control pair's stores leave, different ones discard them and count; a core that stays
silent dissents, a resynchronisation ends and is counted. -/
def Obligations.SupervisorAndControlPairs : Prop :=
  (∀ (a b : Nat) (s : State), s.sys.handover = false →
       exec (.vote (some a) (some a) (some a) true) s = .next (handover (raise Src.VOTER_CHECK .none s))
       ∧ (s.sup.resync = none →
         exec (.vote (some a) (some a) (some a) false) s = .next (issueTransaction a s)
         ∧ (a ≠ b →
           exec (.vote (some a) (some a) (some b) false) s = .next (dissent 2 (issueTransaction a s))
           ∧ exec (.vote (some a) (some b) (some a) false) s = .next (dissent 1 (issueTransaction a s))
           ∧ exec (.vote (some b) (some a) (some a) false) s = .next (dissent 0 (issueTransaction a s))
           ∧ (∀ c, c ≠ a → c ≠ b → exec (.vote (some a) (some b) (some c) false) s = .next (handover s)))
         ∧ exec (.vote (some a) (some a) none false) s = .next (awaitCore 2 true (sfind 2 s.sup.dissentAt) (issueTransaction a s))
         ∧ exec (.vote (some a) none (some a) false) s = .next (awaitCore 1 true (sfind 1 s.sup.dissentAt) (issueTransaction a s))
         ∧ exec (.vote none (some a) (some a) false) s = .next (awaitCore 0 true (sfind 0 s.sup.dissentAt) (issueTransaction a s)))
       ∧ (s.sup.resync = some 2 →
         exec (.vote (some a) (some a) none false) s = .next (issueTransaction a s)
         ∧ (a ≠ b → exec (.vote (some a) (some b) none false) s = .next (handover s)))
       ∧ (let t := issueTransaction a s;
         t.sup.issued = s.sup.issued ++ [a] ∧ t.sup.interrupts = [] ∧ t.sup.traps = [] ∧ t.sup.dissentAt = [] ∧ { t with sup := s.sup } = s))
  ∧ (∀ (p : Fin 4) (a b : BitVec 64) (stores : List (Nat × Byte)) (core : Fin 3) (s : State),
       (∃ t, exec (.ctrlWindowCompare p a a stores) s = .next t
         ∧ t.sup.ctrlMem = ((sfind p.val s.sup.heldStores).getD [] ++ stores).foldl (fun m x => sset (fun _ => 0#8) m x.1 x.2) s.sup.ctrlMem
         ∧ sfind p.val t.sup.heldStores = none ∧ sfind p.val t.sup.rollback = none
         ∧ (∀ k, k ≠ p.val → sfind k t.sup.heldStores = sfind k s.sup.heldStores) ∧ { t with sup := s.sup } = s)
       ∧ (a ≠ b → exec (.ctrlWindowCompare p a b stores) s
           = .next (occurrence Src.CTRL_MISMATCH (40 + p.val) (raise Src.CTRL_MISMATCH (.control p.val) (rollbackPair p.val s))))
       ∧ ((rollbackPair p.val s).sup.ctrlMem = s.sup.ctrlMem ∧ sfind p.val (rollbackPair p.val s).sup.heldStores = none
         ∧ (rollbackPair p.val s).r (Reg.CTRL_MISMATCHES p.val) = s.oneMore (Reg.CTRL_MISMATCHES p.val))
       ∧ (∀ d, s.sys.handover = false → sfind core.val s.sup.dissentAt = some d →
           let t := dissent core.val { s with sup := { s.sup with dissentAt := [] } };
         (s.t3 < d → exec (.dissentTimeout core) s = .next s)
         ∧ (d ≤ s.t3 → sfind (3 + core.val) s.sup.dissentAt = none → exec (.dissentTimeout core) s = .next t)
         ∧ (d ≤ s.t3 → (sfind (3 + core.val) s.sup.dissentAt).isSome → exec (.dissentTimeout core) s = .next (handover t)))
       ∧ (s.sup.resync.isSome → ∃ t, exec .resyncComplete s = .next t
         ∧ Becomes s t { s with sup := { s.sup with resync := none } } [(Reg.RESYNCS, s.oneMore Reg.RESYNCS)])
       ∧ (s.sup.resync = none → exec .resyncComplete s = .next s))

/-- Tier 2. HEALTH_FUSE_WRITE_DONE, KEY_VALID_FUSE_BLOWN, FAULT_RESET and SUSPECT_TIMER_EXPIRY (R381, R424, R439,
R522, R532): the health record moves into fuses with its cause; an enrolled key's valid fuse is the last and the
lifecycle is 2; the fault reset keeps its time for 600 s; a timer that has run down stops. -/
def Obligations.FusesAndTimersAdvance : Prop :=
  ∀ (b : BootInputs) (u : UnitRef) (s : State),
    (s.aon.health1 = true → s.fuses.health2 = false → ∃ t, exec .healthFuseWriteDone s = .next t ∧ t.fuses.health2 = true
      ∧ t.fuses.drainCause = s.aon.drainCause ∧ t.aon.health1 = false ∧ health t = 2 ∧ { t with fuses := s.fuses, aon := s.aon } = s)
    ∧ (s.sys.enrolling = true → ∃ t, exec .keyValidFuseBlown s = .next t ∧ t.fuses.lifecycle = max 2 s.fuses.lifecycle
      ∧ (s.fuses.bank1.used = true → t.fuses.bank1 = { s.fuses.bank1 with valid := true } ∧ t.fuses.bank0 = s.fuses.bank0)
      ∧ (s.fuses.bank1.used = false → t.fuses.bank0 = { s.fuses.bank0 with valid := true } ∧ t.fuses.bank1 = s.fuses.bank1)
      ∧ t.sys.enrolling = false ∧ { t with fuses := s.fuses, sys := s.sys } = s)
    ∧ (s.sys.enrolling = false → exec .keyValidFuseBlown s = .next s)
    ∧ (s.sys.faultReset.isSome → ∃ t, exec (.faultReset b) s = .next t ∧ t.r Reg.RESET_KIND = 4 ∧ t.sys.phase = .booting
      ∧ t.sys.errLow = true ∧ t.aon.lastFaultReset = some (t.t3 + suspectSpan) ∧ t.fuses = s.fuses ∧ t.mem = s.mem
      ∧ t.wire = s.wire ∧ t.r (Reg.FAULT_COUNT 0) = s.r (Reg.FAULT_COUNT 0))
    ∧ (s.sys.faultReset = none → exec (.faultReset b) s = .next s)
    ∧ (∀ d, u.id < 40 → sfind u.id s.aon.suspect = some d →
      (s.t3 < d → exec (.suspectTimerExpiry u) s = .next s)
      ∧ (d ≤ s.t3 → ∃ t, exec (.suspectTimerExpiry u) s = .next t ∧ sfind u.id t.aon.suspect = none
        ∧ (∀ k, k ≠ u.id → sfind k t.aon.suspect = sfind k s.aon.suspect) ∧ { t with aon := s.aon } = s))

/-- Tier 2. Raising a source (R421, R425, R426, R429): its counter counts, its PENDING bit is set, and a reaction of 2
or more latches it, the first time as FIRST_SOURCE and later as OVERFLOW; under reactions 1, 3 and 5 the trio gets an
interrupt, under 2 a trap, each with the source's identity (R431), under 4 neither, and after a handover nothing. Under reactions 1 and 2 nothing else
changes. Reactions 3, 4 and 5 (R338, R421, R424, R425, R432): 5 holds ERR_N low until the source is cleared and enters
the safe state; 3 restarts the unit the source names; 4 does what 5 does and starts a chip reset, or drains the chip
when the last such reset is less than 600 s ago; a drained chip treats 3 and 4 as 5. -/
def Obligations.RaisingASourceReportsAndReacts : Prop :=
  (∀ (src : Nat) (who : Ident) (s : State), isFaultSource src = true →
       let c := reactionOf s src
       let t := raiseCore src who s
       t.r (Reg.FAULT_COUNT (src - 1)) = s.oneMore (Reg.FAULT_COUNT (src - 1))
       ∧ (∀ i, i < 64 → (t.r (Reg.PENDING (src / 64))).testBit i
           = ((s.r (Reg.PENDING (src / 64))).testBit i || decide (i = src % 64)))
       ∧ (c < 2 → t.r Reg.FIRST_SOURCE = s.r Reg.FIRST_SOURCE ∧ t.r Reg.OVERFLOW = s.r Reg.OVERFLOW)
       ∧ (2 ≤ c → s.r Reg.FIRST_SOURCE = 0 → t.r Reg.FIRST_SOURCE = src ∧ t.r Reg.OVERFLOW = s.r Reg.OVERFLOW)
       ∧ (2 ≤ c → s.r Reg.FIRST_SOURCE ≠ 0 → t.r Reg.FIRST_SOURCE = s.r Reg.FIRST_SOURCE ∧ t.r Reg.OVERFLOW = 1)
       ∧ (s.sys.handover = true → t.sup = s.sup)
       ∧ (s.sys.handover = false →
         (c = 1 ∨ c = 3 ∨ c = 5 → t.sup = { s.sup with interrupts := s.sup.interrupts ++ [(src, who)] })
         ∧ (c = 2 → t.sup = { s.sup with traps := s.sup.traps ++ [(src, who)] }) ∧ (c = 4 → t.sup = s.sup))
       ∧ (c = 1 ∨ c = 2 → raise src who s = t
         ∧ (∀ k, k ≠ Reg.FAULT_COUNT (src - 1) → k ≠ Reg.PENDING (src / 64) → k ≠ Reg.FIRST_SOURCE → k ≠ Reg.OVERFLOW → t.r k = s.r k)
         ∧ { t with regs := s.regs, sup := s.sup } = s))
  ∧ (∀ (src : Nat) (who : Ident) (s : State), isFaultSource src = true →
       let c := s.r (Reg.REACTION (src - 1))
       let t := raise src who s
       (s.drained = true → c = 3 ∨ c = 4 → reactionOf s src = 5)
       ∧ (s.drained = false → reactionOf s src = c)
       ∧ (reactionOf s src = 5 → t = raiseCore src who s ∧ t.safe = true ∧ errHeld t = true)
       ∧ (reactionOf s src = 3 → (∀ u, who.unit? = some u → t = restart u (raiseCore src who s))
           ∧ (who.unit? = none → t = raiseCore src who s))
       ∧ (reactionOf s src = 4 →
         (∀ d, s.aon.lastFaultReset = some d → s.t3 < d → t = drainChip src (raiseCore src who s))
         ∧ ((∀ d, s.aon.lastFaultReset = some d → d ≤ s.t3) → t.sys.faultReset = some (s.sys.faultReset.getD (s.t3 + 1000000)) ∧ t.safe = true)))

/-- Tier 2. The safe state (R338, R339, R341, R493): an entry pulls ERR_N low, counts, clears VALID in every waiting
record and sends one last-word frame on CAN0 when it is on its bus; the device leaves it exactly when no source holds
ERR_N and the chip is not drained. -/
def Obligations.TheSafeStateHoldsWhileAFaultDoes : Prop :=
  ∀ s : State,
    (let t := enterSafe s;
      t.safe = true ∧ t.sys.errLow = true ∧ t.r Reg.SAFE_ENTRIES = s.oneMore Reg.SAFE_ENTRIES
      ∧ (∀ n, ∀ x ∈ waitingOf t n, fswHas x.word Fsw.VALID = false)
      ∧ (canUp s 0 = true → ethUp s 0 = false →
          ∃ b, t.wire = s.wire ++ [.canLastWord 0 s.net.lw.canId b] ∧ t.net.heldLwEth.isSome)
      ∧ (canUp s 0 = false → ethUp s 0 = false → t.wire = s.wire ∧ t.net.heldLwEth.isSome ∧ t.net.heldLwCan.isSome)
      ∧ t.mem = s.mem ∧ t.fuses = s.fuses ∧ t.slots = s.slots)
    ∧ ((errHeld s = true ∨ s.drained = true ∨ s.safe = false) → leaveSafe s = s)
    ∧ (s.safe = true → errHeld s = false → s.drained = false →
      (leaveSafe s).safe = false ∧ (leaveSafe s).sys.errLow = decide (s.sys.phase ≠ .ready)
      ∧ (leaveSafe s).net.heldLwEth = none ∧ (leaveSafe s).net.heldLwCan = none
      ∧ (∀ k, k ≠ Reg.SAFE_STATE → (leaveSafe s).r k = s.r k) ∧ (leaveSafe s).wire = s.wire)

/-! ## In-field test and monitors -/

/-- Tier 2. IFT_DUE, IFT_OVERDUE, IFT_SLOT_START, IFT_SLOT_END and GOOSE_TEST (R398 to R402, R405, R407): 70 ms after
its test start time a unit falls due, 100 ms after it it is overdue once; a withdrawn group begins its slot with a new
start time and ends it back in service, with its slot counted; a unit whose signatures are not those of its patterns
fails, and the chip drains. GOLDEN_SLICE_COMPLETE (R411 to R416): a slice that both units have run is recorded with
its time; equal words pass and close the covered frames' verdicts, different ones are a mismatch, and a second wrong
pipe word in a row makes the pipe suspect. -/
def Obligations.UnitsAndPipesAreTested : Prop :=
  (∀ (u : UnitRef) (r : Fin 4) (sigs : List (UnitRef × List (BitVec 64))) (own : List UnitRef) (gsig : List (BitVec 64)) (s : State),
       s.drained = false → working s = true →
       (s.ift.due.contains u.id = false → (s.unit u.id).status ≠ .inTest →
         (s.t3 < testStart s u.id + 70000000 → exec (.iftDue u) s = .next s)
         ∧ (testStart s u.id + 70000000 ≤ s.t3 → ∃ t, exec (.iftDue u) s = .next t ∧ u.id ∈ t.ift.due
             ∧ (∀ v ∈ s.ift.due, v ∈ t.ift.due) ∧ (∀ k, t.r k = s.r k) ∧ t.wire = s.wire))
       ∧ (s.ift.overdue.contains u.id = false →
         (s.t3 < testStart s u.id + 100000000 → exec (.iftOverdue u) s = .next s)
         ∧ (testStart s u.id + 100000000 ≤ s.t3 → exec (.iftOverdue u) s
             = .next (raise Src.IFT_OVERDUE (.unit u.id) ({ s with ift := { s.ift with
                 overdue := s.ift.overdue ++ [u.id]
                 due := if s.ift.due.contains u.id then s.ift.due else insertDue s u.id s.ift.due } }.bump Reg.OVERDUE))))
       ∧ ((groupOf s u.id).any (slicePending s) = false → (groupOf s u.id).any (fun v => s.ift.due.contains v) = true →
           (∀ v ∈ groupOf s u.id, (s.unit v).status = .withdrawn) →
         ∃ t, exec (.iftSlotStart u) s = .next t
           ∧ (∀ v ∈ groupOf s u.id, testStart t v = s.t3 ∧ v ∉ t.ift.due ∧ v ∉ t.ift.overdue)
           ∧ t.ift.slots = s.ift.slots ++ [⟨groupOf s u.id, s.sys.testPkg.patterns⟩])
       ∧ (∀ x, s.ift.slots.find? (fun x => x.units.contains u.id) = some x →
           let given (v : Nat) : List (BitVec 64) := ((sigs.find? fun p => p.1.id = v).map fun p => p.2).getD [];
           let s1 : State := { s with ift := { s.ift with slots := s.ift.slots.filter fun y => y ≠ x } }
           let back := (forEach x.units (fun v s => rejoin v (resetForTest v s)) s1).bumpBy Reg.SLOTS_RUN x.units.length
           let bad := x.units.filter fun v => decide (given v ≠ expected x.patterns v) || own.any fun w => w.id = v
         exec (.iftSlotEnd u sigs own) s = .next (settleUnits (failUnits bad back))
           ∧ (∀ v ∈ x.units, (back.unit v).status = .inService ∧ (back.unit v).resetting = false)
           ∧ (bad ≠ [] → (failUnits bad back).drained = true ∧ ∀ v ∈ bad, v < 60 → ((failUnits bad back).r Reg.IFT_FAILED).testBit v = true))
       ∧ (s.ift.due.contains (56 + r.val) = true → (s.goose r.val).samples = [] →
         (gsig = expected s.sys.testPkg.patterns (56 + r.val) → ∃ t, exec (.gooseTest r gsig) s = .next t
           ∧ testStart t (56 + r.val) = s.t3 ∧ 56 + r.val ∉ t.ift.due ∧ { t with ift := s.ift } = s)
         ∧ (gsig ≠ expected s.sys.testPkg.patterns (56 + r.val) → ∃ t, exec (.gooseTest r gsig) s = .next t ∧ t.drained = true
           ∧ (t.r Reg.IFT_FAILED).testBit (56 + r.val) = true)))
  ∧ (∀ (p : Fin 4) (pipeFlips sliceWord : BitVec 32) (s : State) (x : Slice),
       currentSlice s p.val = some x → s.drained = false → x.taken = true → x.inDone = true →
       (s.unit (8 * p.val + 7)).status = .slice → (s.unit (33 + 2 * p.val)).status = .slice →
       let pipeBad := decide ((x.pipeWord ^^^ pipeFlips).toNat ≠ bitsOf x.expect 31 0)
       let bad := pipeBad || decide (sliceWord.toNat ≠ bitsOf x.expect 63 32)
       let s1 := modPipe p.val (fun y => { y with lastPipeWordBad := pipeBad }) (s.setR (Reg.GOLDEN_LAST_US p.val) ((s.t3 - x.presentedAt) / 1000))
       (bad = false → x.decided = false → exec (.goldenSliceComplete p pipeFlips sliceWord) s = .next (endSlice p.val
         (modPipe p.val (fun y => { y with lastIncomplete := false })
           (closeFrames p.val (some x.seqNo) true (s1.bump (Reg.GOLDEN_PASS p.val))))))
       ∧ (bad = true → x.decided = false →
         let t := countIncomplete p.val (closeFrames p.val (some x.seqNo) false
           (raise Src.GOLDEN_MISMATCH (.pipe p.val) (s1.bump (Reg.GOLDEN_MISMATCHES p.val))));
         exec (.goldenSliceComplete p pipeFlips sliceWord) s
           = .next (if pipeBad && (s.pipe p.val).lastPipeWordBad then suspectPipe p.val t else endSlice p.val t))
       ∧ (bad = false → x.decided = true →
         exec (.goldenSliceComplete p pipeFlips sliceWord) s = .next (endSlice p.val (s1.bump (Reg.GOLDEN_PASS p.val))))
       ∧ (bad = true → x.decided = true →
         let t := raise Src.GOLDEN_MISMATCH (.pipe p.val) (s1.bump (Reg.GOLDEN_MISMATCHES p.val));
         exec (.goldenSliceComplete p pipeFlips sliceWord) s
           = .next (if pipeBad && (s.pipe p.val).lastPipeWordBad then suspectPipe p.val t else endSlice p.val t))
       ∧ ((endSlice p.val s).drained = s.drained) ∧ (suspectPipe p.val s).drained = true
         ∧ ((suspectPipe p.val s).r Reg.SUSPECT_PIPE).testBit p.val = true)

/-- Tier 2. HANDSHAKE_STALL, BRIDGE_OVERFLOW, PACE_GATE_WINDOW, AVS_LOOP_STEP and TEMPERATURE_READ (R37, R40, R42,
R44, R545, R546, R550): a request that has waited beyond its limit is a fault that names its place; a bridge that
overflows is one that names its domain, cuts the frames it carries and counts the line or frame it loses; a pace window
of 1 µs is stored and counted when low, once; the supply moves by 5 mV a step within 650 to 850 mV; temperatures are
stored, their maximum kept and those above 110 °C counted. Which losses have a counter is the model's choice
(notes/assumptions/137.md). -/
def Obligations.MonitorsReportWhatTheyMeasure : Prop :=
  ∀ (w : StallPlace) (waited : Nat) (d : Fin 40) (port : Fin 24) (m : Fin 5) (beats : Nat) (avsOk : Bool) (volts amps : BitVec 16)
      (t0 t1 t2 t3 t4 : Int) (s : State),
    (waited ≤ stallLimit w → exec (.handshakeStall w waited) s = .next s)
    ∧ (stallLimit w < waited → stallInTest s w = false → exec (.handshakeStall w waited) s
        = .next (raise Src.HANDSHAKE_STALL (.place w) s))
    ∧ ((26 ≤ d.val ∧ d.val ≤ 34 ∨ d.val = 36) → ∀ q, exec (.bridgeOverflow d q) s
        = .next (raise Src.BRIDGE_OVERFLOW (.domain d.val) s))
    ∧ (23 ≤ d.val → d.val ≤ 25 → ∀ q, exec (.bridgeOverflow d q) s
        = .next (raise Src.BRIDGE_OVERFLOW (.domain d.val) (s.bump (Reg.NET_RX_DISCARDED (d.val - 23)))))
    ∧ (d.val = 22 → port.val < 4 → (s.dsp port.val).active = true → (s.dsp port.val).line < s.r (Reg.DSP_V_ACTIVE port.val) →
        exec (.bridgeOverflow d (some port)) s = .next (raise Src.BRIDGE_OVERFLOW (.domain 22)
          ((sendLine port.val (backgroundLine s port.val) s).bump (Reg.DSP_UNDERRUN port.val))))
    ∧ ((d.val < 16 ∨ d.val = 35 ∨ 37 ≤ d.val) → ∀ q, exec (.bridgeOverflow d q) s = .next s)
    ∧ (d.val = 16 + port.val / 4 →
        let cut := forEach (List.range 4) (fun k s => modCur (4 * (d.val - 16) + k) (fun f => { f with truncated := true }) s) s;
        exec (.bridgeOverflow d (some port)) s = .next (raise Src.BRIDGE_OVERFLOW (.domain d.val) (loseLine port.val cut))
        ∧ exec (.bridgeOverflow d none) s = .next (raise Src.BRIDGE_OVERFLOW (.domain d.val) cut)
        ∧ (∀ q f, q / 4 = port.val / 4 → (cut.port q).cur = some f → f.truncated = true) ∧ (∀ k, cut.r k = s.r k))
    ∧ (let start := sget dflt0 s.pace m.val;
      (paced s = true → start + 1000 ≤ s.t3 → ∃ t, exec (.paceGateWindow m beats) s = .next t
        ∧ sget dflt0 t.pace m.val ≤ s.t3 ∧ s.t3 < sget dflt0 t.pace m.val + 1000 ∧ start + 1000 ≤ sget dflt0 t.pace m.val
        ∧ (1250 ≤ beats → Becomes s t { s with pace := t.pace } [(Reg.PACE_LIVE m.val, min beats 0xFFFF)])
        ∧ (beats < 1250 → Becomes s t { s with pace := t.pace }
            [(Reg.PACE_LIVE m.val, beats), (Reg.PACE_LOW m.val, s.oneMore (Reg.PACE_LOW m.val))]))
      ∧ ((paced s = false ∨ s.t3 < start + 1000) → exec (.paceGateWindow m beats) s = .next s))
    ∧ (corePowered s = true →
      (∃ t, exec (.avsLoopStep false volts amps) s = .next t ∧ Becomes s t s [(Reg.AVS_ERRORS, s.oneMore Reg.AVS_ERRORS)])
      ∧ (let v := s.r Reg.CORE_V_REQ;
        650 ≤ v → v ≤ 850 → ∃ t n, exec (.avsLoopStep true volts amps) s = .next t
          ∧ 650 ≤ n ∧ n ≤ 850 ∧ n ≤ v + 5 ∧ v ≤ n + 5
          ∧ ((∀ i, i < 5 → s.r Reg.PACE_SET ≤ s.r (Reg.PACE_LIVE i) + 25) → n ≤ v)
          ∧ ((∃ i, i < 5 ∧ s.r (Reg.PACE_LIVE i) ≤ s.r Reg.PACE_SET + 25) → v ≤ n)
          ∧ Becomes s t (if n = v then s else s.emit (.avs n))
              [(Reg.CORE_V_REQ, n), (Reg.CORE_V_READ, volts.toNat), (Reg.CORE_I_READ, amps.toNat)])
      ∧ (let l := [t0, t1, t2, t3, t4];
        ∃ t, exec (.temperatureRead l) s = .next t ∧ (∀ i (h : i < l.length), t.r (Reg.TJ_LIVE i) = unsigned 16 l[i])
          ∧ t.r Reg.TJ_MAX = unsigned 16 (l.foldl max (s.rI 16 Reg.TJ_MAX))
          ∧ t.r Reg.TJ_HIGH = min (dictMax Reg.TJ_HIGH) (s.r Reg.TJ_HIGH + (l.filter fun x => decide (110 < x)).length)
          ∧ t = s.withRegs t.regs))
    ∧ (corePowered s = false → exec (.avsLoopStep avsOk volts amps) s = .next s ∧ exec (.temperatureRead [t0, t1, t2, t3, t4]) s = .next s)

/-! ## Cameras, point clouds and the image pipeline -/

/-- Tier 2. LINK_TRAINING_COMPLETE, APHY_LINK_LOSS, APHY_RETRANSMISSION, APHY_PACKET_LOST, HEADER_UNCORRECTABLE and
OTHER_PACKET (R262 to R267): a trained link is up with its latency; a lost link closes the frame as LINK_ERR and
trains again; packets are counted, and one that is lost truncates the frame in progress; the line-start and line-end
packets of the port's virtual channel are ignored and every other packet is discarded and counted, both checked. -/
def Obligations.CameraLinksCarryPackets : Prop :=
  ∀ (p : Fin 24) (lat : BitVec 32) (vc : Fin 16) (dataType : Fin 64) (b crcOk corr : Bool) (s : State),
    (s.on (Reg.CAM_ENABLE p.val) = true → s.r (Reg.CAM_LINK_STATE p.val) = 1 → ∃ t, exec (.linkTrainingComplete p lat) s = .next t
      ∧ Becomes s t (s.setPort p.val { s.port p.val with prevTs := none, discarding := false })
          [(Reg.CAM_LINK_STATE p.val, 2), (Reg.CAM_FSYNC_LATENCY p.val, lat.toNat)])
    ∧ (portUp s p.val = false → exec (.aphyLinkLoss p) s = .next s ∧ exec (.aphyRetransmission p) s = .next s
      ∧ exec (.aphyPacketLost p) s = .next s ∧ exec (.headerUncorrectable p b) s = .next s ∧ exec (.otherPacket p ⟨vc, dataType, corr⟩ crcOk) s = .next s)
    ∧ (portUp s p.val = true →
      exec (.aphyLinkLoss p) s = .next (raise Src.APHY_LINK_LOSS (.port p.val) (trainPort p.val
          ((closeFrame p.val (modCur p.val (fun f => { f with linkErr := true }) s)).bump (Reg.CAM_LINK_LOSS p.val))))
      ∧ (∃ t, exec (.aphyRetransmission p) s = .next t ∧ Becomes s t s [(Reg.CAM_RETX p.val, s.oneMore (Reg.CAM_RETX p.val))])
      ∧ ((s.port p.val).cur = none →
        (∃ t, exec (.aphyPacketLost p) s = .next t ∧ (∀ k, t.r k = s.r k) ∧ (∀ q, t.port q = s.port q) ∧ { t with ports := s.ports } = s)
        ∧ (∃ t, exec (.headerUncorrectable p b) s = .next t ∧ t.r (Reg.CAM_HDR_UNCORR p.val) = s.oneMore (Reg.CAM_HDR_UNCORR p.val)
            ∧ (∀ k, k ≠ Reg.CAM_HDR_UNCORR p.val → t.r k = s.r k) ∧ (∀ q, t.port q = s.port q)))
      ∧ (∀ f, (s.port p.val).cur = some f →
        (∃ t, exec (.aphyPacketLost p) s = .next t ∧ (t.port p.val).cur = some { f with linkErr := true, truncated := true }
          ∧ t.r (Reg.CAM_LINES_LOST p.val) = s.oneMore (Reg.CAM_LINES_LOST p.val) ∧ (∀ k, k ≠ Reg.CAM_LINES_LOST p.val → t.r k = s.r k)
          ∧ { t with regs := s.regs, ports := s.ports } = s)
        ∧ (∃ t, exec (.headerUncorrectable p false) s = .next t ∧ (t.port p.val).cur = some { f with linkErr := true }
          ∧ t.r (Reg.CAM_HDR_UNCORR p.val) = s.oneMore (Reg.CAM_HDR_UNCORR p.val)
          ∧ (∀ k, k ≠ Reg.CAM_HDR_UNCORR p.val → t.r k = s.r k))
        ∧ (∃ t, exec (.headerUncorrectable p true) s = .next t
          ∧ (t.port p.val).cur = some { f with linkErr := true, truncated := true }
          ∧ t.r (Reg.CAM_HDR_UNCORR p.val) = s.oneMore (Reg.CAM_HDR_UNCORR p.val)
          ∧ t.r (Reg.CAM_LINES_LOST p.val) = s.oneMore (Reg.CAM_LINES_LOST p.val)))
      ∧ (let ignored : Prop := vc.val = s.r (Reg.CAM_VC p.val) ∧ 2 ≤ dataType.val ∧ dataType.val ≤ 3;
        ∃ t, exec (.otherPacket p ⟨vc, dataType, corr⟩ crcOk) s = .next t
          ∧ (ignored → t.r (Reg.CAM_OTHER_DROP p.val) = s.r (Reg.CAM_OTHER_DROP p.val))
          ∧ (¬ ignored → t.r (Reg.CAM_OTHER_DROP p.val) = s.oneMore (Reg.CAM_OTHER_DROP p.val))
          ∧ t.r (Reg.CAM_HDR_CORR p.val) = (if corr then s.oneMore (Reg.CAM_HDR_CORR p.val) else s.r (Reg.CAM_HDR_CORR p.val))
          ∧ t.r (Reg.CAM_CRC_ERR p.val) = (if crcOk then s.r (Reg.CAM_CRC_ERR p.val) else s.oneMore (Reg.CAM_CRC_ERR p.val))
          ∧ (∀ k, k ≠ Reg.CAM_OTHER_DROP p.val → k ≠ Reg.CAM_HDR_CORR p.val → k ≠ Reg.CAM_CRC_ERR p.val → t.r k = s.r k)
          ∧ (vc.val = s.r (Reg.CAM_VC p.val) → (t.port p.val).lastPkt = s.t3)
          ∧ (vc.val ≠ s.r (Reg.CAM_VC p.val) → (t.port p.val).lastPkt = (s.port p.val).lastPkt)
          ∧ (t.port p.val).cur = (s.port p.val).cur.map (fun f => if !crcOk ∨ corr then { f with linkErr := true } else f)
          ∧ { t with regs := s.regs, ports := s.ports } = s))

/-- Tier 2. FRAME_START, FRAME_END, PIXEL_LINE, EMBEDDED_LINE and LINE_TIMEOUT (R265 to R271): a frame start opens a
frame, or is discarded when it comes too early; a line of the right length is stored as long as the frame takes it,
any other is lost and cuts the frame; a frame end closes the frame, and so does the silence of LINE_TIMEOUT while no
packet of the channel is arriving. A packet of another virtual channel, or a pixel line of another data type, is
discarded and counted. -/
def Obligations.CameraFramesTakeTheirLines : Prop :=
  ∀ (p : Fin 24) (vc : Fin 16) (dataType : Fin 64) (bytes : Bytes) (s : State),
    let s1 := touchPort p.val vc false s
    (portUp s p.val = false → ∀ x y, exec (.frameStart p ⟨vc, x⟩) s = .next s ∧ exec (.frameEnd p ⟨vc, x⟩) s = .next s
      ∧ exec (.pixelLine p bytes x ⟨vc, dataType, y⟩) s = .next s ∧ exec (.embeddedLine p bytes x ⟨vc, y⟩) s = .next s)
    ∧ (portUp s p.val = true → vc.val ≠ s.r (Reg.CAM_VC p.val) →
      let t := s.bump (Reg.CAM_OTHER_DROP p.val);
      exec (.frameStart p ⟨vc, false⟩) s = .next t ∧ exec (.frameEnd p ⟨vc, false⟩) s = .next t
      ∧ exec (.pixelLine p bytes true ⟨vc, dataType, false⟩) s = .next t ∧ exec (.embeddedLine p bytes true ⟨vc, false⟩) s = .next t
      ∧ exec (.pixelLine p bytes false ⟨vc, dataType, false⟩) s
          = .next ((modCur p.val (fun f => { f with linkErr := true }) (s.bump (Reg.CAM_CRC_ERR p.val))).bump (Reg.CAM_OTHER_DROP p.val)))
    ∧ (portUp s p.val = true → vc.val = s.r (Reg.CAM_VC p.val) →
      (let c := closeFrame p.val s1;
        (tooEarly c p.val = false → exec (.frameStart p ⟨vc, false⟩) s = .next (openCamFrame p.val false c))
        ∧ (tooEarly c p.val = true → exec (.frameStart p ⟨vc, false⟩) s = .next (raise Src.INGEST_RATE (.port p.val)
            ((c.setPort p.val { c.port p.val with discarding := true }).bump (Reg.CAM_RATE_DROP p.val)))))
      ∧ (let c := closeFrame p.val (touchPort p.val vc true s);
        (tooEarly c p.val = false → exec (.frameStart p ⟨vc, true⟩) s = .next (openCamFrame p.val true c))
        ∧ (tooEarly c p.val = true → exec (.frameStart p ⟨vc, true⟩) s = .next (raise Src.INGEST_RATE (.port p.val)
            ((c.setPort p.val { c.port p.val with discarding := true }).bump (Reg.CAM_RATE_DROP p.val)))))
      ∧ exec (.frameEnd p ⟨vc, false⟩) s = .next (closeFrame p.val s1)
      ∧ exec (.frameEnd p ⟨vc, true⟩) s
          = .next (closeFrame p.val (modCur p.val (fun f => { f with linkErr := true }) (touchPort p.val vc true s)))
      ∧ ((s.port p.val).cur = none → exec (.embeddedLine p bytes true ⟨vc, false⟩) s = .next s1
          ∧ (dataType.val = s.r (Reg.CAM_DATA_TYPE p.val) → exec (.pixelLine p bytes true ⟨vc, dataType, false⟩) s = .next s1)
          ∧ (dataType.val ≠ s.r (Reg.CAM_DATA_TYPE p.val) → exec (.pixelLine p bytes true ⟨vc, dataType, false⟩) s
              = .next (s1.bump (Reg.CAM_OTHER_DROP p.val))))
      ∧ (∀ f, (s.port p.val).cur = some f → dataType.val ≠ f.params.dataType →
          exec (.pixelLine p bytes true ⟨vc, dataType, false⟩) s = .next (s1.bump (Reg.CAM_OTHER_DROP p.val)))
      ∧ (∀ f, (s.port p.val).cur = some f → dataType.val = f.params.dataType →
        (bytes.length = lineBytes f.params → f.truncated = false → f.pix.length < f.params.lines →
          ∃ t g, exec (.pixelLine p bytes true ⟨vc, dataType, false⟩) s = .next t ∧ (t.port p.val).cur = some g ∧ g.pix = f.pix ++ [bytes]
            ∧ g.emb = f.emb ∧ g.dataCrc = bytes.foldl crcByte f.dataCrc ∧ g.linkErr = f.linkErr ∧ g.truncated = false)
        ∧ (bytes.length = lineBytes f.params → f.truncated = false → f.params.lines ≤ f.pix.length →
          ∃ t, exec (.pixelLine p bytes true ⟨vc, dataType, false⟩) s = .next t ∧ (t.port p.val).cur = some { f with excess := f.excess + 1 }
            ∧ (∀ k, t.r k = s.r k) ∧ { t with ports := s.ports } = s)
        ∧ (bytes.length ≠ lineBytes f.params →
          ∃ t, exec (.pixelLine p bytes true ⟨vc, dataType, false⟩) s = .next t ∧ (t.port p.val).cur = some { f with truncated := true }
            ∧ Becomes s t { s with ports := t.ports } [(Reg.CAM_WIDTH_ERR p.val, s.oneMore (Reg.CAM_WIDTH_ERR p.val)),
                (Reg.CAM_LINES_LOST p.val, s.oneMore (Reg.CAM_LINES_LOST p.val))])
        ∧ (bytes.length = lineBytes f.params → f.truncated = true →
          ∃ t, exec (.pixelLine p bytes true ⟨vc, dataType, false⟩) s = .next t ∧ (t.port p.val).cur = some f
            ∧ Becomes s t { s with ports := t.ports } [(Reg.CAM_LINES_LOST p.val, s.oneMore (Reg.CAM_LINES_LOST p.val))])
        ∧ (f.emb.length < f.params.embLines → bytes.length ≤ lineBytes f.params →
          ∃ t g, exec (.embeddedLine p bytes true ⟨vc, false⟩) s = .next t ∧ (t.port p.val).cur = some g ∧ g.emb = f.emb ++ [bytes]
            ∧ g.pix = f.pix)
        ∧ ((f.params.embLines ≤ f.emb.length ∨ lineBytes f.params < bytes.length) →
          ∃ t, exec (.embeddedLine p bytes true ⟨vc, false⟩) s = .next t ∧ (t.port p.val).cur = some f
            ∧ Becomes s t { s with ports := t.ports } [(Reg.CAM_OTHER_DROP p.val, s.oneMore (Reg.CAM_OTHER_DROP p.val))])
        ∧ (∀ corr, ∃ t g, exec (.pixelLine p bytes false ⟨vc, dataType, corr⟩) s = .next t ∧ (t.port p.val).cur = some g ∧ g.linkErr = true
            ∧ t.r (Reg.CAM_CRC_ERR p.val) = s.oneMore (Reg.CAM_CRC_ERR p.val))))
    ∧ ((s.port p.val).cur.isSome →
      ((s.port p.val).lastPkt + s.r (Reg.CAM_LINE_TIMEOUT p.val) * 1000 ≤ s.t3 →
        exec (.lineTimeout ⟨p, false⟩) s = .next (closeFrame p.val s))
      ∧ (s.t3 < (s.port p.val).lastPkt + s.r (Reg.CAM_LINE_TIMEOUT p.val) * 1000 → exec (.lineTimeout ⟨p, false⟩) s = .next s))
    ∧ ((s.port p.val).cur = none → exec (.lineTimeout ⟨p, false⟩) s = .next s)
    ∧ exec (.lineTimeout ⟨p, true⟩) s = .next s

/-- Tier 2. I2C_DONE, PCL_PACKET and SCAN_TIMEOUT (R279, R280, R282, R283): a transaction under way ends with its
status and, for a read that is done, its data; a packet of no enabled stream changes nothing, a malformed or damaged
one is only counted, a good one joins its scan; a scan closes after its timeout. -/
def Obligations.SideChannelsComplete : Prop :=
  ∀ (p : Fin 24) (status : Fin 6) (data : Bytes) (eth : Fin 2) (udp : BitVec 16) (b : Bytes) (n : Fin 16) (s : State),
    ((nth 0#8 (s.blob (Reg.CAM_I2C_RESP p.val)) 0).toNat = 1 → status ≠ 1 →
        (status ≠ 5 ∨ (s.port p.val).i2cAt + 10000000 ≤ s.t3) →
        let q := s.blob (Reg.CAM_I2C_REQ p.val);
        let k := if status = 0 ∧ bit (field q 1 1) 0 then field q 2 1 else 0
      ∃ t, exec (.i2cDone p status data) s = .next t ∧ (t.blob (Reg.CAM_I2C_RESP p.val)).length = k + 2
        ∧ (t.blob (Reg.CAM_I2C_RESP p.val)).take 2 = [BitVec.ofNat 8 status.val, BitVec.ofNat 8 k]
        ∧ (k ≤ data.length → (t.blob (Reg.CAM_I2C_RESP p.val)).drop 2 = data.take k)
        ∧ (∀ j, j ≠ Reg.CAM_I2C_RESP p.val → t.blob j = s.blob j) ∧ { t with blobs := s.blobs, free := s.free } = s)
    ∧ ((nth 0#8 (s.blob (Reg.CAM_I2C_RESP p.val)) 0).toNat ≠ 1 → exec (.i2cDone p status data) s = .next s)
    ∧ (streamOf s eth.val udp.toNat = none → exec (.pclPacket eth udp b) s = .next s)
    ∧ (∀ k, streamOf s eth.val udp.toNat = some k →
        let check := decide (crc32c (slice b 0 0x1C ++ b.drop 32) = field b 0x1C 4);
      (pclBad k b = true → ∃ t, exec (.pclPacket eth udp b) s = .next t
        ∧ Becomes s t s [(Reg.PCL_PKT_BAD k, s.oneMore (Reg.PCL_PKT_BAD k))])
      ∧ (pclBad k b = false → check = false → ∃ t, exec (.pclPacket eth udp b) s = .next t
        ∧ Becomes s t s [(Reg.PCL_PKT_CHECK_ERR k, s.oneMore (Reg.PCL_PKT_CHECK_ERR k))])
      ∧ (pclBad k b = false → check = true → exec (.pclPacket eth udp b) s = .next (acceptPacket k b s)
        ∧ ((s.scan k).isOpen = true → field b 8 4 = (s.scan k).seq → (s.scan k).pkts.contains (field b 0xC 2) = true →
            acceptPacket k b s = s.bump (Reg.PCL_PKT_STALE k))
        ∧ ((s.scan k).isOpen = true → field b 8 4 = (s.scan k).seq → (s.scan k).pkts.contains (field b 0xC 2) = false →
            acceptPacket k b s = storePacket k b s)
        ∧ ((s.scan k).isOpen = false → (s.scan k).lastSeq = none →
            acceptPacket k b s = storePacket k b (openScan k (field b 8 4) s))))
    ∧ ((s.scan n.val).isOpen = true →
      ((s.scan n.val).lastPkt + s.r (Reg.PCL_SCAN_TIMEOUT n.val) * 1000 ≤ s.t3 →
        exec (.scanTimeout n) s = .next (closeScan n.val s) ∧ ((closeScan n.val s).scan n.val).isOpen = false)
      ∧ (s.t3 < (s.scan n.val).lastPkt + s.r (Reg.PCL_SCAN_TIMEOUT n.val) * 1000 → exec (.scanTimeout n) s = .next s))
    ∧ ((s.scan n.val).isOpen = false → exec (.scanTimeout n) s = .next s)

/-- Tier 2. ISP_LINE_PROCESS, MEMORY_LANE_TAKE_FRAME and ISP_FRAME_DONE (R291, R292, R294, R298, R301, R314): the
in-line lane goes first; a lane takes its next line; an overflow stops the in-line lane's frame; the memory lane takes
a golden input ahead of every frame, else the oldest ready frame with a free buffer; a frame whose lines are through
is done, a golden input leaves the pipe and is counted. -/
def Obligations.PipesProcessTheirFrames : Prop :=
  ∀ (p : Fin 4) (s : State),
    ((nextLine s p.val false).isSome → exec (.ispLineProcess p true false) s = .next s
      ∧ exec (.ispLineProcess p true true) s = .next s)
    ∧ (∀ m o, (nextLine s p.val m).isSome → (m = true → nextLine s p.val false = none) → (m = false → o = false) →
        exec (.ispLineProcess p m o) s = .next (lineStep p.val m s))
    ∧ ((nextLine s p.val false).isSome → exec (.ispLineProcess p false true) s = .next (lineStep p.val false (overrunLane p.val s)))
    ∧ (∀ m o, nextLine s p.val m = none → exec (.ispLineProcess p m o) s = .next s)
    ∧ ((s.pipe p.val).mem.frame = none → (s.pipe p.val).mem.golden = false →
      (s.drained = false → ∀ x, currentSlice s p.val = some x → x.taken = false →
        exec (.memoryLaneTakeFrame p) s = .next (takeGolden p.val x s))
      ∧ ((s.drained = true ∨ ∀ x, currentSlice s p.val = some x → x.taken = true) →
        (∀ f ∈ (s.pipe p.val).ready, bufferFree s f = false) → exec (.memoryLaneTakeFrame p) s = .next s)
      ∧ (∀ f l, (s.pipe p.val).ready = f :: l → (s.drained = true ∨ ∀ x, currentSlice s p.val = some x → x.taken = true) →
          bufferFree s f = true →
          let t := modPipe p.val (fun y => { y with ready := l }) s
          exec (.memoryLaneTakeFrame p) s = .next (beginFrame p.val true f (if f.pix = [] then freeRaw f t else t))))
    ∧ ((s.pipe p.val).mem.golden = true → laneThrough s p.val true = true → ∃ t, exec (.ispFrameDone p true) s = .next t
        ∧ (t.pipe p.val).mem = {} ∧ t.r (Reg.PIPE_GOLDEN_DONE p.val) = s.oneMore (Reg.PIPE_GOLDEN_DONE p.val)
        ∧ (∀ x ∈ (t.pipe p.val).slices, x.presented = true → x.taken = true → x.inDone = true ∧ x.pipeWord = pipeWord s p.val)
        ∧ (∀ q, q ≠ p.val → t.pipe q = s.pipe q) ∧ (∀ c, c < 36 → t.ctx c = s.ctx c)
        ∧ { t with regs := s.regs, pipes := s.pipes, ctxs := s.ctxs } = s)
    ∧ (∀ m, ((m = true → (s.pipe p.val).mem.golden = false) → laneThrough s p.val m = true →
        exec (.ispFrameDone p m) s = .next (finishFrame p.val m s))
      ∧ (laneThrough s p.val m = false → exec (.ispFrameDone p m) s = .next s))

/-! ## Time, network and displays -/

/-- Tier 2. TIME_COMMIT_APPLY, TRIGGER_FIRE, PPS_EDGE, PPS_MISSED_SECOND and CAPTURE_EVENT (R321, R323, R327, R329,
R330, R335): a scheduled commit takes effect at its instant and not before; a trigger fires when its base reaches its
next instant; an edge of the other polarity is ignored; a missed second is counted and ends a lock after LOSS_N of
them; a capture latches all eight bases. -/
def Obligations.TimeEventsActAtTheirInstants : Prop :=
  ∀ (t : Fin 32) (falling : Bool) (source : BitVec 8) (s : State), clocksRun s = true →
    let due := instant s t.val (nextInstant s t.val)
    (∀ d, s.rooster.commitAt = some d →
      (s.t3 < d → exec .timeCommitApply s = .next s)
      ∧ (d ≤ s.t3 → exec .timeCommitApply s = .next (dropGated (applyCommit s))
        ∧ (applyCommit s).r Reg.COMMIT_PENDING = 0 ∧ (applyCommit s).r Reg.COMMIT_TIME = s.t3
        ∧ (∀ x ∈ (applyCommit s).staged, commitKey x.1 = false)))
    ∧ (s.rooster.commitAt = none → exec .timeCommitApply s = .next s)
    ∧ (s.on (Reg.TRG_ENABLE t.val) = true →
      (s.t (s.r (Reg.TRG_BASE t.val)) < due → exec (.triggerFire t) s = .next s)
      ∧ (due ≤ s.t (s.r (Reg.TRG_BASE t.val)) → exec (.triggerFire t) s = .next (fireTrigger t.val s)
        ∧ (s.r (Reg.TRG_PINS t.val) = 0 → s.r (Reg.TRG_PORTS t.val) = 0 → s.r (Reg.TRG_DISPLAYS t.val) = 0 → subscribers s t.val = [] →
          Becomes s (fireTrigger t.val s) (setInstant t.val (nextInstant s t.val + 1) s)
            [(Reg.TRG_FIRED t.val, s.oneMore (Reg.TRG_FIRED t.val)), (Reg.TRG_LAST_INSTANT t.val, due)])))
    ∧ (s.on (Reg.TRG_ENABLE t.val) = false → exec (.triggerFire t) s = .next s)
    ∧ (decide (s.r Reg.PPS_EDGE = 1) ≠ falling → exec (.ppsEdge falling) s = .next s)
    ∧ (decide (s.r Reg.PPS_EDGE = 1) = falling →
      (s.r (Reg.T_MODE 0) ≠ 1 → exec (.ppsEdge falling) s = .next (captureSource 0 s))
      ∧ (s.r (Reg.T_MODE 0) = 1 → exec (.ppsEdge falling) s = .next (servoEdge (captureSource 0 s))))
    ∧ (s.r (Reg.T_MODE 0) = 1 → (s.servo 0).first = true → (s.servo 0).nextSecond + s.r Reg.PPS_WINDOW * 1000 < s.t 0 →
        let x := { s.servo 0 with missed := (s.servo 0).missed + 1, good := 0, nextSecond := (s.servo 0).nextSecond + 10 ^ 9 };
        let m := (s.bump Reg.PPS_MISSED).setServo 0 x
      ((s.r (Reg.T_STATE 0) ≠ 2 ∨ x.missed < s.r Reg.PPS_LOSS_N) → exec .ppsMissedSecond s = .next m)
      ∧ (s.r (Reg.T_STATE 0) = 2 → s.r Reg.PPS_LOSS_N ≤ x.missed → exec .ppsMissedSecond s = .next (enterHoldover 0 m))
      ∧ m.r Reg.PPS_MISSED = s.oneMore Reg.PPS_MISSED)
    ∧ ((s.r (Reg.T_MODE 0) ≠ 1 ∨ s.t 0 ≤ (s.servo 0).nextSecond + s.r Reg.PPS_WINDOW * 1000) → exec .ppsMissedSecond s = .next s)
    ∧ (within source.toNat 1 8 = true → bit (s.r Reg.FSYNC_DIR) (source.toNat - 1) = false → exec (.captureEvent source) s = .next s)
    ∧ (source ≠ 0xFF → (within source.toNat 1 8 = false ∨ bit (s.r Reg.FSYNC_DIR) (source.toNat - 1) = true) →
      ∃ u, exec (.captureEvent source) s = .next u
        ∧ (∀ c, c < 16 → s.r (Reg.CAP_SOURCE c) = source.toNat →
            u.blob (Reg.CAP_RECORD c) = captureRecord s ∧ u.r (Reg.CAP_COUNT c) = s.oneMore (Reg.CAP_COUNT c))
        ∧ (∀ c, c < 16 → s.r (Reg.CAP_SOURCE c) ≠ source.toNat →
            u.blob (Reg.CAP_RECORD c) = s.blob (Reg.CAP_RECORD c) ∧ u.r (Reg.CAP_COUNT c) = s.r (Reg.CAP_COUNT c))
        ∧ (∀ k, (∀ c, c < 16 → k ≠ Reg.CAP_COUNT c) → u.r k = s.r k) ∧ { u with regs := s.regs, blobs := s.blobs } = s)

/-- Tier 2. GPTP_SYNC_RECEIVE, GPTP_PDELAY_EXCHANGE, GPTP_PDELAY_TRANSMIT, GPTP_SYNC_TRANSMIT, GPTP_ANNOUNCE_RECEIVE
and GPTP_SYNC_TIMEOUT (R324, R325, R476): a Sync is counted, and in a slave mode on a capable port steps or steers the
base; three exchanges in a row make a port capable; a Pdelay request, and in a master mode a Sync, leaves in the port's
domain once its interval has passed; what is sent on a link that is down is discarded and counted; a lock without Syncs
goes to holdover. -/
def Obligations.GptpKeepsTheBase : Prop :=
  ∀ (e : Fin 2) (gm : Nat) (delay : BitVec 32) (s : State), clocksRun s = true →
    let b := e.val + 1
    let x := s.servo b
    (ethUp s e.val = false → exec (.gptpSyncReceive e gm) s = .next s ∧ exec (.gptpAnnounceReceive e) s = .next s
      ∧ (sendDue x.pdelaySent (pdelayInterval s e.val) s.t3 = true → ∃ t, exec (.gptpPdelayTransmit e) s = .next t
          ∧ Becomes s t (s.setServo b { x with pdelaySent := some s.t3 }) [(Reg.NET_TX_DISCARDED e.val, s.oneMore (Reg.NET_TX_DISCARDED e.val))]))
    ∧ (ethUp s e.val = true →
      (∃ t, exec (.gptpAnnounceReceive e) s = .next t ∧ Becomes s t s [(Reg.ANNOUNCE_IGN e.val, s.oneMore (Reg.ANNOUNCE_IGN e.val))])
      ∧ (sendDue x.pdelaySent (pdelayInterval s e.val) s.t3 = true → ∃ t, exec (.gptpPdelayTransmit e) s = .next t
          ∧ Becomes s t ((s.setServo b { x with pdelaySent := some s.t3 }).emit (.gptp e.val (s.r (Reg.DOMAIN e.val)) 1 (s.t b)))
              [(Reg.NET_TX_FRAMES e.val, s.oneMore (Reg.NET_TX_FRAMES e.val))])
      ∧ ((s.r (Reg.T_MODE b) = 2 ∨ s.r (Reg.T_MODE b) = 3) → sendDue x.syncSent (syncInterval s e.val) s.t3 = true →
          ∃ t, exec (.gptpSyncTransmit e) s = .next t
          ∧ Becomes s t ((s.setServo b { x with syncSent := some s.t3 }).emit (.gptp e.val (s.r (Reg.DOMAIN e.val)) 0 (s.t b)))
              [(Reg.NET_TX_FRAMES e.val, min (dictMax (Reg.NET_TX_FRAMES e.val)) (s.r (Reg.NET_TX_FRAMES e.val) + 2))])
      ∧ ((s.r (Reg.T_MODE b) ≠ 1 ∨ asCapable s e.val = false) → ∃ t, exec (.gptpSyncReceive e gm) s = .next t
          ∧ Becomes s t s [(Reg.SYNC_RX e.val, s.oneMore (Reg.SYNC_RX e.val))])
      ∧ (s.r (Reg.T_MODE b) = 1 → asCapable s e.val = true → ∃ t, exec (.gptpSyncReceive e gm) s = .next t
          ∧ t.r (Reg.SYNC_RX e.val) = s.oneMore (Reg.SYNC_RX e.val) ∧ (t.servo b).nextSecond = s.t3
          ∧ (x.first = false → t.t b = gm % 2 ^ 64 ∧ t.r (Reg.T_STEPS b) = s.oneMore (Reg.T_STEPS b) ∧ (t.servo b).first = true)
          ∧ (x.first = true → t.t b = s.t b ∧ t.r (Reg.T_SERVO_OFFSET b) = unsigned 64 ((s.t b : Int) - gm)
              ∧ (8 ≤ x.good + 1 → ((s.t b : Int) - gm).natAbs ≤ 100 → t.r (Reg.T_STATE b) = 2))))
    ∧ (s.r (Reg.T_MODE b) ≠ 2 → s.r (Reg.T_MODE b) ≠ 3 → exec (.gptpSyncTransmit e) s = .next s)
    ∧ (sendDue x.pdelaySent (pdelayInterval s e.val) s.t3 = false → exec (.gptpPdelayTransmit e) s = .next s)
    ∧ (sendDue x.syncSent (syncInterval s e.val) s.t3 = false → exec (.gptpSyncTransmit e) s = .next s)
    ∧ (∀ last span now, sendDue last span now = true ↔ ∀ t, last = some t → t + span ≤ now)
    ∧ (∃ t, exec (.gptpPdelayExchange e true delay) s = .next t ∧ t.r (Reg.LINK_DELAY e.val) = delay.toNat
        ∧ (t.servo b).asRun = min 3 (x.asRun + 1)
        ∧ t.r (Reg.AS_CAPABLE e.val) = (if 2 ≤ x.asRun ∧ delay.toNat ≤ s.r (Reg.DELAY_THRESH e.val) then 1 else 0))
    ∧ (∃ t, exec (.gptpPdelayExchange e false delay) s = .next t ∧ t.r (Reg.PDELAY_FAIL e.val) = s.oneMore (Reg.PDELAY_FAIL e.val)
        ∧ (t.servo b).asRun = 0 ∧ t.r (Reg.AS_CAPABLE e.val) = 0 ∧ t.r (Reg.LINK_DELAY e.val) = s.r (Reg.LINK_DELAY e.val))
    ∧ (let lapse := 10 ^ 9 / 2 ^ (-(s.rI 8 (Reg.LOG_SYNC e.val))).toNat;
      (s.r (Reg.T_MODE b) = 1 → s.r (Reg.T_STATE b) = 2 → x.nextSecond + s.r (Reg.SYNC_TIMEOUT e.val) * lapse ≤ s.t3 →
        exec (.gptpSyncTimeout e) s = .next (enterHoldover b (s.setServo b { x with good := 0 })))
      ∧ ((s.r (Reg.T_STATE b) ≠ 2 ∨ s.t3 < x.nextSecond + s.r (Reg.SYNC_TIMEOUT e.val) * lapse) →
        exec (.gptpSyncTimeout e) s = .next s))

/-- Tier 2. ETH_FRAME_RECEIVE, ARP_REQUEST, NEIGHBOUR_SOLICITATION and ECHO_REQUEST (R474, R476, R481): a frame on a
link that is up is counted; one that filtering drops, one that is too long and a fragment are discarded and counted; a
request for the port's own address is answered to its sender, any other is not. -/
def Obligations.FramesAreReceivedAndAnswered : Prop :=
  ∀ (f : EthFrame) (eth : Fin 3) (target : Nat) (mac : BitVec 48) (ip : Nat) (v6 : Bool) (data : Bytes) (s : State),
    let c := s.bump (Reg.NET_RX_FRAMES f.port.val)
    (ethUp s f.port.val = false → exec (.ethFrameReceive f) s = .next s)
    ∧ (ethUp s f.port.val = true → portPowered s f.port.val = true →
      ((qciPass f c).1 = false → exec (.ethFrameReceive f) s = .next ((qciPass f c).2.bump (Reg.TSN_QCI_DROPS f.port.val)))
      ∧ ((qciPass f c).1 = true → 1528 < f.size → exec (.ethFrameReceive f) s = .next (discardRx f.port.val (qciPass f c).2))
      ∧ ((qciPass f c).1 = true → f.size ≤ 1528 → exec (.ethFrameReceive f) s = .next (dispatchEth f (qciPass f c).2))
      ∧ (f.port = 2 → f.size ≤ 1528 → ∀ a, f.body = .arp a → exec (.ethFrameReceive f) s = .next (answerArp 2 f.src.toNat a c))
      ∧ (f.port = 2 → f.size ≤ 1528 → ∀ src dst v6 sp dp d, f.body = .udp src dst v6 true sp dp d →
          exec (.ethFrameReceive f) s = .next (c.bump (Reg.NET_RX_DISCARDED 2))))
    ∧ (ethUp s eth.val = true →
      (ownIp s eth.val false target = true → ∃ t, exec (.arpRequest eth target mac ip) s = .next t
        ∧ Becomes s t (s.emit (.reply eth.val mac.toNat 0 (beBytes 6 (ownMac s eth.val) ++ beBytes 4 target)))
            [(Reg.NET_TX_FRAMES eth.val, s.oneMore (Reg.NET_TX_FRAMES eth.val))])
      ∧ (ownIp s eth.val true target = true → ∃ t, exec (.neighbourSolicitation eth target mac ip) s = .next t
        ∧ Becomes s t (s.emit (.reply eth.val mac.toNat 1 (beBytes 6 (ownMac s eth.val) ++ beBytes 16 target)))
            [(Reg.NET_TX_FRAMES eth.val, s.oneMore (Reg.NET_TX_FRAMES eth.val))])
      ∧ (ownIp s eth.val v6 target = true → ∃ t, exec (.echoRequest eth target v6 mac ip data) s = .next t
        ∧ Becomes s t (s.emit (.reply eth.val mac.toNat (if v6 then 3 else 2) data))
            [(Reg.NET_TX_FRAMES eth.val, s.oneMore (Reg.NET_TX_FRAMES eth.val))]))
    ∧ ((ethUp s eth.val = false ∨ ownIp s eth.val false target = false) → exec (.arpRequest eth target mac ip) s = .next s)
    ∧ ((ethUp s eth.val = false ∨ ownIp s eth.val true target = false) → exec (.neighbourSolicitation eth target mac ip) s = .next s)
    ∧ ((ethUp s eth.val = false ∨ ownIp s eth.val v6 target = false) → exec (.echoRequest eth target v6 mac ip data) s = .next s)

/-- Tier 2. ETH_LINK_LOSS, ETH_LINK_UP, CAN_BUS_OFF, CAN_BUS_RECOVERY and LW_TEMPLATE_REBUILD (R476, R478, R493): a
lost link or bus is counted and, but on ETH-M, raised; one that returns in the safe state sends the last-word frame it
holds; the template is rebuilt from its entries. -/
def Obligations.LinksAndBusesComeAndGo : Prop :=
  ∀ (eth : Fin 3) (c : Fin 4) (s : State),
    (ethUp s eth.val = true →
      let t := (s.setR (Reg.NET_LINK_STATE eth.val) 0).bump (Reg.NET_LINK_LOSSES eth.val);
      (eth = 2 → exec (.ethLinkLoss eth) s = .next t) ∧ (eth ≠ 2 → exec (.ethLinkLoss eth) s = .next (raise Src.ETH_LINK_LOSS (.link eth.val) t)))
    ∧ (ethUp s eth.val = false → exec (.ethLinkLoss eth) s = .next s)
    ∧ (s.on (Reg.NET_ENABLE eth.val) = true → s.r (Reg.NET_LINK_STATE eth.val) ≠ 2 → portPowered s eth.val = true →
      ((eth ≠ 0 ∨ s.safe = false ∨ s.net.heldLwEth = none) → ∃ t, exec (.ethLinkUp eth) s = .next t
        ∧ Becomes s t s [(Reg.NET_LINK_STATE eth.val, 2)] ∧ ethUp t eth.val = true)
      ∧ (∀ x b, eth = 0 → s.safe = true → s.net.heldLwEth = some (x, b) → x.vlan2 = 0xFFFF → ∃ t, exec (.ethLinkUp eth) s = .next t
        ∧ t.net.heldLwEth = none ∧ t.r Reg.LW_SENT = s.oneMore Reg.LW_SENT
        ∧ t.wire = s.wire ++ [.lastWord 0 x.mac x.vlan1 x.ip (x.udp / 65536) (x.udp % 65536) b]))
    ∧ ((s.on (Reg.NET_ENABLE eth.val) = false ∨ portPowered s eth.val = false) → exec (.ethLinkUp eth) s = .next s)
    ∧ (clocksRun s = true → canUp s c.val = true → exec (.canBusOff c) s
        = .next (raise Src.CAN_BUS_OFF (.can c.val) ((s.setR (Reg.CAN_ERR_STATE c.val) 2).bump (Reg.CAN_BUS_OFFS c.val))))
    ∧ (canUp s c.val = false → exec (.canBusOff c) s = .next s)
    ∧ (clocksRun s = true → s.on (Reg.CAN_ENABLE c.val) = true → s.r (Reg.CAN_ERR_STATE c.val) = 2 →
      ((c ≠ 0 ∨ s.safe = false ∨ s.net.heldLwCan = none) → ∃ t, exec (.canBusRecovery c) s = .next t
        ∧ Becomes s t s [(Reg.CAN_ERR_STATE c.val, 0)] ∧ canUp t c.val = true)
      ∧ (∀ x b, c = 0 → s.safe = true → s.net.heldLwCan = some (x, b) → ∃ t, exec (.canBusRecovery c) s = .next t
        ∧ t.net.heldLwCan = none ∧ t.r Reg.LW_SENT = s.oneMore Reg.LW_SENT ∧ t.wire = s.wire ++ [.canLastWord 0 x.canId (canPad b)]))
    ∧ (s.r (Reg.CAN_ERR_STATE c.val) ≠ 2 → exec (.canBusRecovery c) s = .next s)
    ∧ (s.net.lwDue = true → ∃ t, exec .lwTemplateRebuild s = .next t ∧ t.net.lw = templateOf s ∧ t.net.lwDue = false
        ∧ { t with net := s.net } = s)
    ∧ (s.net.lwDue = false → exec .lwTemplateRebuild s = .next s)

/-- Tier 2. DSP_FRAME_START, DSP_LINE_FETCH, DSP_LINE_SCAN, DSP_FRAME_END, DSP_LINK_LOSS and DSP_LINK_UP (R498 to
R500, R510, R511): a port that no trigger owns starts its frames itself; a line is composed at most 4 lines ahead; a
scanned line leaves as composed, or in BACKGROUND, counted and raised, when it is not there; a frame ends with its
signature; a lost link trains again. -/
def Obligations.DisplaysScanComposedLines : Prop :=
  ∀ (d : Fin 4) (s : State),
    let x := s.dsp d.val
    (displayUp s d.val = true → x.active = false → vsyncOwner s d.val = none → exec (.dspFrameStart d) s = .next (startOutput d.val s)
      ∧ ((startOutput d.val s).dsp d.val).active = true ∧ ((startOutput d.val s).dsp d.val).line = 0
      ∧ ((startOutput d.val s).dsp d.val).planes = (List.range 4).map fun k => samplePlane s (4 * d.val + k))
    ∧ ((displayUp s d.val = false ∨ x.active = true ∨ (vsyncOwner s d.val).isSome) → exec (.dspFrameStart d) s = .next s)
    ∧ (x.active = true → x.fetchNext < s.r (Reg.DSP_V_ACTIVE d.val) → x.fetchNext ≤ x.line + 4 →
      let f := fetchPlanes x.fetchNext x.planes s;
      ∃ t, exec (.dspLineFetch d) s = .next t
        ∧ (t.dsp d.val).fetched = x.fetched ++ [(x.fetchNext, (composeLine s d.val x.fetchNext f.1).1)]
        ∧ (t.dsp d.val).fetchNext = x.fetchNext + 1 ∧ (t.dsp d.val).line = x.line
        ∧ (∀ e, e ≠ d.val → t.dsp e = s.dsp e) ∧ (∀ a, t.memByte a = s.memByte a) ∧ t.ports = s.ports
        ∧ ((∀ y ∈ x.planes, y.enable = true → 36 ≤ y.source) →
            (∀ k, k ≠ Reg.DSP_LAG_ROWS d.val → t.r k = s.r k) ∧ { t with regs := s.regs, disp := s.disp } = s))
    ∧ ((x.active = false ∨ s.r (Reg.DSP_V_ACTIVE d.val) ≤ x.fetchNext ∨ x.line + 4 < x.fetchNext) → exec (.dspLineFetch d) s = .next s)
    ∧ (x.active = true → x.line < s.r (Reg.DSP_V_ACTIVE d.val) →
      (∀ l, x.fetched.find? (fun l => l.1 = x.line) = some l → ∃ t, exec (.dspLineScan d) s = .next t
        ∧ t.wire = s.wire ++ [.displayLine d.val x.line l.2] ∧ (t.dsp d.val).line = x.line + 1
        ∧ (t.dsp d.val).crc = (pixelBytes l.2).foldl crcByte x.crc ∧ (∀ k, t.r k = s.r k)
        ∧ { t with disp := s.disp, wire := s.wire } = s)
      ∧ (x.fetched.find? (fun l => l.1 = x.line) = none → exec (.dspLineScan d) s = .next (raise Src.BRIDGE_OVERFLOW (.domain 22)
          ((sendLine d.val (backgroundLine s d.val) s).bump (Reg.DSP_UNDERRUN d.val)))))
    ∧ ((x.active = false ∨ s.r (Reg.DSP_V_ACTIVE d.val) ≤ x.line) → exec (.dspLineScan d) s = .next s)
    ∧ (x.active = true → x.line = s.r (Reg.DSP_V_ACTIVE d.val) →
        let sig := (x.crc ^^^ 0xFFFFFFFF#32).toNat;
      (sig ≠ s.r (Reg.DSP_OUT_SIGNATURE d.val) ∨ showsChanged x = false ∨ x.anyFrame = false) → ∃ t, exec (.dspFrameEnd d) s = .next t
        ∧ t.r (Reg.DSP_OUT_SIGNATURE d.val) = sig ∧ t.r (Reg.DSP_FRAMES d.val) = s.oneMore (Reg.DSP_FRAMES d.val)
        ∧ (t.dsp d.val).active = false ∧ (t.dsp d.val).repeats = 0 ∧ t.wire = s.wire)
    ∧ (x.active = true → x.line = s.r (Reg.DSP_V_ACTIVE d.val) → x.anyFrame = true → showsChanged x = true →
        (x.crc ^^^ 0xFFFFFFFF#32).toNat = s.r (Reg.DSP_OUT_SIGNATURE d.val) →
      (x.repeats + 1 < s.r (Reg.DSP_FREEZE_N d.val) → ∃ t, exec (.dspFrameEnd d) s = .next t ∧ (t.dsp d.val).repeats = x.repeats + 1
        ∧ t.r (Reg.DSP_FREEZES d.val) = s.r (Reg.DSP_FREEZES d.val))
      ∧ (s.r (Reg.DSP_FREEZE_N d.val) ≤ x.repeats + 1 → ∃ t, exec (.dspFrameEnd d) s = .next (raise Src.DSP_FREEZE (.display d.val) t)
        ∧ (t.dsp d.val).repeats = 0 ∧ t.r (Reg.DSP_FREEZES d.val) = s.oneMore (Reg.DSP_FREEZES d.val)))
    ∧ (x.active = false → exec (.dspFrameEnd d) s = .next s)
    ∧ (displayUp s d.val = true → ∃ t, exec (.dspLinkLoss d) s = .next (raise Src.DSP_LINK_LOSS (.display d.val) t)
        ∧ t.r (Reg.DSP_LINK_STATE d.val) = 1 ∧ t.r (Reg.DSP_LINK_LOSSES d.val) = s.oneMore (Reg.DSP_LINK_LOSSES d.val)
        ∧ (t.dsp d.val).active = false)
    ∧ (displayUp s d.val = false → exec (.dspLinkLoss d) s = .next s)
    ∧ (s.on (Reg.DSP_ENABLE d.val) = true → s.r (Reg.DSP_LINK_STATE d.val) = 1 → ∃ t, exec (.dspLinkUp d) s = .next t
        ∧ Becomes s t s [(Reg.DSP_LINK_STATE d.val, 2)] ∧ displayUp t d.val = true)
    ∧ (s.r (Reg.DSP_LINK_STATE d.val) ≠ 1 → exec (.dspLinkUp d) s = .next s)

/-! ## Reset, boot, standby, firmware and attestation -/

/-- Tier 2. COLD_BOOT, PIN_RESET, RESET_N_DEASSERTED and POWER_DOWN (R514, R516, R542): no register, no byte of DRAM
and no free-running timer outlives the supplies, and fuses do; a pin reset holds the device with ERR_N low until
RESET_N is released, keeps DRAM and counts under its kind. -/
def Obligations.ResetsKeepWhatOutlivesThem : Prop :=
  ∀ (b : BootInputs) (s : State),
    (∃ t, exec .powerDown s = .next t ∧ t.sys.phase = .off ∧ t.regs = [] ∧ t.staged = [] ∧ t.mem = [] ∧ t.rooster = {}
        ∧ t.fuses = s.fuses ∧ t.wire = s.wire ∧ t.sys.coreEn = false)
    ∧ (∃ t, exec (.coldBoot b) s = .next t ∧ t.sys.bootIn = some b ∧ t.fuses = s.fuses
        ∧ t.sys.phase = (if t.sys.resetN then .booting else .heldInReset)
        ∧ (s.sys.phase ≠ .off → t.regs = [] ∧ t.mem = [] ∧ t.aon = {}))
    ∧ (s.sys.phase = .off → ∃ t, exec (.pinReset b) s = .next t ∧ t.sys.phase = .off ∧ t.sys.resetN = false ∧ { t with sys := s.sys } = s)
    ∧ (s.sys.phase ≠ .off → ∃ t, exec (.pinReset b) s = .next t ∧ t.sys.phase = .heldInReset ∧ t.sys.resetN = false ∧ t.sys.errLow = true
        ∧ t.r Reg.RESET_KIND = 2 ∧ t.mem = s.mem ∧ t.fuses = s.fuses ∧ t.sys.bootIn = some b
        ∧ (∀ n, n < 104 → t.r (Reg.FAULT_COUNT n) = s.r (Reg.FAULT_COUNT n)) ∧ t.wire = s.wire)
    ∧ (s.sys.phase = .heldInReset → ∃ t, exec .resetNDeasserted s = .next t ∧ t.sys.phase = .booting ∧ t.sys.resetN = true
        ∧ t.sys.bootStart = s.t3 ∧ { t with sys := s.sys } = s)
    ∧ (s.sys.phase ≠ .heldInReset → ∃ t, exec .resetNDeasserted s = .next t ∧ t.sys.phase = s.sys.phase ∧ t.sys.resetN = true
        ∧ { t with sys := s.sys } = s)

/-- Tier 2. READY, STANDBY_ENTRY_COMPLETE and WAKE_EVENT (R432, R517, R518, R520, R535, R537, R538): the last step of
a boot or a wake ends in ready, or in a stopped boot that names its failure; standby is entered once frames have left
the gate and ring records are whole, with CORE_EN low; an enabled event is recorded and starts the wake.
FW_FLASH_WRITE_DONE and ATTEST_REPORT_READY (R528, R529, R534): a programmed image is the flash's and pending, a
failed one leaves none intact; a report under way is complete and signed over the state at that moment. -/
def Obligations.BootsStandbyAndFirmwareComplete : Prop :=
  (∀ (b : BootInputs) (k : Fin 8) (s : State),
       (s.sys.phase = .booting → s.sys.bootIn = some b → exec .ready s = .next (finishBoot b s))
       ∧ (s.sys.phase = .waking → s.sys.bootIn = some b → exec .ready s = .next (finishWake b s))
       ∧ (s.sys.bootIn = none → exec .ready s = .next s)
       ∧ (∀ n (t : State), (becomeReady n t).sys.phase = .ready ∧ (becomeReady n t).r Reg.BOOT_STATUS = 0
           ∧ (errHeld t = false → t.drained = false → (becomeReady n t).sys.errLow = false ∧ (becomeReady n t).safe = false))
       ∧ (∀ c n, bootFailure s n b = some c → (stopBoot c b .failed s).sys.phase = .failed ∧ (stopBoot c b .failed s).r Reg.BOOT_STATUS = c
           ∧ (s.sys.phase = .waking → s.sys.bootIn = some b → bootFailure s 0 b = some c → c ≠ 0x0023 →
               exec .ready s = .next (stopBoot c b .failed s)))
       ∧ (s.sys.phase = .enteringStandby → (∀ g, g < 64 → framesLeft s g = false) → ringBusy s = false →
         ∃ t, exec .standbyEntryComplete s = .next t ∧ t.pad = [] ∧ t.acc = [] ∧ t.lines = []
           ∧ (s.sys.wakePending = false → (∀ p, p < 24 → (s.port p).cur = none) →
             t.sys.phase = .standby ∧ t.sys.coreEn = false ∧ t.sys.selfRefresh = true ∧ t.mem = s.mem ∧ t.fuses = s.fuses
             ∧ t.units = (if s.drained then s.units else []) ∧ t.wire = s.wire
             ∧ ((∀ g, g < 64 → ∀ m ∈ (s.slot g).monitors, m < 256) → t.r Reg.STANDBY_ENTRIES = s.oneMore Reg.STANDBY_ENTRIES)
             ∧ (∀ g, g < 64 → s.r (Reg.GRAPH_STATE g) = 3 → (s.slot g).pkg.isSome → t.r (Reg.GRAPH_STATE g) = 1)))
       ∧ ((s.sys.phase ≠ .enteringStandby ∨ ringBusy s = true) → exec .standbyEntryComplete s = .next s)
       ∧ (wakeEnabled s k.val = false → exec (.wakeEvent k b) s = .next s)
       ∧ (wakeEnabled s k.val = true →
         (s.sys.phase = .standby → ∃ t, exec (.wakeEvent k b) s = .next t ∧ t.sys.phase = .waking ∧ t.sys.coreEn = true
           ∧ t.sys.bootIn = some b ∧ (t.r Reg.WAKE_CAUSE).testBit k.val = true ∧ t.sys.bootStart = s.t3 ∧ t.mem = s.mem)
         ∧ (s.sys.phase = .enteringStandby → ∃ t, exec (.wakeEvent k b) s = .next t ∧ t.sys.phase = .enteringStandby
           ∧ t.sys.wakePending = true ∧ (t.r Reg.WAKE_CAUSE).testBit k.val = true ∧ (∀ j, j ≠ Reg.WAKE_CAUSE → t.r j = s.r j))
         ∧ (s.sys.phase = .waking → s.t3 < s.sys.bootStart + 20000000 → ∃ t, exec (.wakeEvent k b) s = .next t
           ∧ Becomes s t s [(Reg.WAKE_CAUSE, setBit (s.r Reg.WAKE_CAUSE) k.val)])))
  ∧ (∀ (w : FwImage) (s : State),
       (s.sys.fwPending = some w → s.r Reg.FW_UPDATE_STATE = 2 →
         (∃ t, exec (.fwFlashWriteDone true) s = .next t ∧ t.flash.fw = w ∧ t.flash.fwIntact = true ∧ t.sys.fwPending = none
           ∧ t.sys.running = s.sys.running
           ∧ Becomes s t { s with flash := t.flash, sys := t.sys } [(Reg.FW_UPDATE_STATE, 3), (Reg.FW_PENDING_VERSION, w.version)])
         ∧ (∃ t, exec (.fwFlashWriteDone false) s = .next t ∧ t.flash.fwIntact = false ∧ t.flash.fw = s.flash.fw ∧ t.sys.fwPending = none
           ∧ Becomes s t { s with flash := t.flash, sys := t.sys } [(Reg.FW_UPDATE_STATE, 4), (Reg.FW_LOAD_STATUS, 0x000F)]))
       ∧ (s.sys.fwPending = none → ∀ ok, exec (.fwFlashWriteDone ok) s = .next s)
       ∧ (s.sys.attestBusy.isSome → ∃ t, exec .attestReportReady s = .next t ∧ t.blob Reg.ATTEST_REPORT = attestReport s
           ∧ t.sys.attestBusy = none ∧ (∀ k, t.r k = s.r k) ∧ (∀ k, k ≠ Reg.ATTEST_REPORT → t.blob k = s.blob k)
           ∧ { t with blobs := s.blobs, sys := s.sys } = s)
       ∧ (s.sys.attestBusy = none → exec .attestReportReady s = .next s))
end

