-- ==== Sys2Proof/Laws/State.lean ====
section
/-! SUPPORT. What each update of one field leaves alone: one lemma per field. -/

namespace Sys2Proof.Machine

open Sys2Proof

section setR
variable {s : State} {k} {v}
@[simp] theorem State.setR_staged : (s.setR k v).staged = s.staged := rfl
@[simp] theorem State.setR_blobs : (s.setR k v).blobs = s.blobs := rfl
@[simp] theorem State.setR_stagedBlobs : (s.setR k v).stagedBlobs = s.stagedBlobs := rfl
@[simp] theorem State.setR_mem : (s.setR k v).mem = s.mem := rfl
@[simp] theorem State.setR_dramErr : (s.setR k v).dramErr = s.dramErr := rfl
@[simp] theorem State.setR_space : (s.setR k v).space = s.space := rfl
@[simp] theorem State.setR_sram : (s.setR k v).sram = s.sram := rfl
@[simp] theorem State.setR_pad : (s.setR k v).pad = s.pad := rfl
@[simp] theorem State.setR_fuses : (s.setR k v).fuses = s.fuses := rfl
@[simp] theorem State.setR_flash : (s.setR k v).flash = s.flash := rfl
@[simp] theorem State.setR_aon : (s.setR k v).aon = s.aon := rfl
@[simp] theorem State.setR_sys : (s.setR k v).sys = s.sys := rfl
@[simp] theorem State.setR_rooster : (s.setR k v).rooster = s.rooster := rfl
@[simp] theorem State.setR_ring : (s.setR k v).ring = s.ring := rfl
@[simp] theorem State.setR_ports : (s.setR k v).ports = s.ports := rfl
@[simp] theorem State.setR_ctxs : (s.setR k v).ctxs = s.ctxs := rfl
@[simp] theorem State.setR_pipes : (s.setR k v).pipes = s.pipes := rfl
@[simp] theorem State.setR_scans : (s.setR k v).scans = s.scans := rfl
@[simp] theorem State.setR_slots : (s.setR k v).slots = s.slots := rfl
@[simp] theorem State.setR_units : (s.setR k v).units = s.units := rfl
@[simp] theorem State.setR_acc : (s.setR k v).acc = s.acc := rfl
@[simp] theorem State.setR_rows : (s.setR k v).rows = s.rows := rfl
@[simp] theorem State.setR_lanes : (s.setR k v).lanes = s.lanes := rfl
@[simp] theorem State.setR_gooses : (s.setR k v).gooses = s.gooses := rfl
@[simp] theorem State.setR_lines : (s.setR k v).lines = s.lines := rfl
@[simp] theorem State.setR_plru : (s.setR k v).plru = s.plru := rfl
@[simp] theorem State.setR_wins : (s.setR k v).wins = s.wins := rfl
@[simp] theorem State.setR_segs : (s.setR k v).segs = s.segs := rfl
@[simp] theorem State.setR_mons : (s.setR k v).mons = s.mons := rfl
@[simp] theorem State.setR_pace : (s.setR k v).pace = s.pace := rfl
@[simp] theorem State.setR_ift : (s.setR k v).ift = s.ift := rfl
@[simp] theorem State.setR_sup : (s.setR k v).sup = s.sup := rfl
@[simp] theorem State.setR_net : (s.setR k v).net = s.net := rfl
@[simp] theorem State.setR_disp : (s.setR k v).disp = s.disp := rfl
@[simp] theorem State.setR_diale : (s.setR k v).diale = s.diale := rfl
@[simp] theorem State.setR_wire : (s.setR k v).wire = s.wire := rfl
@[simp] theorem State.setR_free : (s.setR k v).free = s.free := rfl
@[simp] theorem State.setR_pending : (s.setR k v).pending = s.pending := rfl
end setR

section setBlob
variable {s : State} {k} {b}
@[simp] theorem State.setBlob_regs : (s.setBlob k b).regs = s.regs := rfl
@[simp] theorem State.setBlob_staged : (s.setBlob k b).staged = s.staged := rfl
@[simp] theorem State.setBlob_stagedBlobs : (s.setBlob k b).stagedBlobs = s.stagedBlobs := rfl
@[simp] theorem State.setBlob_mem : (s.setBlob k b).mem = s.mem := rfl
@[simp] theorem State.setBlob_dramErr : (s.setBlob k b).dramErr = s.dramErr := rfl
@[simp] theorem State.setBlob_space : (s.setBlob k b).space = s.space := rfl
@[simp] theorem State.setBlob_sram : (s.setBlob k b).sram = s.sram := rfl
@[simp] theorem State.setBlob_pad : (s.setBlob k b).pad = s.pad := rfl
@[simp] theorem State.setBlob_fuses : (s.setBlob k b).fuses = s.fuses := rfl
@[simp] theorem State.setBlob_flash : (s.setBlob k b).flash = s.flash := rfl
@[simp] theorem State.setBlob_aon : (s.setBlob k b).aon = s.aon := rfl
@[simp] theorem State.setBlob_sys : (s.setBlob k b).sys = s.sys := rfl
@[simp] theorem State.setBlob_rooster : (s.setBlob k b).rooster = s.rooster := rfl
@[simp] theorem State.setBlob_ring : (s.setBlob k b).ring = s.ring := rfl
@[simp] theorem State.setBlob_ports : (s.setBlob k b).ports = s.ports := rfl
@[simp] theorem State.setBlob_ctxs : (s.setBlob k b).ctxs = s.ctxs := rfl
@[simp] theorem State.setBlob_pipes : (s.setBlob k b).pipes = s.pipes := rfl
@[simp] theorem State.setBlob_scans : (s.setBlob k b).scans = s.scans := rfl
@[simp] theorem State.setBlob_slots : (s.setBlob k b).slots = s.slots := rfl
@[simp] theorem State.setBlob_units : (s.setBlob k b).units = s.units := rfl
@[simp] theorem State.setBlob_acc : (s.setBlob k b).acc = s.acc := rfl
@[simp] theorem State.setBlob_rows : (s.setBlob k b).rows = s.rows := rfl
@[simp] theorem State.setBlob_lanes : (s.setBlob k b).lanes = s.lanes := rfl
@[simp] theorem State.setBlob_gooses : (s.setBlob k b).gooses = s.gooses := rfl
@[simp] theorem State.setBlob_lines : (s.setBlob k b).lines = s.lines := rfl
@[simp] theorem State.setBlob_plru : (s.setBlob k b).plru = s.plru := rfl
@[simp] theorem State.setBlob_wins : (s.setBlob k b).wins = s.wins := rfl
@[simp] theorem State.setBlob_segs : (s.setBlob k b).segs = s.segs := rfl
@[simp] theorem State.setBlob_mons : (s.setBlob k b).mons = s.mons := rfl
@[simp] theorem State.setBlob_pace : (s.setBlob k b).pace = s.pace := rfl
@[simp] theorem State.setBlob_ift : (s.setBlob k b).ift = s.ift := rfl
@[simp] theorem State.setBlob_sup : (s.setBlob k b).sup = s.sup := rfl
@[simp] theorem State.setBlob_net : (s.setBlob k b).net = s.net := rfl
@[simp] theorem State.setBlob_disp : (s.setBlob k b).disp = s.disp := rfl
@[simp] theorem State.setBlob_diale : (s.setBlob k b).diale = s.diale := rfl
@[simp] theorem State.setBlob_wire : (s.setBlob k b).wire = s.wire := rfl
@[simp] theorem State.setBlob_free : (s.setBlob k b).free = s.free := rfl
@[simp] theorem State.setBlob_pending : (s.setBlob k b).pending = s.pending := rfl
end setBlob

section setPort
variable {s : State} {k} {v}
@[simp] theorem State.setPort_regs : (s.setPort k v).regs = s.regs := rfl
@[simp] theorem State.setPort_staged : (s.setPort k v).staged = s.staged := rfl
@[simp] theorem State.setPort_blobs : (s.setPort k v).blobs = s.blobs := rfl
@[simp] theorem State.setPort_stagedBlobs : (s.setPort k v).stagedBlobs = s.stagedBlobs := rfl
@[simp] theorem State.setPort_mem : (s.setPort k v).mem = s.mem := rfl
@[simp] theorem State.setPort_dramErr : (s.setPort k v).dramErr = s.dramErr := rfl
@[simp] theorem State.setPort_space : (s.setPort k v).space = s.space := rfl
@[simp] theorem State.setPort_sram : (s.setPort k v).sram = s.sram := rfl
@[simp] theorem State.setPort_pad : (s.setPort k v).pad = s.pad := rfl
@[simp] theorem State.setPort_fuses : (s.setPort k v).fuses = s.fuses := rfl
@[simp] theorem State.setPort_flash : (s.setPort k v).flash = s.flash := rfl
@[simp] theorem State.setPort_aon : (s.setPort k v).aon = s.aon := rfl
@[simp] theorem State.setPort_sys : (s.setPort k v).sys = s.sys := rfl
@[simp] theorem State.setPort_rooster : (s.setPort k v).rooster = s.rooster := rfl
@[simp] theorem State.setPort_ring : (s.setPort k v).ring = s.ring := rfl
@[simp] theorem State.setPort_ctxs : (s.setPort k v).ctxs = s.ctxs := rfl
@[simp] theorem State.setPort_pipes : (s.setPort k v).pipes = s.pipes := rfl
@[simp] theorem State.setPort_scans : (s.setPort k v).scans = s.scans := rfl
@[simp] theorem State.setPort_slots : (s.setPort k v).slots = s.slots := rfl
@[simp] theorem State.setPort_units : (s.setPort k v).units = s.units := rfl
@[simp] theorem State.setPort_acc : (s.setPort k v).acc = s.acc := rfl
@[simp] theorem State.setPort_rows : (s.setPort k v).rows = s.rows := rfl
@[simp] theorem State.setPort_lanes : (s.setPort k v).lanes = s.lanes := rfl
@[simp] theorem State.setPort_gooses : (s.setPort k v).gooses = s.gooses := rfl
@[simp] theorem State.setPort_lines : (s.setPort k v).lines = s.lines := rfl
@[simp] theorem State.setPort_plru : (s.setPort k v).plru = s.plru := rfl
@[simp] theorem State.setPort_wins : (s.setPort k v).wins = s.wins := rfl
@[simp] theorem State.setPort_segs : (s.setPort k v).segs = s.segs := rfl
@[simp] theorem State.setPort_mons : (s.setPort k v).mons = s.mons := rfl
@[simp] theorem State.setPort_pace : (s.setPort k v).pace = s.pace := rfl
@[simp] theorem State.setPort_ift : (s.setPort k v).ift = s.ift := rfl
@[simp] theorem State.setPort_sup : (s.setPort k v).sup = s.sup := rfl
@[simp] theorem State.setPort_net : (s.setPort k v).net = s.net := rfl
@[simp] theorem State.setPort_disp : (s.setPort k v).disp = s.disp := rfl
@[simp] theorem State.setPort_diale : (s.setPort k v).diale = s.diale := rfl
@[simp] theorem State.setPort_wire : (s.setPort k v).wire = s.wire := rfl
@[simp] theorem State.setPort_free : (s.setPort k v).free = s.free := rfl
@[simp] theorem State.setPort_pending : (s.setPort k v).pending = s.pending := rfl
end setPort

section setCtx
variable {s : State} {k} {v}
@[simp] theorem State.setCtx_regs : (s.setCtx k v).regs = s.regs := rfl
@[simp] theorem State.setCtx_staged : (s.setCtx k v).staged = s.staged := rfl
@[simp] theorem State.setCtx_blobs : (s.setCtx k v).blobs = s.blobs := rfl
@[simp] theorem State.setCtx_stagedBlobs : (s.setCtx k v).stagedBlobs = s.stagedBlobs := rfl
@[simp] theorem State.setCtx_mem : (s.setCtx k v).mem = s.mem := rfl
@[simp] theorem State.setCtx_dramErr : (s.setCtx k v).dramErr = s.dramErr := rfl
@[simp] theorem State.setCtx_space : (s.setCtx k v).space = s.space := rfl
@[simp] theorem State.setCtx_sram : (s.setCtx k v).sram = s.sram := rfl
@[simp] theorem State.setCtx_pad : (s.setCtx k v).pad = s.pad := rfl
@[simp] theorem State.setCtx_fuses : (s.setCtx k v).fuses = s.fuses := rfl
@[simp] theorem State.setCtx_flash : (s.setCtx k v).flash = s.flash := rfl
@[simp] theorem State.setCtx_aon : (s.setCtx k v).aon = s.aon := rfl
@[simp] theorem State.setCtx_sys : (s.setCtx k v).sys = s.sys := rfl
@[simp] theorem State.setCtx_rooster : (s.setCtx k v).rooster = s.rooster := rfl
@[simp] theorem State.setCtx_ring : (s.setCtx k v).ring = s.ring := rfl
@[simp] theorem State.setCtx_ports : (s.setCtx k v).ports = s.ports := rfl
@[simp] theorem State.setCtx_pipes : (s.setCtx k v).pipes = s.pipes := rfl
@[simp] theorem State.setCtx_scans : (s.setCtx k v).scans = s.scans := rfl
@[simp] theorem State.setCtx_slots : (s.setCtx k v).slots = s.slots := rfl
@[simp] theorem State.setCtx_units : (s.setCtx k v).units = s.units := rfl
@[simp] theorem State.setCtx_acc : (s.setCtx k v).acc = s.acc := rfl
@[simp] theorem State.setCtx_rows : (s.setCtx k v).rows = s.rows := rfl
@[simp] theorem State.setCtx_lanes : (s.setCtx k v).lanes = s.lanes := rfl
@[simp] theorem State.setCtx_gooses : (s.setCtx k v).gooses = s.gooses := rfl
@[simp] theorem State.setCtx_lines : (s.setCtx k v).lines = s.lines := rfl
@[simp] theorem State.setCtx_plru : (s.setCtx k v).plru = s.plru := rfl
@[simp] theorem State.setCtx_wins : (s.setCtx k v).wins = s.wins := rfl
@[simp] theorem State.setCtx_segs : (s.setCtx k v).segs = s.segs := rfl
@[simp] theorem State.setCtx_mons : (s.setCtx k v).mons = s.mons := rfl
@[simp] theorem State.setCtx_pace : (s.setCtx k v).pace = s.pace := rfl
@[simp] theorem State.setCtx_ift : (s.setCtx k v).ift = s.ift := rfl
@[simp] theorem State.setCtx_sup : (s.setCtx k v).sup = s.sup := rfl
@[simp] theorem State.setCtx_net : (s.setCtx k v).net = s.net := rfl
@[simp] theorem State.setCtx_disp : (s.setCtx k v).disp = s.disp := rfl
@[simp] theorem State.setCtx_diale : (s.setCtx k v).diale = s.diale := rfl
@[simp] theorem State.setCtx_wire : (s.setCtx k v).wire = s.wire := rfl
@[simp] theorem State.setCtx_free : (s.setCtx k v).free = s.free := rfl
@[simp] theorem State.setCtx_pending : (s.setCtx k v).pending = s.pending := rfl
end setCtx

section setPipe
variable {s : State} {k} {v}
@[simp] theorem State.setPipe_regs : (s.setPipe k v).regs = s.regs := rfl
@[simp] theorem State.setPipe_staged : (s.setPipe k v).staged = s.staged := rfl
@[simp] theorem State.setPipe_blobs : (s.setPipe k v).blobs = s.blobs := rfl
@[simp] theorem State.setPipe_stagedBlobs : (s.setPipe k v).stagedBlobs = s.stagedBlobs := rfl
@[simp] theorem State.setPipe_mem : (s.setPipe k v).mem = s.mem := rfl
@[simp] theorem State.setPipe_dramErr : (s.setPipe k v).dramErr = s.dramErr := rfl
@[simp] theorem State.setPipe_space : (s.setPipe k v).space = s.space := rfl
@[simp] theorem State.setPipe_sram : (s.setPipe k v).sram = s.sram := rfl
@[simp] theorem State.setPipe_pad : (s.setPipe k v).pad = s.pad := rfl
@[simp] theorem State.setPipe_fuses : (s.setPipe k v).fuses = s.fuses := rfl
@[simp] theorem State.setPipe_flash : (s.setPipe k v).flash = s.flash := rfl
@[simp] theorem State.setPipe_aon : (s.setPipe k v).aon = s.aon := rfl
@[simp] theorem State.setPipe_sys : (s.setPipe k v).sys = s.sys := rfl
@[simp] theorem State.setPipe_rooster : (s.setPipe k v).rooster = s.rooster := rfl
@[simp] theorem State.setPipe_ring : (s.setPipe k v).ring = s.ring := rfl
@[simp] theorem State.setPipe_ports : (s.setPipe k v).ports = s.ports := rfl
@[simp] theorem State.setPipe_ctxs : (s.setPipe k v).ctxs = s.ctxs := rfl
@[simp] theorem State.setPipe_scans : (s.setPipe k v).scans = s.scans := rfl
@[simp] theorem State.setPipe_slots : (s.setPipe k v).slots = s.slots := rfl
@[simp] theorem State.setPipe_units : (s.setPipe k v).units = s.units := rfl
@[simp] theorem State.setPipe_acc : (s.setPipe k v).acc = s.acc := rfl
@[simp] theorem State.setPipe_rows : (s.setPipe k v).rows = s.rows := rfl
@[simp] theorem State.setPipe_lanes : (s.setPipe k v).lanes = s.lanes := rfl
@[simp] theorem State.setPipe_gooses : (s.setPipe k v).gooses = s.gooses := rfl
@[simp] theorem State.setPipe_lines : (s.setPipe k v).lines = s.lines := rfl
@[simp] theorem State.setPipe_plru : (s.setPipe k v).plru = s.plru := rfl
@[simp] theorem State.setPipe_wins : (s.setPipe k v).wins = s.wins := rfl
@[simp] theorem State.setPipe_segs : (s.setPipe k v).segs = s.segs := rfl
@[simp] theorem State.setPipe_mons : (s.setPipe k v).mons = s.mons := rfl
@[simp] theorem State.setPipe_pace : (s.setPipe k v).pace = s.pace := rfl
@[simp] theorem State.setPipe_ift : (s.setPipe k v).ift = s.ift := rfl
@[simp] theorem State.setPipe_sup : (s.setPipe k v).sup = s.sup := rfl
@[simp] theorem State.setPipe_net : (s.setPipe k v).net = s.net := rfl
@[simp] theorem State.setPipe_disp : (s.setPipe k v).disp = s.disp := rfl
@[simp] theorem State.setPipe_diale : (s.setPipe k v).diale = s.diale := rfl
@[simp] theorem State.setPipe_wire : (s.setPipe k v).wire = s.wire := rfl
@[simp] theorem State.setPipe_free : (s.setPipe k v).free = s.free := rfl
@[simp] theorem State.setPipe_pending : (s.setPipe k v).pending = s.pending := rfl
end setPipe

section setScan
variable {s : State} {k} {v}
@[simp] theorem State.setScan_regs : (s.setScan k v).regs = s.regs := rfl
@[simp] theorem State.setScan_staged : (s.setScan k v).staged = s.staged := rfl
@[simp] theorem State.setScan_blobs : (s.setScan k v).blobs = s.blobs := rfl
@[simp] theorem State.setScan_stagedBlobs : (s.setScan k v).stagedBlobs = s.stagedBlobs := rfl
@[simp] theorem State.setScan_mem : (s.setScan k v).mem = s.mem := rfl
@[simp] theorem State.setScan_dramErr : (s.setScan k v).dramErr = s.dramErr := rfl
@[simp] theorem State.setScan_space : (s.setScan k v).space = s.space := rfl
@[simp] theorem State.setScan_sram : (s.setScan k v).sram = s.sram := rfl
@[simp] theorem State.setScan_pad : (s.setScan k v).pad = s.pad := rfl
@[simp] theorem State.setScan_fuses : (s.setScan k v).fuses = s.fuses := rfl
@[simp] theorem State.setScan_flash : (s.setScan k v).flash = s.flash := rfl
@[simp] theorem State.setScan_aon : (s.setScan k v).aon = s.aon := rfl
@[simp] theorem State.setScan_sys : (s.setScan k v).sys = s.sys := rfl
@[simp] theorem State.setScan_rooster : (s.setScan k v).rooster = s.rooster := rfl
@[simp] theorem State.setScan_ring : (s.setScan k v).ring = s.ring := rfl
@[simp] theorem State.setScan_ports : (s.setScan k v).ports = s.ports := rfl
@[simp] theorem State.setScan_ctxs : (s.setScan k v).ctxs = s.ctxs := rfl
@[simp] theorem State.setScan_pipes : (s.setScan k v).pipes = s.pipes := rfl
@[simp] theorem State.setScan_slots : (s.setScan k v).slots = s.slots := rfl
@[simp] theorem State.setScan_units : (s.setScan k v).units = s.units := rfl
@[simp] theorem State.setScan_acc : (s.setScan k v).acc = s.acc := rfl
@[simp] theorem State.setScan_rows : (s.setScan k v).rows = s.rows := rfl
@[simp] theorem State.setScan_lanes : (s.setScan k v).lanes = s.lanes := rfl
@[simp] theorem State.setScan_gooses : (s.setScan k v).gooses = s.gooses := rfl
@[simp] theorem State.setScan_lines : (s.setScan k v).lines = s.lines := rfl
@[simp] theorem State.setScan_plru : (s.setScan k v).plru = s.plru := rfl
@[simp] theorem State.setScan_wins : (s.setScan k v).wins = s.wins := rfl
@[simp] theorem State.setScan_segs : (s.setScan k v).segs = s.segs := rfl
@[simp] theorem State.setScan_mons : (s.setScan k v).mons = s.mons := rfl
@[simp] theorem State.setScan_pace : (s.setScan k v).pace = s.pace := rfl
@[simp] theorem State.setScan_ift : (s.setScan k v).ift = s.ift := rfl
@[simp] theorem State.setScan_sup : (s.setScan k v).sup = s.sup := rfl
@[simp] theorem State.setScan_net : (s.setScan k v).net = s.net := rfl
@[simp] theorem State.setScan_disp : (s.setScan k v).disp = s.disp := rfl
@[simp] theorem State.setScan_diale : (s.setScan k v).diale = s.diale := rfl
@[simp] theorem State.setScan_wire : (s.setScan k v).wire = s.wire := rfl
@[simp] theorem State.setScan_free : (s.setScan k v).free = s.free := rfl
@[simp] theorem State.setScan_pending : (s.setScan k v).pending = s.pending := rfl
end setScan

section setSlot
variable {s : State} {k} {v}
@[simp] theorem State.setSlot_regs : (s.setSlot k v).regs = s.regs := rfl
@[simp] theorem State.setSlot_staged : (s.setSlot k v).staged = s.staged := rfl
@[simp] theorem State.setSlot_blobs : (s.setSlot k v).blobs = s.blobs := rfl
@[simp] theorem State.setSlot_stagedBlobs : (s.setSlot k v).stagedBlobs = s.stagedBlobs := rfl
@[simp] theorem State.setSlot_mem : (s.setSlot k v).mem = s.mem := rfl
@[simp] theorem State.setSlot_dramErr : (s.setSlot k v).dramErr = s.dramErr := rfl
@[simp] theorem State.setSlot_space : (s.setSlot k v).space = s.space := rfl
@[simp] theorem State.setSlot_sram : (s.setSlot k v).sram = s.sram := rfl
@[simp] theorem State.setSlot_pad : (s.setSlot k v).pad = s.pad := rfl
@[simp] theorem State.setSlot_fuses : (s.setSlot k v).fuses = s.fuses := rfl
@[simp] theorem State.setSlot_flash : (s.setSlot k v).flash = s.flash := rfl
@[simp] theorem State.setSlot_aon : (s.setSlot k v).aon = s.aon := rfl
@[simp] theorem State.setSlot_sys : (s.setSlot k v).sys = s.sys := rfl
@[simp] theorem State.setSlot_rooster : (s.setSlot k v).rooster = s.rooster := rfl
@[simp] theorem State.setSlot_ring : (s.setSlot k v).ring = s.ring := rfl
@[simp] theorem State.setSlot_ports : (s.setSlot k v).ports = s.ports := rfl
@[simp] theorem State.setSlot_ctxs : (s.setSlot k v).ctxs = s.ctxs := rfl
@[simp] theorem State.setSlot_pipes : (s.setSlot k v).pipes = s.pipes := rfl
@[simp] theorem State.setSlot_scans : (s.setSlot k v).scans = s.scans := rfl
@[simp] theorem State.setSlot_units : (s.setSlot k v).units = s.units := rfl
@[simp] theorem State.setSlot_acc : (s.setSlot k v).acc = s.acc := rfl
@[simp] theorem State.setSlot_rows : (s.setSlot k v).rows = s.rows := rfl
@[simp] theorem State.setSlot_lanes : (s.setSlot k v).lanes = s.lanes := rfl
@[simp] theorem State.setSlot_gooses : (s.setSlot k v).gooses = s.gooses := rfl
@[simp] theorem State.setSlot_lines : (s.setSlot k v).lines = s.lines := rfl
@[simp] theorem State.setSlot_plru : (s.setSlot k v).plru = s.plru := rfl
@[simp] theorem State.setSlot_wins : (s.setSlot k v).wins = s.wins := rfl
@[simp] theorem State.setSlot_segs : (s.setSlot k v).segs = s.segs := rfl
@[simp] theorem State.setSlot_mons : (s.setSlot k v).mons = s.mons := rfl
@[simp] theorem State.setSlot_pace : (s.setSlot k v).pace = s.pace := rfl
@[simp] theorem State.setSlot_ift : (s.setSlot k v).ift = s.ift := rfl
@[simp] theorem State.setSlot_sup : (s.setSlot k v).sup = s.sup := rfl
@[simp] theorem State.setSlot_net : (s.setSlot k v).net = s.net := rfl
@[simp] theorem State.setSlot_disp : (s.setSlot k v).disp = s.disp := rfl
@[simp] theorem State.setSlot_diale : (s.setSlot k v).diale = s.diale := rfl
@[simp] theorem State.setSlot_wire : (s.setSlot k v).wire = s.wire := rfl
@[simp] theorem State.setSlot_free : (s.setSlot k v).free = s.free := rfl
@[simp] theorem State.setSlot_pending : (s.setSlot k v).pending = s.pending := rfl
end setSlot

section setUnit
variable {s : State} {k} {v}
@[simp] theorem State.setUnit_regs : (s.setUnit k v).regs = s.regs := rfl
@[simp] theorem State.setUnit_staged : (s.setUnit k v).staged = s.staged := rfl
@[simp] theorem State.setUnit_blobs : (s.setUnit k v).blobs = s.blobs := rfl
@[simp] theorem State.setUnit_stagedBlobs : (s.setUnit k v).stagedBlobs = s.stagedBlobs := rfl
@[simp] theorem State.setUnit_mem : (s.setUnit k v).mem = s.mem := rfl
@[simp] theorem State.setUnit_dramErr : (s.setUnit k v).dramErr = s.dramErr := rfl
@[simp] theorem State.setUnit_space : (s.setUnit k v).space = s.space := rfl
@[simp] theorem State.setUnit_sram : (s.setUnit k v).sram = s.sram := rfl
@[simp] theorem State.setUnit_pad : (s.setUnit k v).pad = s.pad := rfl
@[simp] theorem State.setUnit_fuses : (s.setUnit k v).fuses = s.fuses := rfl
@[simp] theorem State.setUnit_flash : (s.setUnit k v).flash = s.flash := rfl
@[simp] theorem State.setUnit_aon : (s.setUnit k v).aon = s.aon := rfl
@[simp] theorem State.setUnit_sys : (s.setUnit k v).sys = s.sys := rfl
@[simp] theorem State.setUnit_rooster : (s.setUnit k v).rooster = s.rooster := rfl
@[simp] theorem State.setUnit_ring : (s.setUnit k v).ring = s.ring := rfl
@[simp] theorem State.setUnit_ports : (s.setUnit k v).ports = s.ports := rfl
@[simp] theorem State.setUnit_ctxs : (s.setUnit k v).ctxs = s.ctxs := rfl
@[simp] theorem State.setUnit_pipes : (s.setUnit k v).pipes = s.pipes := rfl
@[simp] theorem State.setUnit_scans : (s.setUnit k v).scans = s.scans := rfl
@[simp] theorem State.setUnit_slots : (s.setUnit k v).slots = s.slots := rfl
@[simp] theorem State.setUnit_acc : (s.setUnit k v).acc = s.acc := rfl
@[simp] theorem State.setUnit_rows : (s.setUnit k v).rows = s.rows := rfl
@[simp] theorem State.setUnit_lanes : (s.setUnit k v).lanes = s.lanes := rfl
@[simp] theorem State.setUnit_gooses : (s.setUnit k v).gooses = s.gooses := rfl
@[simp] theorem State.setUnit_lines : (s.setUnit k v).lines = s.lines := rfl
@[simp] theorem State.setUnit_plru : (s.setUnit k v).plru = s.plru := rfl
@[simp] theorem State.setUnit_wins : (s.setUnit k v).wins = s.wins := rfl
@[simp] theorem State.setUnit_segs : (s.setUnit k v).segs = s.segs := rfl
@[simp] theorem State.setUnit_mons : (s.setUnit k v).mons = s.mons := rfl
@[simp] theorem State.setUnit_pace : (s.setUnit k v).pace = s.pace := rfl
@[simp] theorem State.setUnit_ift : (s.setUnit k v).ift = s.ift := rfl
@[simp] theorem State.setUnit_sup : (s.setUnit k v).sup = s.sup := rfl
@[simp] theorem State.setUnit_net : (s.setUnit k v).net = s.net := rfl
@[simp] theorem State.setUnit_disp : (s.setUnit k v).disp = s.disp := rfl
@[simp] theorem State.setUnit_diale : (s.setUnit k v).diale = s.diale := rfl
@[simp] theorem State.setUnit_wire : (s.setUnit k v).wire = s.wire := rfl
@[simp] theorem State.setUnit_free : (s.setUnit k v).free = s.free := rfl
@[simp] theorem State.setUnit_pending : (s.setUnit k v).pending = s.pending := rfl
end setUnit

section setAccE
variable {s : State} {k} {v}
@[simp] theorem State.setAccE_regs : (s.setAccE k v).regs = s.regs := rfl
@[simp] theorem State.setAccE_staged : (s.setAccE k v).staged = s.staged := rfl
@[simp] theorem State.setAccE_blobs : (s.setAccE k v).blobs = s.blobs := rfl
@[simp] theorem State.setAccE_stagedBlobs : (s.setAccE k v).stagedBlobs = s.stagedBlobs := rfl
@[simp] theorem State.setAccE_mem : (s.setAccE k v).mem = s.mem := rfl
@[simp] theorem State.setAccE_dramErr : (s.setAccE k v).dramErr = s.dramErr := rfl
@[simp] theorem State.setAccE_space : (s.setAccE k v).space = s.space := rfl
@[simp] theorem State.setAccE_sram : (s.setAccE k v).sram = s.sram := rfl
@[simp] theorem State.setAccE_pad : (s.setAccE k v).pad = s.pad := rfl
@[simp] theorem State.setAccE_fuses : (s.setAccE k v).fuses = s.fuses := rfl
@[simp] theorem State.setAccE_flash : (s.setAccE k v).flash = s.flash := rfl
@[simp] theorem State.setAccE_aon : (s.setAccE k v).aon = s.aon := rfl
@[simp] theorem State.setAccE_sys : (s.setAccE k v).sys = s.sys := rfl
@[simp] theorem State.setAccE_rooster : (s.setAccE k v).rooster = s.rooster := rfl
@[simp] theorem State.setAccE_ring : (s.setAccE k v).ring = s.ring := rfl
@[simp] theorem State.setAccE_ports : (s.setAccE k v).ports = s.ports := rfl
@[simp] theorem State.setAccE_ctxs : (s.setAccE k v).ctxs = s.ctxs := rfl
@[simp] theorem State.setAccE_pipes : (s.setAccE k v).pipes = s.pipes := rfl
@[simp] theorem State.setAccE_scans : (s.setAccE k v).scans = s.scans := rfl
@[simp] theorem State.setAccE_slots : (s.setAccE k v).slots = s.slots := rfl
@[simp] theorem State.setAccE_units : (s.setAccE k v).units = s.units := rfl
@[simp] theorem State.setAccE_rows : (s.setAccE k v).rows = s.rows := rfl
@[simp] theorem State.setAccE_lanes : (s.setAccE k v).lanes = s.lanes := rfl
@[simp] theorem State.setAccE_gooses : (s.setAccE k v).gooses = s.gooses := rfl
@[simp] theorem State.setAccE_lines : (s.setAccE k v).lines = s.lines := rfl
@[simp] theorem State.setAccE_plru : (s.setAccE k v).plru = s.plru := rfl
@[simp] theorem State.setAccE_wins : (s.setAccE k v).wins = s.wins := rfl
@[simp] theorem State.setAccE_segs : (s.setAccE k v).segs = s.segs := rfl
@[simp] theorem State.setAccE_mons : (s.setAccE k v).mons = s.mons := rfl
@[simp] theorem State.setAccE_pace : (s.setAccE k v).pace = s.pace := rfl
@[simp] theorem State.setAccE_ift : (s.setAccE k v).ift = s.ift := rfl
@[simp] theorem State.setAccE_sup : (s.setAccE k v).sup = s.sup := rfl
@[simp] theorem State.setAccE_net : (s.setAccE k v).net = s.net := rfl
@[simp] theorem State.setAccE_disp : (s.setAccE k v).disp = s.disp := rfl
@[simp] theorem State.setAccE_diale : (s.setAccE k v).diale = s.diale := rfl
@[simp] theorem State.setAccE_wire : (s.setAccE k v).wire = s.wire := rfl
@[simp] theorem State.setAccE_free : (s.setAccE k v).free = s.free := rfl
@[simp] theorem State.setAccE_pending : (s.setAccE k v).pending = s.pending := rfl
end setAccE

section setRow
variable {s : State} {k} {v}
@[simp] theorem State.setRow_regs : (s.setRow k v).regs = s.regs := rfl
@[simp] theorem State.setRow_staged : (s.setRow k v).staged = s.staged := rfl
@[simp] theorem State.setRow_blobs : (s.setRow k v).blobs = s.blobs := rfl
@[simp] theorem State.setRow_stagedBlobs : (s.setRow k v).stagedBlobs = s.stagedBlobs := rfl
@[simp] theorem State.setRow_mem : (s.setRow k v).mem = s.mem := rfl
@[simp] theorem State.setRow_dramErr : (s.setRow k v).dramErr = s.dramErr := rfl
@[simp] theorem State.setRow_space : (s.setRow k v).space = s.space := rfl
@[simp] theorem State.setRow_sram : (s.setRow k v).sram = s.sram := rfl
@[simp] theorem State.setRow_pad : (s.setRow k v).pad = s.pad := rfl
@[simp] theorem State.setRow_fuses : (s.setRow k v).fuses = s.fuses := rfl
@[simp] theorem State.setRow_flash : (s.setRow k v).flash = s.flash := rfl
@[simp] theorem State.setRow_aon : (s.setRow k v).aon = s.aon := rfl
@[simp] theorem State.setRow_sys : (s.setRow k v).sys = s.sys := rfl
@[simp] theorem State.setRow_rooster : (s.setRow k v).rooster = s.rooster := rfl
@[simp] theorem State.setRow_ring : (s.setRow k v).ring = s.ring := rfl
@[simp] theorem State.setRow_ports : (s.setRow k v).ports = s.ports := rfl
@[simp] theorem State.setRow_ctxs : (s.setRow k v).ctxs = s.ctxs := rfl
@[simp] theorem State.setRow_pipes : (s.setRow k v).pipes = s.pipes := rfl
@[simp] theorem State.setRow_scans : (s.setRow k v).scans = s.scans := rfl
@[simp] theorem State.setRow_slots : (s.setRow k v).slots = s.slots := rfl
@[simp] theorem State.setRow_units : (s.setRow k v).units = s.units := rfl
@[simp] theorem State.setRow_acc : (s.setRow k v).acc = s.acc := rfl
@[simp] theorem State.setRow_lanes : (s.setRow k v).lanes = s.lanes := rfl
@[simp] theorem State.setRow_gooses : (s.setRow k v).gooses = s.gooses := rfl
@[simp] theorem State.setRow_lines : (s.setRow k v).lines = s.lines := rfl
@[simp] theorem State.setRow_plru : (s.setRow k v).plru = s.plru := rfl
@[simp] theorem State.setRow_wins : (s.setRow k v).wins = s.wins := rfl
@[simp] theorem State.setRow_segs : (s.setRow k v).segs = s.segs := rfl
@[simp] theorem State.setRow_mons : (s.setRow k v).mons = s.mons := rfl
@[simp] theorem State.setRow_pace : (s.setRow k v).pace = s.pace := rfl
@[simp] theorem State.setRow_ift : (s.setRow k v).ift = s.ift := rfl
@[simp] theorem State.setRow_sup : (s.setRow k v).sup = s.sup := rfl
@[simp] theorem State.setRow_net : (s.setRow k v).net = s.net := rfl
@[simp] theorem State.setRow_disp : (s.setRow k v).disp = s.disp := rfl
@[simp] theorem State.setRow_diale : (s.setRow k v).diale = s.diale := rfl
@[simp] theorem State.setRow_wire : (s.setRow k v).wire = s.wire := rfl
@[simp] theorem State.setRow_free : (s.setRow k v).free = s.free := rfl
@[simp] theorem State.setRow_pending : (s.setRow k v).pending = s.pending := rfl
end setRow

section setLaneV
variable {s : State} {k} {v}
@[simp] theorem State.setLaneV_regs : (s.setLaneV k v).regs = s.regs := rfl
@[simp] theorem State.setLaneV_staged : (s.setLaneV k v).staged = s.staged := rfl
@[simp] theorem State.setLaneV_blobs : (s.setLaneV k v).blobs = s.blobs := rfl
@[simp] theorem State.setLaneV_stagedBlobs : (s.setLaneV k v).stagedBlobs = s.stagedBlobs := rfl
@[simp] theorem State.setLaneV_mem : (s.setLaneV k v).mem = s.mem := rfl
@[simp] theorem State.setLaneV_dramErr : (s.setLaneV k v).dramErr = s.dramErr := rfl
@[simp] theorem State.setLaneV_space : (s.setLaneV k v).space = s.space := rfl
@[simp] theorem State.setLaneV_sram : (s.setLaneV k v).sram = s.sram := rfl
@[simp] theorem State.setLaneV_pad : (s.setLaneV k v).pad = s.pad := rfl
@[simp] theorem State.setLaneV_fuses : (s.setLaneV k v).fuses = s.fuses := rfl
@[simp] theorem State.setLaneV_flash : (s.setLaneV k v).flash = s.flash := rfl
@[simp] theorem State.setLaneV_aon : (s.setLaneV k v).aon = s.aon := rfl
@[simp] theorem State.setLaneV_sys : (s.setLaneV k v).sys = s.sys := rfl
@[simp] theorem State.setLaneV_rooster : (s.setLaneV k v).rooster = s.rooster := rfl
@[simp] theorem State.setLaneV_ring : (s.setLaneV k v).ring = s.ring := rfl
@[simp] theorem State.setLaneV_ports : (s.setLaneV k v).ports = s.ports := rfl
@[simp] theorem State.setLaneV_ctxs : (s.setLaneV k v).ctxs = s.ctxs := rfl
@[simp] theorem State.setLaneV_pipes : (s.setLaneV k v).pipes = s.pipes := rfl
@[simp] theorem State.setLaneV_scans : (s.setLaneV k v).scans = s.scans := rfl
@[simp] theorem State.setLaneV_slots : (s.setLaneV k v).slots = s.slots := rfl
@[simp] theorem State.setLaneV_units : (s.setLaneV k v).units = s.units := rfl
@[simp] theorem State.setLaneV_acc : (s.setLaneV k v).acc = s.acc := rfl
@[simp] theorem State.setLaneV_rows : (s.setLaneV k v).rows = s.rows := rfl
@[simp] theorem State.setLaneV_gooses : (s.setLaneV k v).gooses = s.gooses := rfl
@[simp] theorem State.setLaneV_lines : (s.setLaneV k v).lines = s.lines := rfl
@[simp] theorem State.setLaneV_plru : (s.setLaneV k v).plru = s.plru := rfl
@[simp] theorem State.setLaneV_wins : (s.setLaneV k v).wins = s.wins := rfl
@[simp] theorem State.setLaneV_segs : (s.setLaneV k v).segs = s.segs := rfl
@[simp] theorem State.setLaneV_mons : (s.setLaneV k v).mons = s.mons := rfl
@[simp] theorem State.setLaneV_pace : (s.setLaneV k v).pace = s.pace := rfl
@[simp] theorem State.setLaneV_ift : (s.setLaneV k v).ift = s.ift := rfl
@[simp] theorem State.setLaneV_sup : (s.setLaneV k v).sup = s.sup := rfl
@[simp] theorem State.setLaneV_net : (s.setLaneV k v).net = s.net := rfl
@[simp] theorem State.setLaneV_disp : (s.setLaneV k v).disp = s.disp := rfl
@[simp] theorem State.setLaneV_diale : (s.setLaneV k v).diale = s.diale := rfl
@[simp] theorem State.setLaneV_wire : (s.setLaneV k v).wire = s.wire := rfl
@[simp] theorem State.setLaneV_free : (s.setLaneV k v).free = s.free := rfl
@[simp] theorem State.setLaneV_pending : (s.setLaneV k v).pending = s.pending := rfl
end setLaneV

section setGoose
variable {s : State} {k} {v}
@[simp] theorem State.setGoose_regs : (s.setGoose k v).regs = s.regs := rfl
@[simp] theorem State.setGoose_staged : (s.setGoose k v).staged = s.staged := rfl
@[simp] theorem State.setGoose_blobs : (s.setGoose k v).blobs = s.blobs := rfl
@[simp] theorem State.setGoose_stagedBlobs : (s.setGoose k v).stagedBlobs = s.stagedBlobs := rfl
@[simp] theorem State.setGoose_mem : (s.setGoose k v).mem = s.mem := rfl
@[simp] theorem State.setGoose_dramErr : (s.setGoose k v).dramErr = s.dramErr := rfl
@[simp] theorem State.setGoose_space : (s.setGoose k v).space = s.space := rfl
@[simp] theorem State.setGoose_sram : (s.setGoose k v).sram = s.sram := rfl
@[simp] theorem State.setGoose_pad : (s.setGoose k v).pad = s.pad := rfl
@[simp] theorem State.setGoose_fuses : (s.setGoose k v).fuses = s.fuses := rfl
@[simp] theorem State.setGoose_flash : (s.setGoose k v).flash = s.flash := rfl
@[simp] theorem State.setGoose_aon : (s.setGoose k v).aon = s.aon := rfl
@[simp] theorem State.setGoose_sys : (s.setGoose k v).sys = s.sys := rfl
@[simp] theorem State.setGoose_rooster : (s.setGoose k v).rooster = s.rooster := rfl
@[simp] theorem State.setGoose_ring : (s.setGoose k v).ring = s.ring := rfl
@[simp] theorem State.setGoose_ports : (s.setGoose k v).ports = s.ports := rfl
@[simp] theorem State.setGoose_ctxs : (s.setGoose k v).ctxs = s.ctxs := rfl
@[simp] theorem State.setGoose_pipes : (s.setGoose k v).pipes = s.pipes := rfl
@[simp] theorem State.setGoose_scans : (s.setGoose k v).scans = s.scans := rfl
@[simp] theorem State.setGoose_slots : (s.setGoose k v).slots = s.slots := rfl
@[simp] theorem State.setGoose_units : (s.setGoose k v).units = s.units := rfl
@[simp] theorem State.setGoose_acc : (s.setGoose k v).acc = s.acc := rfl
@[simp] theorem State.setGoose_rows : (s.setGoose k v).rows = s.rows := rfl
@[simp] theorem State.setGoose_lanes : (s.setGoose k v).lanes = s.lanes := rfl
@[simp] theorem State.setGoose_lines : (s.setGoose k v).lines = s.lines := rfl
@[simp] theorem State.setGoose_plru : (s.setGoose k v).plru = s.plru := rfl
@[simp] theorem State.setGoose_wins : (s.setGoose k v).wins = s.wins := rfl
@[simp] theorem State.setGoose_segs : (s.setGoose k v).segs = s.segs := rfl
@[simp] theorem State.setGoose_mons : (s.setGoose k v).mons = s.mons := rfl
@[simp] theorem State.setGoose_pace : (s.setGoose k v).pace = s.pace := rfl
@[simp] theorem State.setGoose_ift : (s.setGoose k v).ift = s.ift := rfl
@[simp] theorem State.setGoose_sup : (s.setGoose k v).sup = s.sup := rfl
@[simp] theorem State.setGoose_net : (s.setGoose k v).net = s.net := rfl
@[simp] theorem State.setGoose_disp : (s.setGoose k v).disp = s.disp := rfl
@[simp] theorem State.setGoose_diale : (s.setGoose k v).diale = s.diale := rfl
@[simp] theorem State.setGoose_wire : (s.setGoose k v).wire = s.wire := rfl
@[simp] theorem State.setGoose_free : (s.setGoose k v).free = s.free := rfl
@[simp] theorem State.setGoose_pending : (s.setGoose k v).pending = s.pending := rfl
end setGoose

section setSet
variable {s : State} {k} {v}
@[simp] theorem State.setSet_regs : (s.setSet k v).regs = s.regs := rfl
@[simp] theorem State.setSet_staged : (s.setSet k v).staged = s.staged := rfl
@[simp] theorem State.setSet_blobs : (s.setSet k v).blobs = s.blobs := rfl
@[simp] theorem State.setSet_stagedBlobs : (s.setSet k v).stagedBlobs = s.stagedBlobs := rfl
@[simp] theorem State.setSet_mem : (s.setSet k v).mem = s.mem := rfl
@[simp] theorem State.setSet_dramErr : (s.setSet k v).dramErr = s.dramErr := rfl
@[simp] theorem State.setSet_space : (s.setSet k v).space = s.space := rfl
@[simp] theorem State.setSet_sram : (s.setSet k v).sram = s.sram := rfl
@[simp] theorem State.setSet_pad : (s.setSet k v).pad = s.pad := rfl
@[simp] theorem State.setSet_fuses : (s.setSet k v).fuses = s.fuses := rfl
@[simp] theorem State.setSet_flash : (s.setSet k v).flash = s.flash := rfl
@[simp] theorem State.setSet_aon : (s.setSet k v).aon = s.aon := rfl
@[simp] theorem State.setSet_sys : (s.setSet k v).sys = s.sys := rfl
@[simp] theorem State.setSet_rooster : (s.setSet k v).rooster = s.rooster := rfl
@[simp] theorem State.setSet_ring : (s.setSet k v).ring = s.ring := rfl
@[simp] theorem State.setSet_ports : (s.setSet k v).ports = s.ports := rfl
@[simp] theorem State.setSet_ctxs : (s.setSet k v).ctxs = s.ctxs := rfl
@[simp] theorem State.setSet_pipes : (s.setSet k v).pipes = s.pipes := rfl
@[simp] theorem State.setSet_scans : (s.setSet k v).scans = s.scans := rfl
@[simp] theorem State.setSet_slots : (s.setSet k v).slots = s.slots := rfl
@[simp] theorem State.setSet_units : (s.setSet k v).units = s.units := rfl
@[simp] theorem State.setSet_acc : (s.setSet k v).acc = s.acc := rfl
@[simp] theorem State.setSet_rows : (s.setSet k v).rows = s.rows := rfl
@[simp] theorem State.setSet_lanes : (s.setSet k v).lanes = s.lanes := rfl
@[simp] theorem State.setSet_gooses : (s.setSet k v).gooses = s.gooses := rfl
@[simp] theorem State.setSet_plru : (s.setSet k v).plru = s.plru := rfl
@[simp] theorem State.setSet_wins : (s.setSet k v).wins = s.wins := rfl
@[simp] theorem State.setSet_segs : (s.setSet k v).segs = s.segs := rfl
@[simp] theorem State.setSet_mons : (s.setSet k v).mons = s.mons := rfl
@[simp] theorem State.setSet_pace : (s.setSet k v).pace = s.pace := rfl
@[simp] theorem State.setSet_ift : (s.setSet k v).ift = s.ift := rfl
@[simp] theorem State.setSet_sup : (s.setSet k v).sup = s.sup := rfl
@[simp] theorem State.setSet_net : (s.setSet k v).net = s.net := rfl
@[simp] theorem State.setSet_disp : (s.setSet k v).disp = s.disp := rfl
@[simp] theorem State.setSet_diale : (s.setSet k v).diale = s.diale := rfl
@[simp] theorem State.setSet_wire : (s.setSet k v).wire = s.wire := rfl
@[simp] theorem State.setSet_free : (s.setSet k v).free = s.free := rfl
@[simp] theorem State.setSet_pending : (s.setSet k v).pending = s.pending := rfl
end setSet

section setPlruOf
variable {s : State} {k} {v}
@[simp] theorem State.setPlruOf_regs : (s.setPlruOf k v).regs = s.regs := rfl
@[simp] theorem State.setPlruOf_staged : (s.setPlruOf k v).staged = s.staged := rfl
@[simp] theorem State.setPlruOf_blobs : (s.setPlruOf k v).blobs = s.blobs := rfl
@[simp] theorem State.setPlruOf_stagedBlobs : (s.setPlruOf k v).stagedBlobs = s.stagedBlobs := rfl
@[simp] theorem State.setPlruOf_mem : (s.setPlruOf k v).mem = s.mem := rfl
@[simp] theorem State.setPlruOf_dramErr : (s.setPlruOf k v).dramErr = s.dramErr := rfl
@[simp] theorem State.setPlruOf_space : (s.setPlruOf k v).space = s.space := rfl
@[simp] theorem State.setPlruOf_sram : (s.setPlruOf k v).sram = s.sram := rfl
@[simp] theorem State.setPlruOf_pad : (s.setPlruOf k v).pad = s.pad := rfl
@[simp] theorem State.setPlruOf_fuses : (s.setPlruOf k v).fuses = s.fuses := rfl
@[simp] theorem State.setPlruOf_flash : (s.setPlruOf k v).flash = s.flash := rfl
@[simp] theorem State.setPlruOf_aon : (s.setPlruOf k v).aon = s.aon := rfl
@[simp] theorem State.setPlruOf_sys : (s.setPlruOf k v).sys = s.sys := rfl
@[simp] theorem State.setPlruOf_rooster : (s.setPlruOf k v).rooster = s.rooster := rfl
@[simp] theorem State.setPlruOf_ring : (s.setPlruOf k v).ring = s.ring := rfl
@[simp] theorem State.setPlruOf_ports : (s.setPlruOf k v).ports = s.ports := rfl
@[simp] theorem State.setPlruOf_ctxs : (s.setPlruOf k v).ctxs = s.ctxs := rfl
@[simp] theorem State.setPlruOf_pipes : (s.setPlruOf k v).pipes = s.pipes := rfl
@[simp] theorem State.setPlruOf_scans : (s.setPlruOf k v).scans = s.scans := rfl
@[simp] theorem State.setPlruOf_slots : (s.setPlruOf k v).slots = s.slots := rfl
@[simp] theorem State.setPlruOf_units : (s.setPlruOf k v).units = s.units := rfl
@[simp] theorem State.setPlruOf_acc : (s.setPlruOf k v).acc = s.acc := rfl
@[simp] theorem State.setPlruOf_rows : (s.setPlruOf k v).rows = s.rows := rfl
@[simp] theorem State.setPlruOf_lanes : (s.setPlruOf k v).lanes = s.lanes := rfl
@[simp] theorem State.setPlruOf_gooses : (s.setPlruOf k v).gooses = s.gooses := rfl
@[simp] theorem State.setPlruOf_lines : (s.setPlruOf k v).lines = s.lines := rfl
@[simp] theorem State.setPlruOf_wins : (s.setPlruOf k v).wins = s.wins := rfl
@[simp] theorem State.setPlruOf_segs : (s.setPlruOf k v).segs = s.segs := rfl
@[simp] theorem State.setPlruOf_mons : (s.setPlruOf k v).mons = s.mons := rfl
@[simp] theorem State.setPlruOf_pace : (s.setPlruOf k v).pace = s.pace := rfl
@[simp] theorem State.setPlruOf_ift : (s.setPlruOf k v).ift = s.ift := rfl
@[simp] theorem State.setPlruOf_sup : (s.setPlruOf k v).sup = s.sup := rfl
@[simp] theorem State.setPlruOf_net : (s.setPlruOf k v).net = s.net := rfl
@[simp] theorem State.setPlruOf_disp : (s.setPlruOf k v).disp = s.disp := rfl
@[simp] theorem State.setPlruOf_diale : (s.setPlruOf k v).diale = s.diale := rfl
@[simp] theorem State.setPlruOf_wire : (s.setPlruOf k v).wire = s.wire := rfl
@[simp] theorem State.setPlruOf_free : (s.setPlruOf k v).free = s.free := rfl
@[simp] theorem State.setPlruOf_pending : (s.setPlruOf k v).pending = s.pending := rfl
end setPlruOf

section setWin
variable {s : State} {k} {v}
@[simp] theorem State.setWin_regs : (s.setWin k v).regs = s.regs := rfl
@[simp] theorem State.setWin_staged : (s.setWin k v).staged = s.staged := rfl
@[simp] theorem State.setWin_blobs : (s.setWin k v).blobs = s.blobs := rfl
@[simp] theorem State.setWin_stagedBlobs : (s.setWin k v).stagedBlobs = s.stagedBlobs := rfl
@[simp] theorem State.setWin_mem : (s.setWin k v).mem = s.mem := rfl
@[simp] theorem State.setWin_dramErr : (s.setWin k v).dramErr = s.dramErr := rfl
@[simp] theorem State.setWin_space : (s.setWin k v).space = s.space := rfl
@[simp] theorem State.setWin_sram : (s.setWin k v).sram = s.sram := rfl
@[simp] theorem State.setWin_pad : (s.setWin k v).pad = s.pad := rfl
@[simp] theorem State.setWin_fuses : (s.setWin k v).fuses = s.fuses := rfl
@[simp] theorem State.setWin_flash : (s.setWin k v).flash = s.flash := rfl
@[simp] theorem State.setWin_aon : (s.setWin k v).aon = s.aon := rfl
@[simp] theorem State.setWin_sys : (s.setWin k v).sys = s.sys := rfl
@[simp] theorem State.setWin_rooster : (s.setWin k v).rooster = s.rooster := rfl
@[simp] theorem State.setWin_ring : (s.setWin k v).ring = s.ring := rfl
@[simp] theorem State.setWin_ports : (s.setWin k v).ports = s.ports := rfl
@[simp] theorem State.setWin_ctxs : (s.setWin k v).ctxs = s.ctxs := rfl
@[simp] theorem State.setWin_pipes : (s.setWin k v).pipes = s.pipes := rfl
@[simp] theorem State.setWin_scans : (s.setWin k v).scans = s.scans := rfl
@[simp] theorem State.setWin_slots : (s.setWin k v).slots = s.slots := rfl
@[simp] theorem State.setWin_units : (s.setWin k v).units = s.units := rfl
@[simp] theorem State.setWin_acc : (s.setWin k v).acc = s.acc := rfl
@[simp] theorem State.setWin_rows : (s.setWin k v).rows = s.rows := rfl
@[simp] theorem State.setWin_lanes : (s.setWin k v).lanes = s.lanes := rfl
@[simp] theorem State.setWin_gooses : (s.setWin k v).gooses = s.gooses := rfl
@[simp] theorem State.setWin_lines : (s.setWin k v).lines = s.lines := rfl
@[simp] theorem State.setWin_plru : (s.setWin k v).plru = s.plru := rfl
@[simp] theorem State.setWin_segs : (s.setWin k v).segs = s.segs := rfl
@[simp] theorem State.setWin_mons : (s.setWin k v).mons = s.mons := rfl
@[simp] theorem State.setWin_pace : (s.setWin k v).pace = s.pace := rfl
@[simp] theorem State.setWin_ift : (s.setWin k v).ift = s.ift := rfl
@[simp] theorem State.setWin_sup : (s.setWin k v).sup = s.sup := rfl
@[simp] theorem State.setWin_net : (s.setWin k v).net = s.net := rfl
@[simp] theorem State.setWin_disp : (s.setWin k v).disp = s.disp := rfl
@[simp] theorem State.setWin_diale : (s.setWin k v).diale = s.diale := rfl
@[simp] theorem State.setWin_wire : (s.setWin k v).wire = s.wire := rfl
@[simp] theorem State.setWin_free : (s.setWin k v).free = s.free := rfl
@[simp] theorem State.setWin_pending : (s.setWin k v).pending = s.pending := rfl
end setWin

section setMon
variable {s : State} {k} {v}
@[simp] theorem State.setMon_regs : (s.setMon k v).regs = s.regs := rfl
@[simp] theorem State.setMon_staged : (s.setMon k v).staged = s.staged := rfl
@[simp] theorem State.setMon_blobs : (s.setMon k v).blobs = s.blobs := rfl
@[simp] theorem State.setMon_stagedBlobs : (s.setMon k v).stagedBlobs = s.stagedBlobs := rfl
@[simp] theorem State.setMon_mem : (s.setMon k v).mem = s.mem := rfl
@[simp] theorem State.setMon_dramErr : (s.setMon k v).dramErr = s.dramErr := rfl
@[simp] theorem State.setMon_space : (s.setMon k v).space = s.space := rfl
@[simp] theorem State.setMon_sram : (s.setMon k v).sram = s.sram := rfl
@[simp] theorem State.setMon_pad : (s.setMon k v).pad = s.pad := rfl
@[simp] theorem State.setMon_fuses : (s.setMon k v).fuses = s.fuses := rfl
@[simp] theorem State.setMon_flash : (s.setMon k v).flash = s.flash := rfl
@[simp] theorem State.setMon_aon : (s.setMon k v).aon = s.aon := rfl
@[simp] theorem State.setMon_sys : (s.setMon k v).sys = s.sys := rfl
@[simp] theorem State.setMon_rooster : (s.setMon k v).rooster = s.rooster := rfl
@[simp] theorem State.setMon_ring : (s.setMon k v).ring = s.ring := rfl
@[simp] theorem State.setMon_ports : (s.setMon k v).ports = s.ports := rfl
@[simp] theorem State.setMon_ctxs : (s.setMon k v).ctxs = s.ctxs := rfl
@[simp] theorem State.setMon_pipes : (s.setMon k v).pipes = s.pipes := rfl
@[simp] theorem State.setMon_scans : (s.setMon k v).scans = s.scans := rfl
@[simp] theorem State.setMon_slots : (s.setMon k v).slots = s.slots := rfl
@[simp] theorem State.setMon_units : (s.setMon k v).units = s.units := rfl
@[simp] theorem State.setMon_acc : (s.setMon k v).acc = s.acc := rfl
@[simp] theorem State.setMon_rows : (s.setMon k v).rows = s.rows := rfl
@[simp] theorem State.setMon_lanes : (s.setMon k v).lanes = s.lanes := rfl
@[simp] theorem State.setMon_gooses : (s.setMon k v).gooses = s.gooses := rfl
@[simp] theorem State.setMon_lines : (s.setMon k v).lines = s.lines := rfl
@[simp] theorem State.setMon_plru : (s.setMon k v).plru = s.plru := rfl
@[simp] theorem State.setMon_wins : (s.setMon k v).wins = s.wins := rfl
@[simp] theorem State.setMon_segs : (s.setMon k v).segs = s.segs := rfl
@[simp] theorem State.setMon_pace : (s.setMon k v).pace = s.pace := rfl
@[simp] theorem State.setMon_ift : (s.setMon k v).ift = s.ift := rfl
@[simp] theorem State.setMon_sup : (s.setMon k v).sup = s.sup := rfl
@[simp] theorem State.setMon_net : (s.setMon k v).net = s.net := rfl
@[simp] theorem State.setMon_disp : (s.setMon k v).disp = s.disp := rfl
@[simp] theorem State.setMon_diale : (s.setMon k v).diale = s.diale := rfl
@[simp] theorem State.setMon_wire : (s.setMon k v).wire = s.wire := rfl
@[simp] theorem State.setMon_free : (s.setMon k v).free = s.free := rfl
@[simp] theorem State.setMon_pending : (s.setMon k v).pending = s.pending := rfl
end setMon

section setDsp
variable {s : State} {k} {v}
@[simp] theorem State.setDsp_regs : (s.setDsp k v).regs = s.regs := rfl
@[simp] theorem State.setDsp_staged : (s.setDsp k v).staged = s.staged := rfl
@[simp] theorem State.setDsp_blobs : (s.setDsp k v).blobs = s.blobs := rfl
@[simp] theorem State.setDsp_stagedBlobs : (s.setDsp k v).stagedBlobs = s.stagedBlobs := rfl
@[simp] theorem State.setDsp_mem : (s.setDsp k v).mem = s.mem := rfl
@[simp] theorem State.setDsp_dramErr : (s.setDsp k v).dramErr = s.dramErr := rfl
@[simp] theorem State.setDsp_space : (s.setDsp k v).space = s.space := rfl
@[simp] theorem State.setDsp_sram : (s.setDsp k v).sram = s.sram := rfl
@[simp] theorem State.setDsp_pad : (s.setDsp k v).pad = s.pad := rfl
@[simp] theorem State.setDsp_fuses : (s.setDsp k v).fuses = s.fuses := rfl
@[simp] theorem State.setDsp_flash : (s.setDsp k v).flash = s.flash := rfl
@[simp] theorem State.setDsp_aon : (s.setDsp k v).aon = s.aon := rfl
@[simp] theorem State.setDsp_sys : (s.setDsp k v).sys = s.sys := rfl
@[simp] theorem State.setDsp_rooster : (s.setDsp k v).rooster = s.rooster := rfl
@[simp] theorem State.setDsp_ring : (s.setDsp k v).ring = s.ring := rfl
@[simp] theorem State.setDsp_ports : (s.setDsp k v).ports = s.ports := rfl
@[simp] theorem State.setDsp_ctxs : (s.setDsp k v).ctxs = s.ctxs := rfl
@[simp] theorem State.setDsp_pipes : (s.setDsp k v).pipes = s.pipes := rfl
@[simp] theorem State.setDsp_scans : (s.setDsp k v).scans = s.scans := rfl
@[simp] theorem State.setDsp_slots : (s.setDsp k v).slots = s.slots := rfl
@[simp] theorem State.setDsp_units : (s.setDsp k v).units = s.units := rfl
@[simp] theorem State.setDsp_acc : (s.setDsp k v).acc = s.acc := rfl
@[simp] theorem State.setDsp_rows : (s.setDsp k v).rows = s.rows := rfl
@[simp] theorem State.setDsp_lanes : (s.setDsp k v).lanes = s.lanes := rfl
@[simp] theorem State.setDsp_gooses : (s.setDsp k v).gooses = s.gooses := rfl
@[simp] theorem State.setDsp_lines : (s.setDsp k v).lines = s.lines := rfl
@[simp] theorem State.setDsp_plru : (s.setDsp k v).plru = s.plru := rfl
@[simp] theorem State.setDsp_wins : (s.setDsp k v).wins = s.wins := rfl
@[simp] theorem State.setDsp_segs : (s.setDsp k v).segs = s.segs := rfl
@[simp] theorem State.setDsp_mons : (s.setDsp k v).mons = s.mons := rfl
@[simp] theorem State.setDsp_pace : (s.setDsp k v).pace = s.pace := rfl
@[simp] theorem State.setDsp_ift : (s.setDsp k v).ift = s.ift := rfl
@[simp] theorem State.setDsp_sup : (s.setDsp k v).sup = s.sup := rfl
@[simp] theorem State.setDsp_net : (s.setDsp k v).net = s.net := rfl
@[simp] theorem State.setDsp_diale : (s.setDsp k v).diale = s.diale := rfl
@[simp] theorem State.setDsp_wire : (s.setDsp k v).wire = s.wire := rfl
@[simp] theorem State.setDsp_free : (s.setDsp k v).free = s.free := rfl
@[simp] theorem State.setDsp_pending : (s.setDsp k v).pending = s.pending := rfl
end setDsp

section setSramErr
variable {s : State} {k} {v}
@[simp] theorem State.setSramErr_regs : (s.setSramErr k v).regs = s.regs := rfl
@[simp] theorem State.setSramErr_staged : (s.setSramErr k v).staged = s.staged := rfl
@[simp] theorem State.setSramErr_blobs : (s.setSramErr k v).blobs = s.blobs := rfl
@[simp] theorem State.setSramErr_stagedBlobs : (s.setSramErr k v).stagedBlobs = s.stagedBlobs := rfl
@[simp] theorem State.setSramErr_mem : (s.setSramErr k v).mem = s.mem := rfl
@[simp] theorem State.setSramErr_dramErr : (s.setSramErr k v).dramErr = s.dramErr := rfl
@[simp] theorem State.setSramErr_space : (s.setSramErr k v).space = s.space := rfl
@[simp] theorem State.setSramErr_pad : (s.setSramErr k v).pad = s.pad := rfl
@[simp] theorem State.setSramErr_fuses : (s.setSramErr k v).fuses = s.fuses := rfl
@[simp] theorem State.setSramErr_flash : (s.setSramErr k v).flash = s.flash := rfl
@[simp] theorem State.setSramErr_aon : (s.setSramErr k v).aon = s.aon := rfl
@[simp] theorem State.setSramErr_sys : (s.setSramErr k v).sys = s.sys := rfl
@[simp] theorem State.setSramErr_rooster : (s.setSramErr k v).rooster = s.rooster := rfl
@[simp] theorem State.setSramErr_ring : (s.setSramErr k v).ring = s.ring := rfl
@[simp] theorem State.setSramErr_ports : (s.setSramErr k v).ports = s.ports := rfl
@[simp] theorem State.setSramErr_ctxs : (s.setSramErr k v).ctxs = s.ctxs := rfl
@[simp] theorem State.setSramErr_pipes : (s.setSramErr k v).pipes = s.pipes := rfl
@[simp] theorem State.setSramErr_scans : (s.setSramErr k v).scans = s.scans := rfl
@[simp] theorem State.setSramErr_slots : (s.setSramErr k v).slots = s.slots := rfl
@[simp] theorem State.setSramErr_units : (s.setSramErr k v).units = s.units := rfl
@[simp] theorem State.setSramErr_acc : (s.setSramErr k v).acc = s.acc := rfl
@[simp] theorem State.setSramErr_rows : (s.setSramErr k v).rows = s.rows := rfl
@[simp] theorem State.setSramErr_lanes : (s.setSramErr k v).lanes = s.lanes := rfl
@[simp] theorem State.setSramErr_gooses : (s.setSramErr k v).gooses = s.gooses := rfl
@[simp] theorem State.setSramErr_lines : (s.setSramErr k v).lines = s.lines := rfl
@[simp] theorem State.setSramErr_plru : (s.setSramErr k v).plru = s.plru := rfl
@[simp] theorem State.setSramErr_wins : (s.setSramErr k v).wins = s.wins := rfl
@[simp] theorem State.setSramErr_segs : (s.setSramErr k v).segs = s.segs := rfl
@[simp] theorem State.setSramErr_mons : (s.setSramErr k v).mons = s.mons := rfl
@[simp] theorem State.setSramErr_pace : (s.setSramErr k v).pace = s.pace := rfl
@[simp] theorem State.setSramErr_ift : (s.setSramErr k v).ift = s.ift := rfl
@[simp] theorem State.setSramErr_sup : (s.setSramErr k v).sup = s.sup := rfl
@[simp] theorem State.setSramErr_net : (s.setSramErr k v).net = s.net := rfl
@[simp] theorem State.setSramErr_disp : (s.setSramErr k v).disp = s.disp := rfl
@[simp] theorem State.setSramErr_diale : (s.setSramErr k v).diale = s.diale := rfl
@[simp] theorem State.setSramErr_wire : (s.setSramErr k v).wire = s.wire := rfl
@[simp] theorem State.setSramErr_free : (s.setSramErr k v).free = s.free := rfl
@[simp] theorem State.setSramErr_pending : (s.setSramErr k v).pending = s.pending := rfl
end setSramErr

section setBurstErr
variable {s : State} {k} {v}
@[simp] theorem State.setBurstErr_regs : (s.setBurstErr k v).regs = s.regs := rfl
@[simp] theorem State.setBurstErr_staged : (s.setBurstErr k v).staged = s.staged := rfl
@[simp] theorem State.setBurstErr_blobs : (s.setBurstErr k v).blobs = s.blobs := rfl
@[simp] theorem State.setBurstErr_stagedBlobs : (s.setBurstErr k v).stagedBlobs = s.stagedBlobs := rfl
@[simp] theorem State.setBurstErr_mem : (s.setBurstErr k v).mem = s.mem := rfl
@[simp] theorem State.setBurstErr_space : (s.setBurstErr k v).space = s.space := rfl
@[simp] theorem State.setBurstErr_sram : (s.setBurstErr k v).sram = s.sram := rfl
@[simp] theorem State.setBurstErr_pad : (s.setBurstErr k v).pad = s.pad := rfl
@[simp] theorem State.setBurstErr_fuses : (s.setBurstErr k v).fuses = s.fuses := rfl
@[simp] theorem State.setBurstErr_flash : (s.setBurstErr k v).flash = s.flash := rfl
@[simp] theorem State.setBurstErr_aon : (s.setBurstErr k v).aon = s.aon := rfl
@[simp] theorem State.setBurstErr_sys : (s.setBurstErr k v).sys = s.sys := rfl
@[simp] theorem State.setBurstErr_rooster : (s.setBurstErr k v).rooster = s.rooster := rfl
@[simp] theorem State.setBurstErr_ring : (s.setBurstErr k v).ring = s.ring := rfl
@[simp] theorem State.setBurstErr_ports : (s.setBurstErr k v).ports = s.ports := rfl
@[simp] theorem State.setBurstErr_ctxs : (s.setBurstErr k v).ctxs = s.ctxs := rfl
@[simp] theorem State.setBurstErr_pipes : (s.setBurstErr k v).pipes = s.pipes := rfl
@[simp] theorem State.setBurstErr_scans : (s.setBurstErr k v).scans = s.scans := rfl
@[simp] theorem State.setBurstErr_slots : (s.setBurstErr k v).slots = s.slots := rfl
@[simp] theorem State.setBurstErr_units : (s.setBurstErr k v).units = s.units := rfl
@[simp] theorem State.setBurstErr_acc : (s.setBurstErr k v).acc = s.acc := rfl
@[simp] theorem State.setBurstErr_rows : (s.setBurstErr k v).rows = s.rows := rfl
@[simp] theorem State.setBurstErr_lanes : (s.setBurstErr k v).lanes = s.lanes := rfl
@[simp] theorem State.setBurstErr_gooses : (s.setBurstErr k v).gooses = s.gooses := rfl
@[simp] theorem State.setBurstErr_lines : (s.setBurstErr k v).lines = s.lines := rfl
@[simp] theorem State.setBurstErr_plru : (s.setBurstErr k v).plru = s.plru := rfl
@[simp] theorem State.setBurstErr_wins : (s.setBurstErr k v).wins = s.wins := rfl
@[simp] theorem State.setBurstErr_segs : (s.setBurstErr k v).segs = s.segs := rfl
@[simp] theorem State.setBurstErr_mons : (s.setBurstErr k v).mons = s.mons := rfl
@[simp] theorem State.setBurstErr_pace : (s.setBurstErr k v).pace = s.pace := rfl
@[simp] theorem State.setBurstErr_ift : (s.setBurstErr k v).ift = s.ift := rfl
@[simp] theorem State.setBurstErr_sup : (s.setBurstErr k v).sup = s.sup := rfl
@[simp] theorem State.setBurstErr_net : (s.setBurstErr k v).net = s.net := rfl
@[simp] theorem State.setBurstErr_disp : (s.setBurstErr k v).disp = s.disp := rfl
@[simp] theorem State.setBurstErr_diale : (s.setBurstErr k v).diale = s.diale := rfl
@[simp] theorem State.setBurstErr_wire : (s.setBurstErr k v).wire = s.wire := rfl
@[simp] theorem State.setBurstErr_free : (s.setBurstErr k v).free = s.free := rfl
@[simp] theorem State.setBurstErr_pending : (s.setBurstErr k v).pending = s.pending := rfl
end setBurstErr

section setMemByte
variable {s : State} {a} {b}
@[simp] theorem State.setMemByte_regs : (s.setMemByte a b).regs = s.regs := rfl
@[simp] theorem State.setMemByte_staged : (s.setMemByte a b).staged = s.staged := rfl
@[simp] theorem State.setMemByte_blobs : (s.setMemByte a b).blobs = s.blobs := rfl
@[simp] theorem State.setMemByte_stagedBlobs : (s.setMemByte a b).stagedBlobs = s.stagedBlobs := rfl
@[simp] theorem State.setMemByte_dramErr : (s.setMemByte a b).dramErr = s.dramErr := rfl
@[simp] theorem State.setMemByte_space : (s.setMemByte a b).space = s.space := rfl
@[simp] theorem State.setMemByte_sram : (s.setMemByte a b).sram = s.sram := rfl
@[simp] theorem State.setMemByte_pad : (s.setMemByte a b).pad = s.pad := rfl
@[simp] theorem State.setMemByte_fuses : (s.setMemByte a b).fuses = s.fuses := rfl
@[simp] theorem State.setMemByte_flash : (s.setMemByte a b).flash = s.flash := rfl
@[simp] theorem State.setMemByte_aon : (s.setMemByte a b).aon = s.aon := rfl
@[simp] theorem State.setMemByte_sys : (s.setMemByte a b).sys = s.sys := rfl
@[simp] theorem State.setMemByte_rooster : (s.setMemByte a b).rooster = s.rooster := rfl
@[simp] theorem State.setMemByte_ring : (s.setMemByte a b).ring = s.ring := rfl
@[simp] theorem State.setMemByte_ports : (s.setMemByte a b).ports = s.ports := rfl
@[simp] theorem State.setMemByte_ctxs : (s.setMemByte a b).ctxs = s.ctxs := rfl
@[simp] theorem State.setMemByte_pipes : (s.setMemByte a b).pipes = s.pipes := rfl
@[simp] theorem State.setMemByte_scans : (s.setMemByte a b).scans = s.scans := rfl
@[simp] theorem State.setMemByte_slots : (s.setMemByte a b).slots = s.slots := rfl
@[simp] theorem State.setMemByte_units : (s.setMemByte a b).units = s.units := rfl
@[simp] theorem State.setMemByte_acc : (s.setMemByte a b).acc = s.acc := rfl
@[simp] theorem State.setMemByte_rows : (s.setMemByte a b).rows = s.rows := rfl
@[simp] theorem State.setMemByte_lanes : (s.setMemByte a b).lanes = s.lanes := rfl
@[simp] theorem State.setMemByte_gooses : (s.setMemByte a b).gooses = s.gooses := rfl
@[simp] theorem State.setMemByte_lines : (s.setMemByte a b).lines = s.lines := rfl
@[simp] theorem State.setMemByte_plru : (s.setMemByte a b).plru = s.plru := rfl
@[simp] theorem State.setMemByte_wins : (s.setMemByte a b).wins = s.wins := rfl
@[simp] theorem State.setMemByte_segs : (s.setMemByte a b).segs = s.segs := rfl
@[simp] theorem State.setMemByte_mons : (s.setMemByte a b).mons = s.mons := rfl
@[simp] theorem State.setMemByte_pace : (s.setMemByte a b).pace = s.pace := rfl
@[simp] theorem State.setMemByte_ift : (s.setMemByte a b).ift = s.ift := rfl
@[simp] theorem State.setMemByte_sup : (s.setMemByte a b).sup = s.sup := rfl
@[simp] theorem State.setMemByte_net : (s.setMemByte a b).net = s.net := rfl
@[simp] theorem State.setMemByte_disp : (s.setMemByte a b).disp = s.disp := rfl
@[simp] theorem State.setMemByte_diale : (s.setMemByte a b).diale = s.diale := rfl
@[simp] theorem State.setMemByte_wire : (s.setMemByte a b).wire = s.wire := rfl
@[simp] theorem State.setMemByte_free : (s.setMemByte a b).free = s.free := rfl
@[simp] theorem State.setMemByte_pending : (s.setMemByte a b).pending = s.pending := rfl
end setMemByte

section memWrite
variable {s : State} {a} {bs}
@[simp] theorem State.memWrite_regs : (s.memWrite a bs).regs = s.regs := rfl
@[simp] theorem State.memWrite_staged : (s.memWrite a bs).staged = s.staged := rfl
@[simp] theorem State.memWrite_blobs : (s.memWrite a bs).blobs = s.blobs := rfl
@[simp] theorem State.memWrite_stagedBlobs : (s.memWrite a bs).stagedBlobs = s.stagedBlobs := rfl
@[simp] theorem State.memWrite_dramErr : (s.memWrite a bs).dramErr = s.dramErr := rfl
@[simp] theorem State.memWrite_space : (s.memWrite a bs).space = s.space := rfl
@[simp] theorem State.memWrite_sram : (s.memWrite a bs).sram = s.sram := rfl
@[simp] theorem State.memWrite_pad : (s.memWrite a bs).pad = s.pad := rfl
@[simp] theorem State.memWrite_fuses : (s.memWrite a bs).fuses = s.fuses := rfl
@[simp] theorem State.memWrite_flash : (s.memWrite a bs).flash = s.flash := rfl
@[simp] theorem State.memWrite_aon : (s.memWrite a bs).aon = s.aon := rfl
@[simp] theorem State.memWrite_sys : (s.memWrite a bs).sys = s.sys := rfl
@[simp] theorem State.memWrite_rooster : (s.memWrite a bs).rooster = s.rooster := rfl
@[simp] theorem State.memWrite_ring : (s.memWrite a bs).ring = s.ring := rfl
@[simp] theorem State.memWrite_ports : (s.memWrite a bs).ports = s.ports := rfl
@[simp] theorem State.memWrite_ctxs : (s.memWrite a bs).ctxs = s.ctxs := rfl
@[simp] theorem State.memWrite_pipes : (s.memWrite a bs).pipes = s.pipes := rfl
@[simp] theorem State.memWrite_scans : (s.memWrite a bs).scans = s.scans := rfl
@[simp] theorem State.memWrite_slots : (s.memWrite a bs).slots = s.slots := rfl
@[simp] theorem State.memWrite_units : (s.memWrite a bs).units = s.units := rfl
@[simp] theorem State.memWrite_acc : (s.memWrite a bs).acc = s.acc := rfl
@[simp] theorem State.memWrite_rows : (s.memWrite a bs).rows = s.rows := rfl
@[simp] theorem State.memWrite_lanes : (s.memWrite a bs).lanes = s.lanes := rfl
@[simp] theorem State.memWrite_gooses : (s.memWrite a bs).gooses = s.gooses := rfl
@[simp] theorem State.memWrite_lines : (s.memWrite a bs).lines = s.lines := rfl
@[simp] theorem State.memWrite_plru : (s.memWrite a bs).plru = s.plru := rfl
@[simp] theorem State.memWrite_wins : (s.memWrite a bs).wins = s.wins := rfl
@[simp] theorem State.memWrite_segs : (s.memWrite a bs).segs = s.segs := rfl
@[simp] theorem State.memWrite_mons : (s.memWrite a bs).mons = s.mons := rfl
@[simp] theorem State.memWrite_pace : (s.memWrite a bs).pace = s.pace := rfl
@[simp] theorem State.memWrite_ift : (s.memWrite a bs).ift = s.ift := rfl
@[simp] theorem State.memWrite_sup : (s.memWrite a bs).sup = s.sup := rfl
@[simp] theorem State.memWrite_net : (s.memWrite a bs).net = s.net := rfl
@[simp] theorem State.memWrite_disp : (s.memWrite a bs).disp = s.disp := rfl
@[simp] theorem State.memWrite_diale : (s.memWrite a bs).diale = s.diale := rfl
@[simp] theorem State.memWrite_wire : (s.memWrite a bs).wire = s.wire := rfl
@[simp] theorem State.memWrite_free : (s.memWrite a bs).free = s.free := rfl
@[simp] theorem State.memWrite_pending : (s.memWrite a bs).pending = s.pending := rfl
end memWrite

section setT
variable {s : State} {n} {v}
@[simp] theorem State.setT_regs : (s.setT n v).regs = s.regs := rfl
@[simp] theorem State.setT_staged : (s.setT n v).staged = s.staged := rfl
@[simp] theorem State.setT_blobs : (s.setT n v).blobs = s.blobs := rfl
@[simp] theorem State.setT_stagedBlobs : (s.setT n v).stagedBlobs = s.stagedBlobs := rfl
@[simp] theorem State.setT_mem : (s.setT n v).mem = s.mem := rfl
@[simp] theorem State.setT_dramErr : (s.setT n v).dramErr = s.dramErr := rfl
@[simp] theorem State.setT_space : (s.setT n v).space = s.space := rfl
@[simp] theorem State.setT_sram : (s.setT n v).sram = s.sram := rfl
@[simp] theorem State.setT_pad : (s.setT n v).pad = s.pad := rfl
@[simp] theorem State.setT_fuses : (s.setT n v).fuses = s.fuses := rfl
@[simp] theorem State.setT_flash : (s.setT n v).flash = s.flash := rfl
@[simp] theorem State.setT_aon : (s.setT n v).aon = s.aon := rfl
@[simp] theorem State.setT_sys : (s.setT n v).sys = s.sys := rfl
@[simp] theorem State.setT_ring : (s.setT n v).ring = s.ring := rfl
@[simp] theorem State.setT_ports : (s.setT n v).ports = s.ports := rfl
@[simp] theorem State.setT_ctxs : (s.setT n v).ctxs = s.ctxs := rfl
@[simp] theorem State.setT_pipes : (s.setT n v).pipes = s.pipes := rfl
@[simp] theorem State.setT_scans : (s.setT n v).scans = s.scans := rfl
@[simp] theorem State.setT_slots : (s.setT n v).slots = s.slots := rfl
@[simp] theorem State.setT_units : (s.setT n v).units = s.units := rfl
@[simp] theorem State.setT_acc : (s.setT n v).acc = s.acc := rfl
@[simp] theorem State.setT_rows : (s.setT n v).rows = s.rows := rfl
@[simp] theorem State.setT_lanes : (s.setT n v).lanes = s.lanes := rfl
@[simp] theorem State.setT_gooses : (s.setT n v).gooses = s.gooses := rfl
@[simp] theorem State.setT_lines : (s.setT n v).lines = s.lines := rfl
@[simp] theorem State.setT_plru : (s.setT n v).plru = s.plru := rfl
@[simp] theorem State.setT_wins : (s.setT n v).wins = s.wins := rfl
@[simp] theorem State.setT_segs : (s.setT n v).segs = s.segs := rfl
@[simp] theorem State.setT_mons : (s.setT n v).mons = s.mons := rfl
@[simp] theorem State.setT_pace : (s.setT n v).pace = s.pace := rfl
@[simp] theorem State.setT_ift : (s.setT n v).ift = s.ift := rfl
@[simp] theorem State.setT_sup : (s.setT n v).sup = s.sup := rfl
@[simp] theorem State.setT_net : (s.setT n v).net = s.net := rfl
@[simp] theorem State.setT_disp : (s.setT n v).disp = s.disp := rfl
@[simp] theorem State.setT_diale : (s.setT n v).diale = s.diale := rfl
@[simp] theorem State.setT_wire : (s.setT n v).wire = s.wire := rfl
@[simp] theorem State.setT_free : (s.setT n v).free = s.free := rfl
@[simp] theorem State.setT_pending : (s.setT n v).pending = s.pending := rfl
end setT

section nextFree
variable {s : State}
@[simp] theorem State.nextFree_regs : (s.nextFree).regs = s.regs := rfl
@[simp] theorem State.nextFree_staged : (s.nextFree).staged = s.staged := rfl
@[simp] theorem State.nextFree_blobs : (s.nextFree).blobs = s.blobs := rfl
@[simp] theorem State.nextFree_stagedBlobs : (s.nextFree).stagedBlobs = s.stagedBlobs := rfl
@[simp] theorem State.nextFree_mem : (s.nextFree).mem = s.mem := rfl
@[simp] theorem State.nextFree_dramErr : (s.nextFree).dramErr = s.dramErr := rfl
@[simp] theorem State.nextFree_space : (s.nextFree).space = s.space := rfl
@[simp] theorem State.nextFree_sram : (s.nextFree).sram = s.sram := rfl
@[simp] theorem State.nextFree_pad : (s.nextFree).pad = s.pad := rfl
@[simp] theorem State.nextFree_fuses : (s.nextFree).fuses = s.fuses := rfl
@[simp] theorem State.nextFree_flash : (s.nextFree).flash = s.flash := rfl
@[simp] theorem State.nextFree_aon : (s.nextFree).aon = s.aon := rfl
@[simp] theorem State.nextFree_sys : (s.nextFree).sys = s.sys := rfl
@[simp] theorem State.nextFree_rooster : (s.nextFree).rooster = s.rooster := rfl
@[simp] theorem State.nextFree_ring : (s.nextFree).ring = s.ring := rfl
@[simp] theorem State.nextFree_ports : (s.nextFree).ports = s.ports := rfl
@[simp] theorem State.nextFree_ctxs : (s.nextFree).ctxs = s.ctxs := rfl
@[simp] theorem State.nextFree_pipes : (s.nextFree).pipes = s.pipes := rfl
@[simp] theorem State.nextFree_scans : (s.nextFree).scans = s.scans := rfl
@[simp] theorem State.nextFree_slots : (s.nextFree).slots = s.slots := rfl
@[simp] theorem State.nextFree_units : (s.nextFree).units = s.units := rfl
@[simp] theorem State.nextFree_acc : (s.nextFree).acc = s.acc := rfl
@[simp] theorem State.nextFree_rows : (s.nextFree).rows = s.rows := rfl
@[simp] theorem State.nextFree_lanes : (s.nextFree).lanes = s.lanes := rfl
@[simp] theorem State.nextFree_gooses : (s.nextFree).gooses = s.gooses := rfl
@[simp] theorem State.nextFree_lines : (s.nextFree).lines = s.lines := rfl
@[simp] theorem State.nextFree_plru : (s.nextFree).plru = s.plru := rfl
@[simp] theorem State.nextFree_wins : (s.nextFree).wins = s.wins := rfl
@[simp] theorem State.nextFree_segs : (s.nextFree).segs = s.segs := rfl
@[simp] theorem State.nextFree_mons : (s.nextFree).mons = s.mons := rfl
@[simp] theorem State.nextFree_pace : (s.nextFree).pace = s.pace := rfl
@[simp] theorem State.nextFree_ift : (s.nextFree).ift = s.ift := rfl
@[simp] theorem State.nextFree_sup : (s.nextFree).sup = s.sup := rfl
@[simp] theorem State.nextFree_net : (s.nextFree).net = s.net := rfl
@[simp] theorem State.nextFree_disp : (s.nextFree).disp = s.disp := rfl
@[simp] theorem State.nextFree_diale : (s.nextFree).diale = s.diale := rfl
@[simp] theorem State.nextFree_wire : (s.nextFree).wire = s.wire := rfl
@[simp] theorem State.nextFree_pending : (s.nextFree).pending = s.pending := rfl
end nextFree

section emit
variable {s : State} {o}
@[simp] theorem State.emit_regs : (s.emit o).regs = s.regs := rfl
@[simp] theorem State.emit_staged : (s.emit o).staged = s.staged := rfl
@[simp] theorem State.emit_blobs : (s.emit o).blobs = s.blobs := rfl
@[simp] theorem State.emit_stagedBlobs : (s.emit o).stagedBlobs = s.stagedBlobs := rfl
@[simp] theorem State.emit_mem : (s.emit o).mem = s.mem := rfl
@[simp] theorem State.emit_dramErr : (s.emit o).dramErr = s.dramErr := rfl
@[simp] theorem State.emit_space : (s.emit o).space = s.space := rfl
@[simp] theorem State.emit_sram : (s.emit o).sram = s.sram := rfl
@[simp] theorem State.emit_pad : (s.emit o).pad = s.pad := rfl
@[simp] theorem State.emit_fuses : (s.emit o).fuses = s.fuses := rfl
@[simp] theorem State.emit_flash : (s.emit o).flash = s.flash := rfl
@[simp] theorem State.emit_aon : (s.emit o).aon = s.aon := rfl
@[simp] theorem State.emit_sys : (s.emit o).sys = s.sys := rfl
@[simp] theorem State.emit_rooster : (s.emit o).rooster = s.rooster := rfl
@[simp] theorem State.emit_ring : (s.emit o).ring = s.ring := rfl
@[simp] theorem State.emit_ports : (s.emit o).ports = s.ports := rfl
@[simp] theorem State.emit_ctxs : (s.emit o).ctxs = s.ctxs := rfl
@[simp] theorem State.emit_pipes : (s.emit o).pipes = s.pipes := rfl
@[simp] theorem State.emit_scans : (s.emit o).scans = s.scans := rfl
@[simp] theorem State.emit_slots : (s.emit o).slots = s.slots := rfl
@[simp] theorem State.emit_units : (s.emit o).units = s.units := rfl
@[simp] theorem State.emit_acc : (s.emit o).acc = s.acc := rfl
@[simp] theorem State.emit_rows : (s.emit o).rows = s.rows := rfl
@[simp] theorem State.emit_lanes : (s.emit o).lanes = s.lanes := rfl
@[simp] theorem State.emit_gooses : (s.emit o).gooses = s.gooses := rfl
@[simp] theorem State.emit_lines : (s.emit o).lines = s.lines := rfl
@[simp] theorem State.emit_plru : (s.emit o).plru = s.plru := rfl
@[simp] theorem State.emit_wins : (s.emit o).wins = s.wins := rfl
@[simp] theorem State.emit_segs : (s.emit o).segs = s.segs := rfl
@[simp] theorem State.emit_mons : (s.emit o).mons = s.mons := rfl
@[simp] theorem State.emit_pace : (s.emit o).pace = s.pace := rfl
@[simp] theorem State.emit_ift : (s.emit o).ift = s.ift := rfl
@[simp] theorem State.emit_sup : (s.emit o).sup = s.sup := rfl
@[simp] theorem State.emit_net : (s.emit o).net = s.net := rfl
@[simp] theorem State.emit_disp : (s.emit o).disp = s.disp := rfl
@[simp] theorem State.emit_diale : (s.emit o).diale = s.diale := rfl
@[simp] theorem State.emit_free : (s.emit o).free = s.free := rfl
@[simp] theorem State.emit_pending : (s.emit o).pending = s.pending := rfl
end emit

end Sys2Proof.Machine
end

