-- ==== Sys2Proof/Laws/Store.lean ====
section
/-! SUPPORT. Laws of the sparse maps: reading after writing, and that every operation keeps the canonical form. -/

namespace Sys2Proof.Machine

open Sys2Proof

variable {α : Type}

theorem sfind_sdel_self (k : Nat) (m : SMap α) : sfind k (sdel k m) = none := by
  induction m with
  | nil => rfl
  | cons h t ih =>
    obtain ⟨k', v⟩ := h
    by_cases e : k = k' <;> simp [sdel, sfind, e] <;> simpa [e] using ih

theorem sfind_sdel_of_ne {k j : Nat} (h : j ≠ k) (m : SMap α) : sfind j (sdel k m) = sfind j m := by
  induction m with
  | nil => rfl
  | cons p t ih =>
    obtain ⟨k', v⟩ := p
    by_cases e : k = k'
    · subst e; simp [sdel, sfind, h, ih]
    · by_cases e' : j = k' <;> simp [sdel, sfind, e, e', ih]

theorem sfind_sinsert_self (k : Nat) (v : α) (m : SMap α) : sfind k (sinsert k v m) = some v := by
  induction m with
  | nil => simp [sinsert, sfind]
  | cons p t ih =>
    obtain ⟨k', w⟩ := p
    simp only [sinsert]
    split
    · simp [sfind]
    · split
      · simp [sfind]
      · next h1 h2 => simp [sfind, h2, ih]

theorem sfind_sinsert_of_ne {k j : Nat} (h : j ≠ k) (v : α) (m : SMap α) : sfind j (sinsert k v m) = sfind j m := by
  induction m with
  | nil => simp [sinsert, sfind, h]
  | cons p t ih =>
    obtain ⟨k', w⟩ := p
    simp only [sinsert]
    split
    · simp [sfind, h]
    · split
      · next h1 h2 => subst h2; simp [sfind, h]
      · by_cases e : j = k' <;> simp [sfind, e, ih]

/-- A key reads as what was last written to it. -/
@[simp] theorem sget_sset_self [DecidableEq α] (d : Nat → α) (m : SMap α) (k : Nat) (v : α) :
    sget d (sset d m k v) k = v := by
  unfold sset sget
  by_cases h : v = d k
  · rw [if_pos h, sfind_sdel_self, h]
  · rw [if_neg h, sfind_sinsert_self]

/-- A write leaves every other key alone. -/
theorem sget_sset_of_ne [DecidableEq α] (d : Nat → α) (m : SMap α) {k j : Nat} (h : j ≠ k) (v : α) :
    sget d (sset d m k v) j = sget d m j := by
  unfold sset sget
  by_cases e : v = d k
  · rw [if_pos e, sfind_sdel_of_ne h]
  · rw [if_neg e, sfind_sinsert_of_ne h]

/-! ## The canonical form -/

theorem sascFrom_mono {n k : Nat} (h : n ≤ k) (m : SMap α) (hm : sascFrom k m = true) : sascFrom n m = true := by
  cases m with
  | nil => rfl
  | cons p t =>
    simp only [sascFrom, Bool.and_eq_true, decide_eq_true_eq] at hm ⊢
    exact ⟨h.trans hm.1, hm.2⟩

theorem sascFrom_sdel (k : Nat) (m : SMap α) : ∀ n, sascFrom n m = true → sascFrom n (sdel k m) = true := by
  induction m with
  | nil => intro n _; rfl
  | cons p t ih =>
    obtain ⟨k', v⟩ := p
    intro n h
    simp only [sascFrom, Bool.and_eq_true, decide_eq_true_eq] at h
    simp only [sdel]
    split
    · exact ih n (sascFrom_mono (by omega) _ h.2)
    · simp only [sascFrom, Bool.and_eq_true, decide_eq_true_eq]
      exact ⟨h.1, ih _ h.2⟩

theorem sascFrom_sinsert (k : Nat) (v : α) (m : SMap α) :
    ∀ n, n ≤ k → sascFrom n m = true → sascFrom n (sinsert k v m) = true := by
  induction m with
  | nil => intro n h _; simp [sinsert, sascFrom, h]
  | cons p t ih =>
    obtain ⟨k', w⟩ := p
    intro n h hm
    simp only [sascFrom, Bool.and_eq_true, decide_eq_true_eq] at hm
    simp only [sinsert]
    split
    · simp only [sascFrom, Bool.and_eq_true, decide_eq_true_eq]
      exact ⟨h, by omega, hm.2⟩
    · split
      · next h1 h2 => subst h2; simp only [sascFrom, Bool.and_eq_true, decide_eq_true_eq]; exact ⟨h, hm.2⟩
      · simp only [sascFrom, Bool.and_eq_true, decide_eq_true_eq]
        exact ⟨hm.1, ih _ (by omega) hm.2⟩

theorem sascFrom_filter (p : Nat × α → Bool) (m : SMap α) : ∀ n, sascFrom n m = true → sascFrom n (m.filter p) = true := by
  induction m with
  | nil => intro n _; rfl
  | cons x t ih =>
    obtain ⟨k', v⟩ := x
    intro n h
    simp only [sascFrom, Bool.and_eq_true, decide_eq_true_eq] at h
    rw [List.filter_cons]
    split
    · simp only [sascFrom, Bool.and_eq_true, decide_eq_true_eq]
      exact ⟨h.1, ih _ h.2⟩
    · exact ih n (sascFrom_mono (by omega) _ h.2)

theorem mem_sdel {k : Nat} {m : SMap α} {x : Nat × α} (h : x ∈ sdel k m) : x ∈ m := by
  induction m with
  | nil => exact h
  | cons p t ih =>
    obtain ⟨k', v⟩ := p
    simp only [sdel] at h
    split at h
    · exact List.mem_cons_of_mem _ (ih h)
    · rcases List.mem_cons.1 h with h | h
      · exact h ▸ List.mem_cons_self
      · exact List.mem_cons_of_mem _ (ih h)

theorem mem_sinsert {k : Nat} {v : α} {m : SMap α} {x : Nat × α} (h : x ∈ sinsert k v m) : x = (k, v) ∨ x ∈ m := by
  induction m with
  | nil => simp [sinsert] at h; exact Or.inl h
  | cons p t ih =>
    obtain ⟨k', w⟩ := p
    simp only [sinsert] at h
    split at h
    · simpa using h
    · split at h
      · rcases List.mem_cons.1 h with h | h
        · exact Or.inl h
        · exact Or.inr (List.mem_cons_of_mem _ h)
      · rcases List.mem_cons.1 h with h | h
        · exact Or.inr (h ▸ List.mem_cons_self)
        · exact (ih h).imp id (List.mem_cons_of_mem _)

/-- A write keeps the canonical form. -/
theorem swf_sset [DecidableEq α] {d : Nat → α} {m : SMap α} (h : swf d m = true) (k : Nat) (v : α) :
    swf d (sset d m k v) = true := by
  simp only [swf, Bool.and_eq_true, List.all_eq_true, decide_eq_true_eq] at h ⊢
  unfold sset
  split
  · exact ⟨sascFrom_sdel k m 0 h.1, fun x hx => h.2 x (mem_sdel hx)⟩
  · next hv =>
    refine ⟨sascFrom_sinsert k v m 0 (Nat.zero_le _) h.1, fun x hx => ?_⟩
    rcases mem_sinsert hx with rfl | hx
    · exact hv
    · exact h.2 x hx

/-- Dropping entries keeps the canonical form. -/
theorem swf_filter [DecidableEq α] {d : Nat → α} {m : SMap α} (h : swf d m = true) (p : Nat × α → Bool) :
    swf d (m.filter p) = true := by
  simp only [swf, Bool.and_eq_true, List.all_eq_true, decide_eq_true_eq] at h ⊢
  exact ⟨sascFrom_filter p m 0 h.1, fun x hx => h.2 x (List.mem_filter.1 hx).1⟩

/-- Writing some of the entries of a list keeps the canonical form. -/
theorem swf_foldl_sset {β : Type} [DecidableEq α] {d : Nat → α} (l : List β) (c : β → Prop) [DecidablePred c] (k : β → Nat)
    (v : β → α) : ∀ {m : SMap α}, swf d m = true →
      swf d (l.foldl (fun m p => if c p then sset d m (k p) (v p) else m) m) = true := by
  induction l with
  | nil => intro m h; exact h
  | cons x t ih =>
    intro m h
    rw [List.foldl_cons]
    apply ih
    split
    · exact swf_sset h _ _
    · exact h

/-! ## Loops -/

@[simp] theorem forEach_nil {σ : Type} (f : α → σ → σ) (s : σ) : forEach [] f s = s := rfl

@[simp] theorem forEach_cons {σ : Type} (x : α) (l : List α) (f : α → σ → σ) (s : σ) :
    forEach (x :: l) f s = forEach l f (f x s) := rfl

/-- What every round of a loop keeps holds after the loop. -/
theorem forEach_induct {σ : Type} {P : σ → Prop} {f : α → σ → σ} {l : List α} {s : σ}
    (hf : ∀ a t, P t → P (f a t)) (h : P s) : P (forEach l f s) := by
  induction l generalizing s with
  | nil => exact h
  | cons x t ih => exact ih (hf x s h)

/-- What every round of a fold keeps holds after the fold. -/
theorem foldl_keeps {σ : Type} {P : σ → Prop} {f : σ → α → σ} (hf : ∀ s a, P s → P (f s a)) (l : List α) {s : σ}
    (h : P s) : P (l.foldl f s) := by
  induction l generalizing s with
  | nil => exact h
  | cons x t ih => exact ih (hf s x h)

end Sys2Proof.Machine
end

