-- ==== Sys2Proof/Laws/Ops.lean ====
section
/-! SUPPORT. Laws of the named operations: reading a value after writing it, counters, bytes of DRAM. -/

namespace Sys2Proof.Machine

open Sys2Proof

/-! ## Dictionary values -/

@[simp] theorem State.r_setR_self (s : State) (k : Key) (v : Nat) : (s.setR k v).r k = v := sget_sset_self _ _ _ _

theorem State.r_setR_of_ne (s : State) {k j : Key} (h : j ≠ k) (v : Nat) : (s.setR k v).r j = s.r j :=
  sget_sset_of_ne _ _ h _

theorem State.r_setR (s : State) (k j : Key) (v : Nat) : (s.setR k v).r j = if j = k then v else s.r j := by
  split
  · next h => subst h; exact r_setR_self _ _ _
  · next h => exact r_setR_of_ne _ h _

/-- Two states with the same dictionary values read the same. -/
theorem State.r_congr {s t : State} (h : t.regs = s.regs) (k : Key) : t.r k = s.r k := by simp only [State.r, h]

@[simp] theorem State.blob_setBlob_self (s : State) (k : Key) (b : Bytes) : (s.setBlob k b).blob k = b :=
  sget_sset_self _ _ _ _

theorem State.blob_setBlob_of_ne (s : State) {k j : Key} (h : j ≠ k) (b : Bytes) : (s.setBlob k b).blob j = s.blob j :=
  sget_sset_of_ne _ _ h _

/-! ## Counters -/

@[simp] theorem State.r_bumpBy_self (s : State) (k : Key) (n : Nat) : (s.bumpBy k n).r k = min (dictMax k) (s.r k + n) :=
  State.r_setR_self _ _ _

theorem State.r_bumpBy_of_ne (s : State) {k j : Key} (h : j ≠ k) (n : Nat) : (s.bumpBy k n).r j = s.r j :=
  State.r_setR_of_ne _ h _

@[simp] theorem State.r_bump_self (s : State) (k : Key) : (s.bump k).r k = min (dictMax k) (s.r k + 1) :=
  State.r_setR_self _ _ _

theorem State.r_bump_of_ne (s : State) {k j : Key} (h : j ≠ k) : (s.bump k).r j = s.r j := State.r_setR_of_ne _ h _

/-! ## Updates that leave every dictionary value alone -/

@[simp] theorem State.r_setBlob (s : State) (i : Nat) (x) (k : Key) : (s.setBlob i x).r k = s.r k := rfl
@[simp] theorem State.r_setPort (s : State) (i : Nat) (x) (k : Key) : (s.setPort i x).r k = s.r k := rfl
@[simp] theorem State.r_setCtx (s : State) (i : Nat) (x) (k : Key) : (s.setCtx i x).r k = s.r k := rfl
@[simp] theorem State.r_setPipe (s : State) (i : Nat) (x) (k : Key) : (s.setPipe i x).r k = s.r k := rfl
@[simp] theorem State.r_setScan (s : State) (i : Nat) (x) (k : Key) : (s.setScan i x).r k = s.r k := rfl
@[simp] theorem State.r_setSlot (s : State) (i : Nat) (x) (k : Key) : (s.setSlot i x).r k = s.r k := rfl
@[simp] theorem State.r_setUnit (s : State) (i : Nat) (x) (k : Key) : (s.setUnit i x).r k = s.r k := rfl
@[simp] theorem State.r_setAccE (s : State) (i : Nat) (x) (k : Key) : (s.setAccE i x).r k = s.r k := rfl
@[simp] theorem State.r_setRow (s : State) (i : Nat) (x) (k : Key) : (s.setRow i x).r k = s.r k := rfl
@[simp] theorem State.r_setLaneV (s : State) (i : Nat) (x) (k : Key) : (s.setLaneV i x).r k = s.r k := rfl
@[simp] theorem State.r_setGoose (s : State) (i : Nat) (x) (k : Key) : (s.setGoose i x).r k = s.r k := rfl
@[simp] theorem State.r_setSet (s : State) (i : Nat) (x) (k : Key) : (s.setSet i x).r k = s.r k := rfl
@[simp] theorem State.r_setPlruOf (s : State) (i : Nat) (x) (k : Key) : (s.setPlruOf i x).r k = s.r k := rfl
@[simp] theorem State.r_setWin (s : State) (i : Nat) (x) (k : Key) : (s.setWin i x).r k = s.r k := rfl
@[simp] theorem State.r_setMon (s : State) (i : Nat) (x) (k : Key) : (s.setMon i x).r k = s.r k := rfl
@[simp] theorem State.r_setDsp (s : State) (i : Nat) (x) (k : Key) : (s.setDsp i x).r k = s.r k := rfl
@[simp] theorem State.r_setSramErr (s : State) (i : Nat) (x) (k : Key) : (s.setSramErr i x).r k = s.r k := rfl
@[simp] theorem State.r_setBurstErr (s : State) (i : Nat) (x) (k : Key) : (s.setBurstErr i x).r k = s.r k := rfl
@[simp] theorem State.r_emit (s : State) (o : Out) (k : Key) : (s.emit o).r k = s.r k := rfl
@[simp] theorem State.r_memWrite (s : State) (a : Nat) (b : Bytes) (k : Key) : (s.memWrite a b).r k = s.r k := rfl
@[simp] theorem State.r_setMemByte (s : State) (a : Nat) (b : Byte) (k : Key) : (s.setMemByte a b).r k = s.r k := rfl
@[simp] theorem State.r_setT (s : State) (n v : Nat) (k : Key) : (s.setT n v).r k = s.r k := rfl
@[simp] theorem State.r_nextFree (s : State) (k : Key) : s.nextFree.r k = s.r k := rfl

/-! ## The sparse stores -/

@[simp] theorem State.port_setPort_self (s : State) (k : Nat) (x) : (s.setPort k x).port k = x := sget_sset_self _ _ _ _
theorem State.port_setPort_of_ne (s : State) (x) {k j : Nat} (h : j ≠ k) : (s.setPort k x).port j = s.port j :=
  sget_sset_of_ne _ _ h _
@[simp] theorem State.ctx_setCtx_self (s : State) (k : Nat) (x) : (s.setCtx k x).ctx k = x := sget_sset_self _ _ _ _
theorem State.ctx_setCtx_of_ne (s : State) (x) {k j : Nat} (h : j ≠ k) : (s.setCtx k x).ctx j = s.ctx j :=
  sget_sset_of_ne _ _ h _
@[simp] theorem State.pipe_setPipe_self (s : State) (k : Nat) (x) : (s.setPipe k x).pipe k = x := sget_sset_self _ _ _ _
theorem State.pipe_setPipe_of_ne (s : State) (x) {k j : Nat} (h : j ≠ k) : (s.setPipe k x).pipe j = s.pipe j :=
  sget_sset_of_ne _ _ h _
@[simp] theorem State.scan_setScan_self (s : State) (k : Nat) (x) : (s.setScan k x).scan k = x := sget_sset_self _ _ _ _
theorem State.scan_setScan_of_ne (s : State) (x) {k j : Nat} (h : j ≠ k) : (s.setScan k x).scan j = s.scan j :=
  sget_sset_of_ne _ _ h _
@[simp] theorem State.slot_setSlot_self (s : State) (k : Nat) (x) : (s.setSlot k x).slot k = x := sget_sset_self _ _ _ _
theorem State.slot_setSlot_of_ne (s : State) (x) {k j : Nat} (h : j ≠ k) : (s.setSlot k x).slot j = s.slot j :=
  sget_sset_of_ne _ _ h _
@[simp] theorem State.unit_setUnit_self (s : State) (k : Nat) (x) : (s.setUnit k x).unit k = x := sget_sset_self _ _ _ _
theorem State.unit_setUnit_of_ne (s : State) (x) {k j : Nat} (h : j ≠ k) : (s.setUnit k x).unit j = s.unit j :=
  sget_sset_of_ne _ _ h _
@[simp] theorem State.accE_setAccE_self (s : State) (k : Nat) (x) : (s.setAccE k x).accE k = x := sget_sset_self _ _ _ _
theorem State.accE_setAccE_of_ne (s : State) (x) {k j : Nat} (h : j ≠ k) : (s.setAccE k x).accE j = s.accE j :=
  sget_sset_of_ne _ _ h _
@[simp] theorem State.row_setRow_self (s : State) (k : Nat) (x) : (s.setRow k x).row k = x := sget_sset_self _ _ _ _
theorem State.row_setRow_of_ne (s : State) (x) {k j : Nat} (h : j ≠ k) : (s.setRow k x).row j = s.row j :=
  sget_sset_of_ne _ _ h _
@[simp] theorem State.laneV_setLaneV_self (s : State) (k : Nat) (x) : (s.setLaneV k x).laneV k = x := sget_sset_self _ _ _ _
theorem State.laneV_setLaneV_of_ne (s : State) (x) {k j : Nat} (h : j ≠ k) : (s.setLaneV k x).laneV j = s.laneV j :=
  sget_sset_of_ne _ _ h _
@[simp] theorem State.goose_setGoose_self (s : State) (k : Nat) (x) : (s.setGoose k x).goose k = x := sget_sset_self _ _ _ _
theorem State.goose_setGoose_of_ne (s : State) (x) {k j : Nat} (h : j ≠ k) : (s.setGoose k x).goose j = s.goose j :=
  sget_sset_of_ne _ _ h _
@[simp] theorem State.set_setSet_self (s : State) (k : Nat) (x) : (s.setSet k x).set k = x := sget_sset_self _ _ _ _
theorem State.set_setSet_of_ne (s : State) (x) {k j : Nat} (h : j ≠ k) : (s.setSet k x).set j = s.set j :=
  sget_sset_of_ne _ _ h _
@[simp] theorem State.plruOf_setPlruOf_self (s : State) (k : Nat) (x) : (s.setPlruOf k x).plruOf k = x := sget_sset_self _ _ _ _
theorem State.plruOf_setPlruOf_of_ne (s : State) (x) {k j : Nat} (h : j ≠ k) : (s.setPlruOf k x).plruOf j = s.plruOf j :=
  sget_sset_of_ne _ _ h _
@[simp] theorem State.win_setWin_self (s : State) (k : Nat) (x) : (s.setWin k x).win k = x := sget_sset_self _ _ _ _
theorem State.win_setWin_of_ne (s : State) (x) {k j : Nat} (h : j ≠ k) : (s.setWin k x).win j = s.win j :=
  sget_sset_of_ne _ _ h _
@[simp] theorem State.mon_setMon_self (s : State) (k : Nat) (x) : (s.setMon k x).mon k = x := sget_sset_self _ _ _ _
theorem State.mon_setMon_of_ne (s : State) (x) {k j : Nat} (h : j ≠ k) : (s.setMon k x).mon j = s.mon j :=
  sget_sset_of_ne _ _ h _
@[simp] theorem State.dsp_setDsp_self (s : State) (k : Nat) (x) : (s.setDsp k x).dsp k = x := sget_sset_self _ _ _ _
theorem State.dsp_setDsp_of_ne (s : State) (x) {k j : Nat} (h : j ≠ k) : (s.setDsp k x).dsp j = s.dsp j :=
  sget_sset_of_ne _ _ h _
@[simp] theorem State.sramErr_setSramErr_self (s : State) (k : Nat) (x) : (s.setSramErr k x).sramErr k = x := sget_sset_self _ _ _ _
theorem State.sramErr_setSramErr_of_ne (s : State) (x) {k j : Nat} (h : j ≠ k) : (s.setSramErr k x).sramErr j = s.sramErr j :=
  sget_sset_of_ne _ _ h _
@[simp] theorem State.burstErr_setBurstErr_self (s : State) (k : Nat) (x) : (s.setBurstErr k x).burstErr k = x := sget_sset_self _ _ _ _
theorem State.burstErr_setBurstErr_of_ne (s : State) (x) {k j : Nat} (h : j ≠ k) : (s.setBurstErr k x).burstErr j = s.burstErr j :=
  sget_sset_of_ne _ _ h _

/-! ## DRAM bytes -/

theorem sfind_append {α : Type} (k : Nat) (l m : SMap α) : sfind k (l ++ m) = (sfind k l).or (sfind k m) := by
  induction l with
  | nil => simp [sfind]
  | cons p t ih =>
    obtain ⟨k', v⟩ := p
    by_cases h : k = k' <;> simp [sfind, h, ih]

theorem sfind_filter {α : Type} (f : Nat → Bool) (k : Nat) (m : SMap α) :
    sfind k (m.filter fun x => f x.1) = if f k then sfind k m else none := by
  induction m with
  | nil => simp [sfind]
  | cons p t ih =>
    obtain ⟨k', v⟩ := p
    rw [List.filter_cons]
    by_cases h : k = k'
    · subst h; cases e : f k <;> simp [sfind, e, ih]
    · cases e : f k' <;> simp [sfind, h, ih]

theorem sfind_memCells_outside (bs : Bytes) : ∀ (a x : Nat), (x < a ∨ a + bs.length ≤ x) → sfind x (memCells a bs) = none := by
  induction bs with
  | nil => intro _ _ _; rfl
  | cons b t ih =>
    intro a x h
    simp only [List.length_cons] at h
    unfold memCells
    split
    · exact ih _ _ (by omega)
    · rw [sfind, if_neg (by omega)]; exact ih _ _ (by omega)

theorem sfind_memCells_inside (bs : Bytes) : ∀ (a i : Nat) (h : i < bs.length),
    sfind (a + i) (memCells a bs) = if bs[i] = 0#8 then none else some bs[i] := by
  induction bs with
  | nil => intro _ i h; simp at h
  | cons b t ih =>
    intro a i h
    unfold memCells
    cases i with
    | zero =>
      have e := sfind_memCells_outside t (a + 1) a (Or.inl (Nat.lt_succ_self a))
      split <;> simp_all [sfind]
    | succ i =>
      have e := ih (a + 1) i (by simpa using h)
      rw [Nat.add_right_comm a 1 i, Nat.add_assoc] at e
      split
      · simpa using e
      · rw [sfind, if_neg (by omega)]; simpa using e

theorem sget_memStore (bs : Bytes) (m : List Host.Cell) {a x : Nat} (h : x < a ∨ a + bs.length ≤ x) :
    sget (fun _ => 0#8) (memStore m a bs) x = sget (fun _ => 0#8) m x := by
  have e1 := sfind_filter (fun k => decide (k < a)) x m
  have e2 := sfind_filter (fun k => decide (a + bs.length ≤ k)) x m
  unfold sget memStore
  rw [sfind_append, sfind_append, sfind_memCells_outside bs a x h, e1, e2]
  rcases h with h | h
  · have : ¬ a + bs.length ≤ x := by omega
    simp [h, this]
  · have : ¬ x < a := by omega
    simp [h, this]

/-- A store leaves every byte outside it alone. -/
theorem State.memByte_memWrite_of_outside (s : State) (bs : Bytes) {a x : Nat} (h : x < a ∨ a + bs.length ≤ x) :
    (s.memWrite a bs).memByte x = s.memByte x := sget_memStore bs _ h

/-- A store puts its bytes at rising addresses. -/
theorem State.memByte_memWrite_inside (bs : Bytes) (s : State) (a i : Nat) (h : i < bs.length) :
    (s.memWrite a bs).memByte (a + i) = bs[i] := by
  have e1 := sfind_filter (fun k => decide (k < a)) (a + i) s.mem
  have e2 := sfind_filter (fun k => decide (a + bs.length ≤ k)) (a + i) s.mem
  unfold State.memByte State.memWrite sget memStore
  rw [sfind_append, sfind_append, sfind_memCells_inside bs a i h, e1, e2]
  have h1 : ¬ a + i < a := by omega
  have h2 : ¬ a + bs.length ≤ a + i := by omega
  by_cases e : bs[i] = 0#8 <;> simp [h2, e]

/-! ## The canonical form of a store -/

theorem sascFrom_append {α : Type} {k : Nat} {m : SMap α} (hm : sascFrom k m = true) (l : SMap α) :
    ∀ {n}, n ≤ k → sascFrom n l = true → (∀ p ∈ l, p.1 < k) → sascFrom n (l ++ m) = true := by
  induction l with
  | nil => intro n h _ _; exact sascFrom_mono h _ hm
  | cons p t ih =>
    intro n _ hl hp
    simp only [sascFrom, List.cons_append, Bool.and_eq_true, decide_eq_true_eq] at hl ⊢
    exact ⟨hl.1, ih (hp p List.mem_cons_self) hl.2 fun q hq => hp q (List.mem_cons_of_mem _ hq)⟩

theorem sascFrom_of_ge {α : Type} {n k : Nat} {m : SMap α} (h : sascFrom n m = true) (hk : ∀ p ∈ m, k ≤ p.1) :
    sascFrom k m = true := by
  cases m with
  | nil => rfl
  | cons p t =>
    simp only [sascFrom, Bool.and_eq_true, decide_eq_true_eq] at h ⊢
    exact ⟨hk p List.mem_cons_self, h.2⟩

theorem memCells_wf (bs : Bytes) : ∀ (a : Nat), sascFrom a (memCells a bs) = true ∧
    ∀ p ∈ memCells a bs, p.1 < a + bs.length ∧ p.2 ≠ 0#8 := by
  induction bs with
  | nil => intro a; exact ⟨rfl, fun p h => by cases h⟩
  | cons b t ih =>
    intro a
    obtain ⟨h1, h2⟩ := ih (a + 1)
    simp only [List.length_cons]
    unfold memCells
    split
    · exact ⟨sascFrom_mono (Nat.le_succ a) _ h1, fun p hp => ⟨by have := (h2 p hp).1; omega, (h2 p hp).2⟩⟩
    · next hb =>
      refine ⟨by simpa [sascFrom] using h1, fun p hp => ?_⟩
      rcases List.mem_cons.1 hp with rfl | hp
      · exact ⟨by simp, hb⟩
      · exact ⟨by have := (h2 p hp).1; omega, (h2 p hp).2⟩

/-- Stores keep the canonical form of the memory. -/
theorem memStore_wf (bs : Bytes) {m : List Host.Cell} (a : Nat) (h : Memory.wf m) : Memory.wf (memStore m a bs) := by
  obtain ⟨c1, c2⟩ := memCells_wf bs a
  simp only [Memory.wf, swf, Bool.and_eq_true, List.all_eq_true, decide_eq_true_eq] at h ⊢
  unfold memStore
  have hi : sascFrom (a + bs.length) (m.filter fun p => decide (a + bs.length ≤ p.1)) = true :=
    sascFrom_of_ge (sascFrom_filter _ m 0 h.1) fun p hp => by simpa using (List.mem_filter.1 hp).2
  have mid : sascFrom a (memCells a bs ++ m.filter fun p => decide (a + bs.length ≤ p.1)) = true :=
    sascFrom_append hi _ (Nat.le_add_right _ _) c1 fun p hp => (c2 p hp).1
  refine ⟨sascFrom_append mid _ (Nat.zero_le _) (sascFrom_filter _ m 0 h.1) fun p hp => by simpa using (List.mem_filter.1 hp).2, ?_⟩
  intro p hp
  rcases List.mem_append.1 hp with hp | hp
  · exact h.2 p (List.mem_filter.1 hp).1
  · rcases List.mem_append.1 hp with hp | hp
    · exact (c2 p hp).2
    · exact h.2 p (List.mem_filter.1 hp).1

end Sys2Proof.Machine
end

