-- ==== Sys2Proof/Laws/Requests.lean ====
section
/-! SUPPORT. How a request is served: one law per way that it ends, so that no proof about a command unfolds `serve`. -/

namespace Sys2Proof.Machine

open Sys2Proof

/-! ## Reaching the dictionary -/

/-- A request that the dictionary accepts is executed. -/
theorem serve_of_accepts {s : State} {r : DReq} {raised : List Nat} (h : Accepts s r) : serve r raised s = serveNew r raised s := by
  have hd : ¬ (r.q.port = 2 ∧ (!s.sys.depotEn) = true) := fun x => by simp [h.depot x.1] at x
  simp only [serve, h.live, hd, h.new, Bool.not_true, Bool.false_eq_true, if_false]

/-- A request that is not a reset command is answered as `answered` says. -/
theorem serveNew_eq {s t : State} {r : DReq} {a : Answer} (h : handle r s = (a, t)) (hr : isReset r a = false) :
    serveNew r [] s = answered r a s t := by
  simp [serveNew, answered, h, hr, raiseAll]

/-- What a beat's raises add comes between the request's effect and its answer. -/
theorem serveNew_raised {s t : State} {r : DReq} {a : Answer} (raised : List Nat) (h : handle r s = (a, t)) (hr : isReset r a = false) :
    serveNew r raised s = answered r a s (raiseAll (raised.filter isFaultSource) t) := by
  simp [serveNew, answered, h, hr]

/-- A request that the dictionary accepts and that is no reset command. -/
theorem serve_eq {s t : State} {r : DReq} {a : Answer} (h : Accepts s r) (e : handle r s = (a, t)) (hr : isReset r a = false) :
    serve r [] s = answered r a s t := by rw [serve_of_accepts h, serveNew_eq e hr]

theorem isReset_of_key {r : DReq} {a : Answer} (h : r.key ≠ Reg.RESET_CMD) (ha : r.all = false) : isReset r a = false := by
  simp [isReset, h, ha]

theorem isReset_of_op {r : DReq} {a : Answer} (h2 : r.op ≠ 2) (h4 : r.op ≠ 4) : isReset r a = false := by simp [isReset, h2, h4]

theorem isReset_error {r : DReq} {c : Abort} : isReset r (.error c) = false := by simp [isReset]

/-! ## Protocol errors -/

/-- A single read or write within its carrier's limit breaks no rule of the frame. -/
theorem protoBad_of_op {r : DReq} (h1 : 1 ≤ r.op) (h2 : r.op ≤ 5) (hp : r.proto = false) (ha : r.all = false)
    (hl : r.payload.length ≤ r.q.limit) : protoBad r = false := by
  simp [protoBad, within, h1, h2, hp, ha, hl]

/-! ## One value -/

@[simp] theorem numWrite_key (q : Req) (k n v : Nat) : (numWrite q k n v).key = k := Nat.div_add_mod' k 256

@[simp] theorem wholeWrite_key (q : Req) (k : Nat) (b : Bytes) : (wholeWrite q k b).key = k := Nat.div_add_mod' k 256

theorem leBytes_length (n v : Nat) : (leBytes n v).length = n := by
  induction n generalizing v with
  | zero => rfl
  | succ n ih => simp [leBytes, ih]

/-- Every carrier holds 40 bytes. -/
theorem forty_le_limit (q : Req) : 40 ≤ q.limit := by
  unfold Req.limit; split <;> omega

theorem forWhole_of_op {s : State} {r : DReq} (h : r.op ≠ 4) : s.forWhole r = s := if_neg h

/-- A permitted write of one number is applied. -/
theorem handle_numWrite {s : State} {q : Req} {k n v : Nat} {row : DictRow} (h : Permits s (numWrite q k n v) row) (hn : n ≤ 40) :
    handle (numWrite q k n v) s = (.ok ([], false), applyValue row k (leBytes n v) s) := by
  have hb : protoBad (numWrite q k n v) = false := by
    refine protoBad_of_op (r := numWrite q k n v) (Nat.le_of_ble_eq_true rfl) (Nat.le_of_ble_eq_true rfl) rfl rfl ?_
    show (leBytes n v).length ≤ q.limit
    rw [leBytes_length]; exact hn.trans (forty_le_limit q)
  have h1 := h.entry
  have h2 := h.access
  have h3 := h.checks
  rw [numWrite_key, forWhole_of_op (r := numWrite q k n v) (by simp [numWrite])] at h3
  unfold handle
  rw [if_neg (by simp [hb])]
  simp only [numWrite] at h1 h2 h3 ⊢
  simp only [Bool.false_eq_true, if_false, handleWrite, h1, h2, Bool.not_true]
  have e : DReq.key { q := q, op := 2, idx := k / 256, sub := k % 256, payload := leBytes n v } = k := Nat.div_add_mod' k 256
  rw [e]
  simp only [h3]

/-- A permitted write of one number, as it is served. -/
theorem serve_numWrite {s : State} {q : Req} {k n v : Nat} {row : DictRow} (a : Accepts s (numWrite q k n v))
    (h : Permits s (numWrite q k n v) row) (hn : n ≤ 40) (hk : k ≠ Reg.RESET_CMD) :
    serve (numWrite q k n v) [] s = answered (numWrite q k n v) (.ok ([], false)) s (applyValue row k (leBytes n v) s) :=
  serve_eq a (handle_numWrite h hn) (isReset_of_key (by simpa using hk) rfl)

/-- A permitted complete write is applied. -/
theorem handle_wholeWrite {s : State} {q : Req} {k : Nat} {b : Bytes} {row : DictRow} (h : PermitsWhole s (wholeWrite q k b) row) :
    handle (wholeWrite q k b) s
      = (wholeAnswer (wholeWrite q k b), applyValue row k b (s.forWhole (wholeWrite q k b))) := by
  have h1 := h.entry
  have h2 := h.access
  have h3 := h.checks
  have h4 := h.fits
  rw [wholeWrite_key] at h3
  have hb : protoBad (wholeWrite q k b) = false := by
    unfold protoBad wholeWrite
    by_cases hl : q.limit < b.length <;> simp [hl, within]
  unfold handle
  rw [if_neg (by simp [hb]), if_pos (show (wholeWrite q k b).whole = true from rfl)]
  unfold handleWhole
  rw [wholeWrite_key]
  have e1 : (wholeWrite q k b).payload = b := rfl
  have e2 : (wholeWrite q k b).q = q := rfl
  rw [e1] at h3
  rw [e1, e2] at h4
  rw [h1, e1, e2]
  rw [e2] at h2
  unfold State.forWhole at h3
  simp only [h2, h3, Bool.not_true, Bool.false_eq_true, if_false]
  have n1 : ¬ (q.limit < b.length ∧ maxSize row < b.length) := by
    rintro ⟨x, y⟩; rcases h4 with h | h <;> omega
  have n2 : ¬ (q.limit < b.length ∧ transfersFull s (wholeWrite q k b) = true) := by
    rintro ⟨x, y⟩; rcases h4 with h | h
    · omega
    · simp [h.2] at y
  simp only [n1, n2, if_false, wholeAnswer, State.forWhole]

/-- A permitted complete write, as it is served. -/
theorem serve_wholeWrite {s : State} {q : Req} {k : Nat} {b : Bytes} {row : DictRow} (a : Accepts s (wholeWrite q k b))
    (h : PermitsWhole s (wholeWrite q k b) row) (hk : k ≠ Reg.RESET_CMD) :
    serve (wholeWrite q k b) [] s = answered (wholeWrite q k b) (wholeAnswer (wholeWrite q k b)) s
      (applyValue row k b (s.forWhole (wholeWrite q k b))) :=
  serve_eq a (handle_wholeWrite h) (isReset_of_key (by simpa using hk) rfl)

/-! ## Frames over updates of dictionary values -/

theorem Becomes.setR (s : State) (k : Key) (v : Nat) : Becomes s (s.setR k v) s [(k, v)] :=
  ⟨fun p hp => by rw [List.mem_singleton.1 hp]; exact State.r_setR_self s k v,
    fun _ h => State.r_setR_of_ne s (h (k, v) (List.mem_singleton_self _)) v, rfl⟩

theorem Becomes.bump (s : State) (k : Key) : Becomes s (s.bump k) s [(k, s.oneMore k)] := Becomes.setR s k _

theorem Becomes.refl (s : State) : Becomes s s s [] := ⟨by simp, fun _ _ => rfl, rfl⟩

/-- A frozen ring is readable by a request that the dictionary accepts, whose class may read it, with a transfer free. -/
theorem ringReadable_of {s : State} {q : Req} {row : DictRow} (ha : Accepts s (ringSegment q 0)) (he : entryRow s 0x4024 1 = .ok row)
    (hc : canRead (row.acc q.cls) = true) (hr : s.r Reg.RING_STATE = 2) (hf : transfersFull s (ringSegment q 0) = false) :
    ringReadable s q = true := by
  have hq : (ringSegment q 0).q.cls = q.cls := rfl
  have h : ∃ x, (handle (ringSegment q 0) s).1 = .ok x := by
    have hp : protoBad (ringSegment q 0) = false := by simp [protoBad, ringSegment, within]
    have hk : readRefusal s (ringSegment q 0).key = none := by simp [readRefusal, DReq.key, ringSegment, Reg.RING_DATA, Reg.ATTEST_REPORT, hr]
    unfold handle
    rw [hp]
    show ∃ x, (handleSegRead (ringSegment q 0) s).1 = .ok x
    unfold handleSegRead
    rw [show entryRow s (ringSegment q 0).idx (ringSegment q 0).sub = .ok row from he]
    simp only [hq, hc, hk, hf, show (ringSegment q 0).off = 0 by simp [ringSegment], Bool.not_true, Bool.false_eq_true, if_false,
      ne_eq, not_true_eq_false, false_and, if_true]
    unfold readSegment; dsimp only
    split <;> exact ⟨_, rfl⟩
  obtain ⟨x, hx⟩ := h
  have hd : (decide (q.port ≠ 2) || s.sys.depotEn) = true := by
    by_cases hp : q.port = 2
    · simp [ha.depot hp]
    · simp [hp]
  simp only [ringReadable, hx, hd, show portLive s q.port.val = true from ha.live, ha.new, Option.isNone_none, Bool.and_self]

end Sys2Proof.Machine
end

