-- ==== Sys2Proof/Laws/Entries.lean ====
section
/-! SUPPORT. The entries that have commands of their own: the row of each, and what an accepted write of it does. -/

namespace Sys2Proof.Machine

open Sys2Proof

/-! ## Rows -/

/-- An entry that is no host parameter has the row that the table gives it. -/
theorem row_of_entry {s : State} {idx sub : Nat} {row r : DictRow} (h : entryRow s idx sub = .ok row)
    (hk : within idx 0x3400 0x343F = false) (hd : dictRow idx sub = some r) : row = r := by
  have hr : rowOf s idx sub = some r := by simp [rowOf, hk, hd]
  unfold entryRow at h
  rw [hr] at h
  split at h
  · cases h
  · split at h
    · cases h
    · split at h
      · cases h
      · exact (Except.ok.inj h).symm

theorem dictRow_RING_SIZE : dictRow (Reg.RING_SIZE / 256) (Reg.RING_SIZE % 256)
    = some ⟨0x4020, 0x4020, 0x01, 0x01, .u16, .rw, .r, .rw, 0, .coldBoot⟩ := by decide

theorem dictRow_GRAPH_CMD : ∀ i : Fin 64, dictRow (Reg.GRAPH_CMD i.val / 256) (Reg.GRAPH_CMD i.val % 256)
    = some ⟨0x3013, 0x3013, 0x01, 0x40, .u8, .w, .no, .no, 0, .write⟩ := by decide

theorem noHost_GRAPH_CMD : ∀ i : Fin 64, within (Reg.GRAPH_CMD i.val / 256) 0x3400 0x343F = false := by decide

theorem dictRow_PENDING : ∀ i : Fin 2, dictRow (Reg.PENDING i.val / 256) (Reg.PENDING i.val % 256)
    = some ⟨0x5003, 0x5003, i.val + 1, i.val + 1, .u64, .rw, .r, .r, 0, .write⟩ := by decide

theorem noHost_PENDING : ∀ i : Fin 2, within (Reg.PENDING i.val / 256) 0x3400 0x343F = false := by decide

theorem dictRow_LATCH_CLEAR : dictRow (Reg.LATCH_CLEAR / 256) (Reg.LATCH_CLEAR % 256)
    = some ⟨0x5000, 0x5000, 0x03, 0x03, .u8, .w, .no, .no, 0, .write⟩ := by decide

theorem dictRow_CAM_ENABLE : ∀ i : Fin 24, dictRow (Reg.CAM_ENABLE i.val / 256) (Reg.CAM_ENABLE i.val % 256)
    = some ⟨0x2100, 0x2117, 0x01, 0x01, .bool, .rw, .rw, .rw, 0, .write⟩ := by decide

theorem noHost_CAM_ENABLE : ∀ i : Fin 24, within (Reg.CAM_ENABLE i.val / 256) 0x3400 0x343F = false := by decide

theorem dictRow_CAM_GEAR : ∀ i : Fin 24, dictRow (Reg.CAM_GEAR i.val / 256) (Reg.CAM_GEAR i.val % 256)
    = some ⟨0x2100, 0x2117, 0x02, 0x02, .u8, .rw, .rw, .rw, 2, .write⟩ := by decide

theorem noHost_CAM_GEAR : ∀ i : Fin 24, within (Reg.CAM_GEAR i.val / 256) 0x3400 0x343F = false := by decide

theorem dictRow_CTX_PORT : ∀ i : Fin 36, dictRow (Reg.CTX_PORT i.val / 256) (Reg.CTX_PORT i.val % 256)
    = some ⟨0x2800, 0x2823, 0x01, 0x01, .u8, .rw, .rw, .rw, 0xff, .write⟩ := by decide

theorem noHost_CTX_PORT : ∀ i : Fin 36, within (Reg.CTX_PORT i.val / 256) 0x3400 0x343F = false := by decide

theorem dictRow_CTX_PARAM_HOLD : ∀ i : Fin 36, dictRow (Reg.CTX_PARAM_HOLD i.val / 256) (Reg.CTX_PARAM_HOLD i.val % 256)
    = some ⟨0x2800, 0x2823, 0x10, 0x10, .bool, .rw, .rw, .rw, 0, .write⟩ := by decide

theorem noHost_CTX_PARAM_HOLD : ∀ i : Fin 36, within (Reg.CTX_PARAM_HOLD i.val / 256) 0x3400 0x343F = false := by decide

theorem dictRow_RING_CMD : dictRow (Reg.RING_CMD / 256) (Reg.RING_CMD % 256)
    = some ⟨0x4022, 0x4022, 0x01, 0x01, .u8, .w, .no, .w, 0, .write⟩ := by decide

theorem dictRow_RING_CURSOR : dictRow (Reg.RING_CURSOR / 256) (Reg.RING_CURSOR % 256)
    = some ⟨0x4023, 0x4023, 0x01, 0x01, .u64, .r, .rw, .rw, 0, .write⟩ := by decide

theorem dictRow_TIME_COMMIT : dictRow (Reg.TIME_COMMIT / 256) (Reg.TIME_COMMIT % 256)
    = some ⟨0x6020, 0x6020, 0x01, 0x01, .u8, .w, .w, .w, 0, .write⟩ := by decide

theorem dictRow_DSP_ENABLE : ∀ i : Fin 4, dictRow (Reg.DSP_ENABLE i.val / 256) (Reg.DSP_ENABLE i.val % 256)
    = some ⟨0x4800, 0x4803, 0x01, 0x01, .bool, .rw, .rw, .rw, 0, .write⟩ := by decide

theorem noHost_DSP_ENABLE : ∀ i : Fin 4, within (Reg.DSP_ENABLE i.val / 256) 0x3400 0x343F = false := by decide

theorem dictRow_PLN_SOURCE : ∀ i : Fin 16, dictRow (Reg.PLN_SOURCE i.val / 256) (Reg.PLN_SOURCE i.val % 256)
    = some ⟨0x4810, 0x481F, 0x02, 0x02, .u8, .rw, .rw, .rw, 0xff, .write⟩ := by decide

theorem noHost_PLN_SOURCE : ∀ i : Fin 16, within (Reg.PLN_SOURCE i.val / 256) 0x3400 0x343F = false := by decide

theorem dictRow_RESET_CMD : dictRow (Reg.RESET_CMD / 256) (Reg.RESET_CMD % 256)
    = some ⟨0x1030, 0x1030, 0x01, 0x01, .u16, .w, .no, .w, 0, .write⟩ := by decide

theorem dictRow_STANDBY_CMD : dictRow (Reg.STANDBY_CMD / 256) (Reg.STANDBY_CMD % 256)
    = some ⟨0x8010, 0x8010, 0x01, 0x01, .u8, .w, .no, .w, 0, .write⟩ := by decide

theorem dictRow_PACKAGE : ∀ i : Fin 64, dictRow (Reg.PACKAGE i.val / 256) (Reg.PACKAGE i.val % 256)
    = some ⟨0x3010, 0x3010, 0x01, 0x40, .dom 2147483648, .rw, .rw, .no, 0, .write⟩ := by decide

theorem noHost_PACKAGE : ∀ i : Fin 64, within (Reg.PACKAGE i.val / 256) 0x3400 0x343F = false := by decide

theorem dictRow_TEST_PACKAGE : dictRow (Reg.TEST_PACKAGE / 256) (Reg.TEST_PACKAGE % 256)
    = some ⟨0x5040, 0x5040, 0x01, 0x01, .dom 16777216, .rw, .r, .rw, 0, .write⟩ := by decide

theorem dictRow_CAM_I2C_REQ : ∀ i : Fin 24, dictRow (Reg.CAM_I2C_REQ i.val / 256) (Reg.CAM_I2C_REQ i.val % 256)
    = some ⟨0x2300, 0x2317, 0x02, 0x02, .dom 38, .w, .w, .w, 0, .write⟩ := by decide

theorem noHost_CAM_I2C_REQ : ∀ i : Fin 24, within (Reg.CAM_I2C_REQ i.val / 256) 0x3400 0x343F = false := by decide

theorem dictRow_FW_IMAGE : dictRow (Reg.FW_IMAGE / 256) (Reg.FW_IMAGE % 256)
    = some ⟨0x7010, 0x7010, 0x01, 0x01, .dom 33554432, .w, .no, .w, 0, .write⟩ := by decide

theorem dictRow_CUSTOMER_KEY : dictRow (Reg.CUSTOMER_KEY / 256) (Reg.CUSTOMER_KEY % 256)
    = some ⟨0x7001, 0x7001, 0x01, 0x01, .dom 128, .r, .r, .rw, 0, .write⟩ := by decide

theorem dictRow_ATTEST_NONCE : dictRow (Reg.ATTEST_NONCE / 256) (Reg.ATTEST_NONCE % 256)
    = some ⟨0x7021, 0x7021, 0x01, 0x01, .dom 16, .rw, .rw, .rw, 0, .write⟩ := by decide

/-! ## Numbers -/

theorem leVal_leBytes (n : Nat) : ∀ v, v < 256 ^ n → leVal (leBytes n v) = v := by
  induction n with
  | zero => intro v h; simp at h; subst h; rfl
  | succ n ih =>
    intro v h
    have h2 : v / 256 < 256 ^ n := by
      rw [Nat.div_lt_iff_lt_mul (by omega)]; rw [pow_succ] at h; omega
    simp only [leBytes, leVal, ih _ h2]
    simp
    omega

theorem applyValue_num {row : DictRow} {k n v w : Nat} {s : State} (hs : row.ty.size = some w) (ha : appliesAtOnce row = true)
    (hv : v < 256 ^ n) : applyValue row k (leBytes n v) s = writeNum k v s := by
  simp only [applyValue, hs, ha, if_true, leVal_leBytes n v hv]

theorem applyValue_blob {row : DictRow} {k : Nat} {b : Bytes} {s : State} (hs : row.ty.size = none) (ha : appliesAtOnce row = true) :
    applyValue row k b s = writeBlob k b s := by
  simp only [applyValue, hs, ha, if_true]

/-! ## What a write of each does -/

theorem writeNum_GRAPH_CMD (i : Fin 64) (v : Nat) (t : State) : writeNum (Reg.GRAPH_CMD i.val) v t = (graphCmd i.val v t) := by
  fin_cases i <;> rfl

theorem writeNum_PENDING (i : Fin 2) (v : Nat) (t : State) : writeNum (Reg.PENDING i.val) v t = (clearPending i.val v t) := by
  fin_cases i <;> rfl

theorem writeNum_CAM_ENABLE (i : Fin 24) (v : Nat) (t : State) : writeNum (Reg.CAM_ENABLE i.val) v t = (if v = 1 then enablePort i.val t else disablePort i.val t) := by
  fin_cases i <;> rfl

theorem writeNum_CAM_GEAR (i : Fin 24) (v : Nat) (t : State) : writeNum (Reg.CAM_GEAR i.val) v t = (writeGear i.val v t) := by
  fin_cases i <;> rfl

theorem writeNum_CTX_PORT (i : Fin 36) (v : Nat) (t : State) : writeNum (Reg.CTX_PORT i.val) v t = (bindPort i.val v t) := by
  fin_cases i <;> rfl

theorem writeNum_CTX_PARAM_HOLD (i : Fin 36) (v : Nat) (t : State) : writeNum (Reg.CTX_PARAM_HOLD i.val) v t = (t.setR (Reg.CTX_PARAM_HOLD i.val) v) := by
  fin_cases i <;> rfl

theorem writeNum_DSP_ENABLE (i : Fin 4) (v : Nat) (t : State) : writeNum (Reg.DSP_ENABLE i.val) v t = (enableDisplay i.val v t) := by
  fin_cases i <;> rfl

theorem writeNum_PLN_SOURCE (i : Fin 16) (v : Nat) (t : State) : writeNum (Reg.PLN_SOURCE i.val) v t = (t.setR (Reg.PLN_SOURCE i.val) v) := by
  fin_cases i <;> rfl

theorem writeBlob_PACKAGE (i : Fin 64) (b : Bytes) (t : State) : writeBlob (Reg.PACKAGE i.val) b t = (loadPackage i.val b t) := by
  fin_cases i <;> rfl

theorem writeBlob_CAM_I2C_REQ (i : Fin 24) (b : Bytes) (t : State) : writeBlob (Reg.CAM_I2C_REQ i.val) b t = (i2cStart i.val b t) := by
  fin_cases i <;> rfl

theorem apply_GRAPH_CMD {s t : State} {row : DictRow} {i : Fin 64} {v : Nat}
    (h : entryRow s (Reg.GRAPH_CMD i.val / 256) (Reg.GRAPH_CMD i.val % 256) = .ok row) (hv : v < 256 ^ 1) :
    applyValue row (Reg.GRAPH_CMD i.val) (leBytes 1 v) t = (graphCmd i.val v t) := by
  rw [row_of_entry h (noHost_GRAPH_CMD i) (dictRow_GRAPH_CMD i), applyValue_num rfl rfl hv, writeNum_GRAPH_CMD]

theorem apply_PENDING {s t : State} {row : DictRow} {i : Fin 2} {v : Nat}
    (h : entryRow s (Reg.PENDING i.val / 256) (Reg.PENDING i.val % 256) = .ok row) (hv : v < 256 ^ 8) :
    applyValue row (Reg.PENDING i.val) (leBytes 8 v) t = (clearPending i.val v t) := by
  rw [row_of_entry h (noHost_PENDING i) (dictRow_PENDING i), applyValue_num rfl rfl hv, writeNum_PENDING]

theorem apply_LATCH_CLEAR {s t : State} {row : DictRow} {v : Nat}
    (h : entryRow s (Reg.LATCH_CLEAR / 256) (Reg.LATCH_CLEAR % 256) = .ok row) (hv : v < 256 ^ 1) :
    applyValue row Reg.LATCH_CLEAR (leBytes 1 v) t = ((t.setR Reg.FIRST_SOURCE 0).setR Reg.OVERFLOW 0) := by
  rw [row_of_entry h rfl dictRow_LATCH_CLEAR, applyValue_num rfl rfl hv]
  rfl

theorem apply_CAM_ENABLE {s t : State} {row : DictRow} {i : Fin 24} {v : Nat}
    (h : entryRow s (Reg.CAM_ENABLE i.val / 256) (Reg.CAM_ENABLE i.val % 256) = .ok row) (hv : v < 256 ^ 1) :
    applyValue row (Reg.CAM_ENABLE i.val) (leBytes 1 v) t = (if v = 1 then enablePort i.val t else disablePort i.val t) := by
  rw [row_of_entry h (noHost_CAM_ENABLE i) (dictRow_CAM_ENABLE i), applyValue_num rfl rfl hv, writeNum_CAM_ENABLE]

theorem apply_CAM_GEAR {s t : State} {row : DictRow} {i : Fin 24} {v : Nat}
    (h : entryRow s (Reg.CAM_GEAR i.val / 256) (Reg.CAM_GEAR i.val % 256) = .ok row) (hv : v < 256 ^ 1) :
    applyValue row (Reg.CAM_GEAR i.val) (leBytes 1 v) t = (writeGear i.val v t) := by
  rw [row_of_entry h (noHost_CAM_GEAR i) (dictRow_CAM_GEAR i), applyValue_num rfl rfl hv, writeNum_CAM_GEAR]

theorem apply_CTX_PORT {s t : State} {row : DictRow} {i : Fin 36} {v : Nat}
    (h : entryRow s (Reg.CTX_PORT i.val / 256) (Reg.CTX_PORT i.val % 256) = .ok row) (hv : v < 256 ^ 1) :
    applyValue row (Reg.CTX_PORT i.val) (leBytes 1 v) t = (bindPort i.val v t) := by
  rw [row_of_entry h (noHost_CTX_PORT i) (dictRow_CTX_PORT i), applyValue_num rfl rfl hv, writeNum_CTX_PORT]

theorem apply_CTX_PARAM_HOLD {s t : State} {row : DictRow} {i : Fin 36} {v : Nat}
    (h : entryRow s (Reg.CTX_PARAM_HOLD i.val / 256) (Reg.CTX_PARAM_HOLD i.val % 256) = .ok row) (hv : v < 256 ^ 1) :
    applyValue row (Reg.CTX_PARAM_HOLD i.val) (leBytes 1 v) t = (t.setR (Reg.CTX_PARAM_HOLD i.val) v) := by
  rw [row_of_entry h (noHost_CTX_PARAM_HOLD i) (dictRow_CTX_PARAM_HOLD i), applyValue_num rfl rfl hv, writeNum_CTX_PARAM_HOLD]

theorem apply_RING_CMD {s t : State} {row : DictRow} {v : Nat}
    (h : entryRow s (Reg.RING_CMD / 256) (Reg.RING_CMD % 256) = .ok row) (hv : v < 256 ^ 1) :
    applyValue row Reg.RING_CMD (leBytes 1 v) t = (ringCmd v t) := by
  rw [row_of_entry h rfl dictRow_RING_CMD, applyValue_num rfl rfl hv]
  rfl

theorem apply_RING_CURSOR {s t : State} {row : DictRow} {v : Nat}
    (h : entryRow s (Reg.RING_CURSOR / 256) (Reg.RING_CURSOR % 256) = .ok row) (hv : v < 256 ^ 8) :
    applyValue row Reg.RING_CURSOR (leBytes 8 v) t = (t.setR Reg.RING_CURSOR v) := by
  rw [row_of_entry h rfl dictRow_RING_CURSOR, applyValue_num rfl rfl hv]
  rfl

theorem apply_TIME_COMMIT {s t : State} {row : DictRow} {v : Nat}
    (h : entryRow s (Reg.TIME_COMMIT / 256) (Reg.TIME_COMMIT % 256) = .ok row) (hv : v < 256 ^ 1) :
    applyValue row Reg.TIME_COMMIT (leBytes 1 v) t = (scheduleCommit t) := by
  rw [row_of_entry h rfl dictRow_TIME_COMMIT, applyValue_num rfl rfl hv]
  rfl

theorem apply_DSP_ENABLE {s t : State} {row : DictRow} {i : Fin 4} {v : Nat}
    (h : entryRow s (Reg.DSP_ENABLE i.val / 256) (Reg.DSP_ENABLE i.val % 256) = .ok row) (hv : v < 256 ^ 1) :
    applyValue row (Reg.DSP_ENABLE i.val) (leBytes 1 v) t = (enableDisplay i.val v t) := by
  rw [row_of_entry h (noHost_DSP_ENABLE i) (dictRow_DSP_ENABLE i), applyValue_num rfl rfl hv, writeNum_DSP_ENABLE]

theorem apply_PLN_SOURCE {s t : State} {row : DictRow} {i : Fin 16} {v : Nat}
    (h : entryRow s (Reg.PLN_SOURCE i.val / 256) (Reg.PLN_SOURCE i.val % 256) = .ok row) (hv : v < 256 ^ 1) :
    applyValue row (Reg.PLN_SOURCE i.val) (leBytes 1 v) t = (t.setR (Reg.PLN_SOURCE i.val) v) := by
  rw [row_of_entry h (noHost_PLN_SOURCE i) (dictRow_PLN_SOURCE i), applyValue_num rfl rfl hv, writeNum_PLN_SOURCE]

theorem apply_RESET_CMD {s t : State} {row : DictRow} {v : Nat}
    (h : entryRow s (Reg.RESET_CMD / 256) (Reg.RESET_CMD % 256) = .ok row) (hv : v < 256 ^ 2) :
    applyValue row Reg.RESET_CMD (leBytes 2 v) t = (t) := by
  rw [row_of_entry h rfl dictRow_RESET_CMD, applyValue_num rfl rfl hv]
  rfl

theorem apply_STANDBY_CMD {s t : State} {row : DictRow} {v : Nat}
    (h : entryRow s (Reg.STANDBY_CMD / 256) (Reg.STANDBY_CMD % 256) = .ok row) (hv : v < 256 ^ 1) :
    applyValue row Reg.STANDBY_CMD (leBytes 1 v) t = (standbyEnter t) := by
  rw [row_of_entry h rfl dictRow_STANDBY_CMD, applyValue_num rfl rfl hv]
  rfl

theorem apply_PACKAGE {s t : State} {row : DictRow} {i : Fin 64} {b : Bytes}
    (h : entryRow s (Reg.PACKAGE i.val / 256) (Reg.PACKAGE i.val % 256) = .ok row) :
    applyValue row (Reg.PACKAGE i.val) b t = (loadPackage i.val b t) := by
  rw [row_of_entry h (noHost_PACKAGE i) (dictRow_PACKAGE i), applyValue_blob rfl rfl, writeBlob_PACKAGE]

theorem apply_TEST_PACKAGE {s t : State} {row : DictRow} {b : Bytes}
    (h : entryRow s (Reg.TEST_PACKAGE / 256) (Reg.TEST_PACKAGE % 256) = .ok row) :
    applyValue row Reg.TEST_PACKAGE b t = (testPackageEnd b t) := by
  rw [row_of_entry h rfl dictRow_TEST_PACKAGE, applyValue_blob rfl rfl]
  rfl

theorem apply_CAM_I2C_REQ {s t : State} {row : DictRow} {i : Fin 24} {b : Bytes}
    (h : entryRow s (Reg.CAM_I2C_REQ i.val / 256) (Reg.CAM_I2C_REQ i.val % 256) = .ok row) :
    applyValue row (Reg.CAM_I2C_REQ i.val) b t = (i2cStart i.val b t) := by
  rw [row_of_entry h (noHost_CAM_I2C_REQ i) (dictRow_CAM_I2C_REQ i), applyValue_blob rfl rfl, writeBlob_CAM_I2C_REQ]

theorem apply_FW_IMAGE {s t : State} {row : DictRow} {b : Bytes}
    (h : entryRow s (Reg.FW_IMAGE / 256) (Reg.FW_IMAGE % 256) = .ok row) :
    applyValue row Reg.FW_IMAGE b t = (fwImageEnd b t) := by
  rw [row_of_entry h rfl dictRow_FW_IMAGE, applyValue_blob rfl rfl]
  rfl

theorem apply_CUSTOMER_KEY {s t : State} {row : DictRow} {b : Bytes}
    (h : entryRow s (Reg.CUSTOMER_KEY / 256) (Reg.CUSTOMER_KEY % 256) = .ok row) :
    applyValue row Reg.CUSTOMER_KEY b t = (enrol b t) := by
  rw [row_of_entry h rfl dictRow_CUSTOMER_KEY, applyValue_blob rfl rfl]
  rfl

theorem apply_ATTEST_NONCE {s t : State} {row : DictRow} {b : Bytes}
    (h : entryRow s (Reg.ATTEST_NONCE / 256) (Reg.ATTEST_NONCE % 256) = .ok row) :
    applyValue row Reg.ATTEST_NONCE b t = (startReport b (t.setBlob Reg.ATTEST_NONCE b)) := by
  rw [row_of_entry h rfl dictRow_ATTEST_NONCE, applyValue_blob rfl rfl]
  rfl

set_option maxRecDepth 20000 in
theorem dictRow_REACTION : ∀ i : Fin 256,
    (dictRow (0x500200 / 256) i.val).all (fun r => decide (r.ty.size = some 1) && appliesAtOnce r) = true := by decide

theorem apply_REACTION {s t : State} {row : DictRow} {i v : Nat} (hi : i < 256)
    (h : entryRow s ((0x500200 + i) / 256) ((0x500200 + i) % 256) = .ok row) (hv : v < 256 ^ 1) :
    applyValue row (0x500200 + i) (leBytes 1 v) t = t.setR (0x500200 + i) v := by
  have e1 : (0x500200 + i) / 256 = 0x500200 / 256 := by omega
  have e2 : (0x500200 + i) % 256 = i := by omega
  have hd := dictRow_REACTION ⟨i, hi⟩
  rw [e1, e2] at h
  have hw : writeNum (0x500200 + i) v t = t.setR (0x500200 + i) v := by
    unfold writeNum; rw [e1]; rfl
  cases hr : dictRow (0x500200 / 256) i with
  | none => simp [entryRow, rowOf, within, hr] at h; split_ifs at h
  | some r =>
    simp only [hr, Option.all_some, Bool.and_eq_true, decide_eq_true_eq] at hd
    rw [row_of_entry h rfl hr, applyValue_num hd.1 hd.2 hv, hw]

end Sys2Proof.Machine
end

