-- ==== Sys2Proof/Laws/Evolves.lean ====
section
/-! SUPPORT. One relation for what no operation takes back, with the laws that let each operation be done once. -/

namespace Sys2Proof.Machine

open Sys2Proof

/-- `t` may follow `s`: the queue is the same, the compared stores and the staged values stay canonical, fuses only blow, what has left the device
stays on the wire, and free values are never drawn twice. -/
structure Evolves (s t : State) : Prop where
  pending : t.pending = s.pending
  mem : Memory.wf s.mem → Memory.wf t.mem
  regs : swf dictDefault s.regs = true → swf dictDefault t.regs = true
  staged : sasc s.staged = true → sasc t.staged = true
  fuses : s.fuses.le t.fuses
  wire : s.wire <+: t.wire
  free : s.free ≤ t.free

theorem KeyBank.le_refl (a : KeyBank) : a.le a := ⟨fun h => ⟨h, rfl⟩, id⟩

theorem KeyBank.le_trans {a b c : KeyBank} (h : a.le b) (k : b.le c) : a.le c :=
  ⟨fun u => ⟨(k.1 (h.1 u).1).1, (k.1 (h.1 u).1).2.trans (h.1 u).2⟩, fun v => k.2 (h.2 v)⟩

theorem Fuses.le_refl (a : Fuses) : a.le a :=
  ⟨rfl, le_rfl, le_rfl, fun _ => id, KeyBank.le_refl _, KeyBank.le_refl _, fun h => ⟨h, rfl⟩⟩

theorem Fuses.le_trans {a b c : Fuses} (h : a.le b) (k : b.le c) : a.le c :=
  ⟨k.factory.trans h.factory, h.lifecycle.trans k.lifecycle, h.secFuses.trans k.secFuses,
    fun n x => k.revoked n (h.revoked n x), KeyBank.le_trans h.bank0 k.bank0, KeyBank.le_trans h.bank1 k.bank1,
    fun x => ⟨(k.health (h.health x).1).1, (k.health (h.health x).1).2.trans (h.health x).2⟩⟩

theorem Evolves.refl (s : State) : Evolves s s := ⟨rfl, id, id, id, Fuses.le_refl _, List.prefix_refl _, le_rfl⟩

theorem Evolves.trans {s t u : State} (h : Evolves s t) (k : Evolves t u) : Evolves s u :=
  ⟨k.pending.trans h.pending, fun x => k.mem (h.mem x), fun x => k.regs (h.regs x), fun x => k.staged (h.staged x), Fuses.le_trans h.fuses k.fuses,
    h.wire.trans k.wire, h.free.trans k.free⟩

/-- An update that leaves the seven parts as they are. -/
theorem Evolves.same {s t u : State} (h : Evolves s t) (e1 : u.pending = t.pending) (e2 : u.mem = t.mem) (e3 : u.regs = t.regs)
    (e4 : u.fuses = t.fuses) (e5 : u.wire = t.wire) (e6 : u.free = t.free)
    (e7 : u.staged = t.staged) : Evolves s u :=
  ⟨e1.trans h.pending, fun x => e2 ▸ h.mem x, fun x => e3 ▸ h.regs x, fun x => e7 ▸ h.staged x, e4 ▸ h.fuses, e5 ▸ h.wire, e6 ▸ h.free⟩

/-- An update that draws free values besides. -/
theorem Evolves.draw {s t u : State} (h : Evolves s t) (e1 : u.pending = t.pending) (e2 : u.mem = t.mem) (e3 : u.regs = t.regs)
    (e4 : u.fuses = t.fuses) (e5 : u.wire = t.wire) (e6 : t.free ≤ u.free)
    (e7 : u.staged = t.staged) : Evolves s u :=
  ⟨e1.trans h.pending, fun x => e2 ▸ h.mem x, fun x => e3 ▸ h.regs x, fun x => e7 ▸ h.staged x, e4 ▸ h.fuses, e5 ▸ h.wire, h.free.trans e6⟩

/-- An update of other fields, as the record it makes. -/
theorem Evolves.upd {s t : State} (h : Evolves s t)
    {blobs stagedBlobs dramErr space sram pad flash aon sys rooster ring ports ctxs pipes scans slots units acc
    rows lanes gooses lines plru wins segs mons pace ift sup net disp diale} :
    Evolves s (State.mk
      t.regs t.staged blobs stagedBlobs t.mem dramErr space sram pad t.fuses flash aon sys rooster ring ports
      ctxs pipes scans slots units acc rows lanes gooses lines plru wins segs mons pace ift sup net disp diale
      t.wire t.free t.pending) :=
  ⟨h.pending, h.mem, h.regs, h.staged, h.fuses, h.wire, h.free⟩

/-- An update that draws free values besides, as the record it makes. -/
theorem Evolves.updFree {s t : State} (h : Evolves s t)
    {blobs stagedBlobs dramErr space sram pad flash aon sys rooster ring ports ctxs pipes scans slots units acc
    rows lanes gooses lines plru wins segs mons pace ift sup net disp diale free} (e : t.free ≤ free) :
    Evolves s (State.mk
      t.regs t.staged blobs stagedBlobs t.mem dramErr space sram pad t.fuses flash aon sys rooster ring ports
      ctxs pipes scans slots units acc rows lanes gooses lines plru wins segs mons pace ift sup net disp diale
      t.wire free t.pending) :=
  ⟨h.pending, h.mem, h.regs, h.staged, h.fuses, h.wire, h.free.trans e⟩

/-- An update of the dictionary values, in force or staged, that keeps their form. -/
theorem Evolves.values {s t u : State} (h : Evolves s t) (e1 : u.pending = t.pending) (e2 : u.mem = t.mem)
    (e3 : swf dictDefault t.regs = true → swf dictDefault u.regs = true)
    (e4 : u.fuses = t.fuses) (e5 : u.wire = t.wire) (e6 : u.free = t.free)
    (e7 : sasc t.staged = true → sasc u.staged = true) : Evolves s u :=
  ⟨e1.trans h.pending, fun x => e2 ▸ h.mem x, fun x => e3 (h.regs x), fun x => e7 (h.staged x), e4 ▸ h.fuses, e5 ▸ h.wire, e6 ▸ h.free⟩

/-- An update of the fuses that only blows. -/
theorem Evolves.blows {s t u : State} (h : Evolves s t) (e1 : u.pending = t.pending) (e2 : u.mem = t.mem) (e3 : u.regs = t.regs)
    (e4 : t.fuses.le u.fuses) (e5 : u.wire = t.wire) (e6 : u.free = t.free)
    (e7 : u.staged = t.staged) : Evolves s u :=
  ⟨e1.trans h.pending, fun x => e2 ▸ h.mem x, fun x => e3 ▸ h.regs x, fun x => e7 ▸ h.staged x, Fuses.le_trans h.fuses e4, e5 ▸ h.wire, e6 ▸ h.free⟩

theorem Evolves.ofPair {α : Type} {s t : State} {p : α × State} {a : α} (e : p = (a, t)) (h : Evolves s p.2) : Evolves s t := by
  rw [e] at h; exact h

theorem Evolves.ofTriple {α β : Type} {s t : State} {p : α × β × State} {a : α} {b : β} (e : p = (a, b, t))
    (h : Evolves s p.2.2) : Evolves s t := by
  rw [e] at h; exact h

theorem Evolves.ofTail {α β : Type} {s : State} {p : α × β × State} {a : α} {c : β × State} (e : p = (a, c))
    (h : Evolves s p.2.2) : Evolves s c.2 := by
  rw [e] at h; exact h

/-- A loop. -/
theorem forEach_ev {α : Type} {l : List α} {f : α → State → State} {s0 s : State}
    (hf : ∀ a t, Evolves s0 t → Evolves s0 (f a t)) (h : Evolves s0 s) : Evolves s0 (forEach l f s) :=
  forEach_induct hf h

/-- What a step's outcome is, as far as it has a next state. -/
def EvolvesTo (s : State) : Host.Outcome State Fault Refusal → Prop
  | .next t => Evolves s t
  | .fault _ => True
  | .refused _ => True

theorem EvolvesTo.next {s t : State} (h : Evolves s t) : EvolvesTo s (.next t) := h

theorem EvolvesTo.fault {s : State} (r : Fault) : EvolvesTo s (.fault r) := trivial

end Sys2Proof.Machine
end

