-- ==== Sys2Proof/Laws/EvolvesOps.lean ====
section
/-! SUPPORT. What no operation takes back, operation by operation: `Evolves` holds of each. The operations, the fault collector and the records. -/

namespace Sys2Proof.Machine

open Sys2Proof

theorem setR_ev {s0 s : State} {k v} (h : Evolves s0 s) : Evolves s0 (s.setR k v) :=
  h.values rfl rfl (fun x => swf_sset x k v) rfl rfl rfl id

theorem bumpBy_ev {s0 s : State} {k n} (he : Evolves s0 s) : Evolves s0 (State.bumpBy s k n) := by
  unfold State.bumpBy
  repeat' with_reducible first | assumption | apply setR_ev

theorem bump_ev {s0 s : State} {k} (he : Evolves s0 s) : Evolves s0 (State.bump s k) := by
  unfold State.bump
  repeat' with_reducible first | assumption | apply bumpBy_ev

theorem setBlob_ev {s0 s : State} {k v} (he : Evolves s0 s) : Evolves s0 (State.setBlob s k v) :=
  he.same rfl rfl rfl rfl rfl rfl rfl

theorem applyStaged_ev {s0 s : State} {keys} (h : Evolves s0 s) : Evolves s0 (s.applyStaged keys) :=
  h.values rfl rfl (swf_foldl_sset _ (fun p : Nat × Nat => keys p.1 = true) _ _) rfl rfl rfl fun x => sascFrom_filter _ _ 0 x

theorem setPort_ev {s0 s : State} {k v} (he : Evolves s0 s) : Evolves s0 (State.setPort s k v) :=
  he.same rfl rfl rfl rfl rfl rfl rfl

theorem setCtx_ev {s0 s : State} {k v} (he : Evolves s0 s) : Evolves s0 (State.setCtx s k v) :=
  he.same rfl rfl rfl rfl rfl rfl rfl

theorem setPipe_ev {s0 s : State} {k v} (he : Evolves s0 s) : Evolves s0 (State.setPipe s k v) :=
  he.same rfl rfl rfl rfl rfl rfl rfl

theorem setScan_ev {s0 s : State} {k v} (he : Evolves s0 s) : Evolves s0 (State.setScan s k v) :=
  he.same rfl rfl rfl rfl rfl rfl rfl

theorem setSlot_ev {s0 s : State} {k v} (he : Evolves s0 s) : Evolves s0 (State.setSlot s k v) :=
  he.same rfl rfl rfl rfl rfl rfl rfl

theorem setUnit_ev {s0 s : State} {k v} (he : Evolves s0 s) : Evolves s0 (State.setUnit s k v) :=
  he.same rfl rfl rfl rfl rfl rfl rfl

theorem setAccE_ev {s0 s : State} {k v} (he : Evolves s0 s) : Evolves s0 (State.setAccE s k v) :=
  he.same rfl rfl rfl rfl rfl rfl rfl

theorem setRow_ev {s0 s : State} {k v} (he : Evolves s0 s) : Evolves s0 (State.setRow s k v) :=
  he.same rfl rfl rfl rfl rfl rfl rfl

theorem setLaneV_ev {s0 s : State} {k v} (he : Evolves s0 s) : Evolves s0 (State.setLaneV s k v) :=
  he.same rfl rfl rfl rfl rfl rfl rfl

theorem setGoose_ev {s0 s : State} {k v} (he : Evolves s0 s) : Evolves s0 (State.setGoose s k v) :=
  he.same rfl rfl rfl rfl rfl rfl rfl

theorem setSet_ev {s0 s : State} {k v} (he : Evolves s0 s) : Evolves s0 (State.setSet s k v) :=
  he.same rfl rfl rfl rfl rfl rfl rfl

theorem setPlruOf_ev {s0 s : State} {k v} (he : Evolves s0 s) : Evolves s0 (State.setPlruOf s k v) :=
  he.same rfl rfl rfl rfl rfl rfl rfl

theorem setWin_ev {s0 s : State} {k v} (he : Evolves s0 s) : Evolves s0 (State.setWin s k v) :=
  he.same rfl rfl rfl rfl rfl rfl rfl

theorem setMon_ev {s0 s : State} {k v} (he : Evolves s0 s) : Evolves s0 (State.setMon s k v) :=
  he.same rfl rfl rfl rfl rfl rfl rfl

theorem setDsp_ev {s0 s : State} {k v} (he : Evolves s0 s) : Evolves s0 (State.setDsp s k v) :=
  he.same rfl rfl rfl rfl rfl rfl rfl

theorem setSramErr_ev {s0 s : State} {k v} (he : Evolves s0 s) : Evolves s0 (State.setSramErr s k v) :=
  he.same rfl rfl rfl rfl rfl rfl rfl

theorem setBurstErr_ev {s0 s : State} {k v} (he : Evolves s0 s) : Evolves s0 (State.setBurstErr s k v) :=
  he.same rfl rfl rfl rfl rfl rfl rfl

theorem setMemByte_ev {s0 s : State} {a b} (h : Evolves s0 s) : Evolves s0 (s.setMemByte a b) :=
  ⟨h.pending, fun x => swf_sset (h.mem x) a b, h.regs, h.staged, h.fuses, h.wire, h.free⟩

theorem memWrite_ev {s0 s : State} {a bs} (h : Evolves s0 s) : Evolves s0 (s.memWrite a bs) :=
  ⟨h.pending, fun x => memStore_wf bs a (h.mem x), h.regs, h.staged, h.fuses, h.wire, h.free⟩

theorem setT_ev {s0 s : State} {n v} (he : Evolves s0 s) : Evolves s0 (State.setT s n v) :=
  he.same rfl rfl rfl rfl rfl rfl rfl

theorem nextFree_ev {s0 s : State} (h : Evolves s0 s) : Evolves s0 s.nextFree :=
  h.draw rfl rfl rfl rfl rfl (Nat.le_succ _) rfl

theorem emit_ev {s0 s : State} {o} (h : Evolves s0 s) : Evolves s0 (s.emit o) :=
  ⟨h.pending, h.mem, h.regs, h.staged, h.fuses, h.wire.trans (List.prefix_append _ _), h.free⟩

theorem captureSource_ev {s0 s : State} {src} (he : Evolves s0 s) : Evolves s0 (captureSource src s) := by
  unfold captureSource
  repeat' with_reducible first
    | assumption | apply setBlob_ev | apply bump_ev | refine forEach_ev (fun _ _ _ => ?_) ?_ | dsimp only | split

theorem emitLastWord_ev {s0 s : State} {x vlan b} (he : Evolves s0 s) : Evolves s0 (emitLastWord x vlan b s) := by
  unfold emitLastWord
  repeat' with_reducible first | assumption | apply emit_ev | apply bump_ev

theorem lastWordEth_ev {s0 s : State} {x b} (he : Evolves s0 s) : Evolves s0 (lastWordEth x b s) := by
  unfold lastWordEth
  repeat' with_reducible first | assumption | apply emitLastWord_ev | dsimp only | split

theorem lastWordCan_ev {s0 s : State} {x b} (he : Evolves s0 s) : Evolves s0 (lastWordCan x b s) := by
  unfold lastWordCan
  repeat' with_reducible first | assumption | apply emit_ev | apply bump_ev

theorem sendLastWord_ev {s0 s : State} (he : Evolves s0 s) : Evolves s0 (sendLastWord s) := by
  unfold sendLastWord
  repeat' with_reducible first
    | assumption | apply lastWordEth_ev | apply lastWordCan_ev | dsimp only | split
    | fail_if_no_progress (refine Evolves.upd ?_)

theorem clearWaiting_ev {s0 s : State} (he : Evolves s0 s) : Evolves s0 (clearWaiting s) := by
  unfold clearWaiting
  repeat' with_reducible first | assumption | dsimp only | fail_if_no_progress (refine Evolves.upd ?_)

theorem queueRecord_ev {s0 s : State} {rec} (he : Evolves s0 s) : Evolves s0 (queueRecord rec s) := by
  unfold queueRecord
  repeat' with_reducible first
    | assumption | apply bump_ev | dsimp only | split | fail_if_no_progress (refine Evolves.upd ?_)

theorem setCredit_ev {s0 s : State} {e q x} (he : Evolves s0 s) : Evolves s0 (setCredit e q x s) := by
  unfold setCredit
  repeat' with_reducible first | assumption | dsimp only | fail_if_no_progress (refine Evolves.upd ?_)

theorem joinQueues_ev {s0 s : State} {n} (he : Evolves s0 s) : Evolves s0 (joinQueues n s) := by
  unfold joinQueues
  repeat' with_reducible first
    | assumption | apply setCredit_ev | refine forEach_ev (fun _ _ _ => ?_) ?_ | dsimp only | split

theorem releaseStream_ev {s0 s : State} {rec} (he : Evolves s0 s) : Evolves s0 (releaseStream rec s) := by
  unfold releaseStream
  repeat' with_reducible first | assumption | apply queueRecord_ev | apply setR_ev | apply joinQueues_ev

theorem modSlot_ev {s0 s : State} {g f} (he : Evolves s0 s) : Evolves s0 (modSlot g f s) := by
  unfold modSlot
  repeat' with_reducible first | assumption | apply setSlot_ev

theorem modFrame_ev {s0 s : State} {g st f h} (he : Evolves s0 s) : Evolves s0 (modFrame g st f h s) := by
  unfold modFrame
  repeat' with_reducible first | assumption | apply modSlot_ev

theorem noteWithheld_ev {s0 s : State} {g f} (he : Evolves s0 s) : Evolves s0 (noteWithheld g f s) := by
  unfold noteWithheld
  repeat' with_reducible first | assumption | apply modSlot_ev

theorem markStation_ev {s0 s : State} {g st f b} (he : Evolves s0 s) : Evolves s0 (markStation g st f b s) := by
  unfold markStation
  repeat' with_reducible first | assumption | apply noteWithheld_ev | apply modFrame_ev

theorem closeSlot_ev {s0 s : State} {g st f} (he : Evolves s0 s) : Evolves s0 (closeSlot g st f s) := by
  unfold closeSlot
  repeat' with_reducible first | assumption | apply modFrame_ev

theorem releaseRecord_ev {s0 s : State} {g st f kind payload} (he : Evolves s0 s) :
    Evolves s0 (releaseRecord g st f kind payload s) := by
  unfold releaseRecord
  repeat' with_reducible first
    | assumption | apply bump_ev | apply modFrame_ev | apply releaseStream_ev | dsimp only | split
    | fail_if_no_progress (refine Evolves.upd ?_)

theorem flushRecords_ev {s0 s : State} {g st} (he : Evolves s0 s) : Evolves s0 (flushRecords g st s) := by
  unfold flushRecords
  repeat' with_reducible first
    | assumption | apply releaseRecord_ev | refine forEach_ev (fun _ _ _ => ?_) ?_ | dsimp only | split

theorem endTask_ev {s0 s : State} {m f} (he : Evolves s0 s) : Evolves s0 (endTask m f s) := by
  unfold endTask
  repeat' with_reducible first | assumption | apply setMon_ev

theorem voidTasks_ev {s0 s : State} {g f} (he : Evolves s0 s) : Evolves s0 (voidTasks g f s) := by
  unfold voidTasks
  repeat' with_reducible first
    | assumption | apply endTask_ev | refine forEach_ev (fun _ _ _ => ?_) ?_ | dsimp only | split

theorem abandonStation_ev {s0 s : State} {g st f} (he : Evolves s0 s) : Evolves s0 (abandonStation g st f s) := by
  unfold abandonStation
  repeat' with_reducible first
    | assumption | apply modFrame_ev | apply bump_ev | apply voidTasks_ev | apply flushRecords_ev | dsimp only | split

theorem abandonStations_ev {s0 s : State} {g f l} (he : Evolves s0 s) : Evolves s0 (abandonStations g f l s) := by
  unfold abandonStations
  repeat' with_reducible first | assumption | apply abandonStation_ev | refine forEach_ev (fun _ _ _ => ?_) ?_

theorem abandonDown_ev {s0 s : State} {g st f b} (he : Evolves s0 s) : Evolves s0 (abandonDown g st f b s) := by
  unfold abandonDown
  repeat' with_reducible first | assumption | apply abandonStations_ev | apply markStation_ev

theorem abandonGraph_ev {s0 s : State} {g} (he : Evolves s0 s) : Evolves s0 (abandonGraph g s) := by
  unfold abandonGraph
  repeat' with_reducible first
    | assumption | apply abandonStation_ev | apply modSlot_ev | refine forEach_ev (fun _ _ _ => ?_) ?_

theorem pruneFrames_ev {s0 s : State} {g} (he : Evolves s0 s) : Evolves s0 (pruneFrames g s) := by
  unfold pruneFrames
  repeat' with_reducible first | assumption | apply modSlot_ev

theorem startMonitors_ev {s0 s : State} {g f} (he : Evolves s0 s) : Evolves s0 (startMonitors g f s) := by
  unfold startMonitors
  repeat' with_reducible first | assumption | apply setMon_ev | refine forEach_ev (fun _ _ _ => ?_) ?_

theorem ringSettle_ev {s0 s : State} (he : Evolves s0 s) : Evolves s0 (ringSettle s) := by
  unfold ringSettle
  repeat' with_reducible first | assumption | apply setR_ev | dsimp only | split

theorem ringFreezeNow_ev {s0 s : State} (he : Evolves s0 s) : Evolves s0 (ringFreezeNow s) := by
  unfold ringFreezeNow
  repeat' with_reducible first | assumption | apply ringSettle_ev | apply setR_ev | dsimp only | split

theorem enterSafe_ev {s0 s : State} (he : Evolves s0 s) : Evolves s0 (enterSafe s) := by
  unfold enterSafe
  repeat' with_reducible first
    | assumption | apply captureSource_ev | apply sendLastWord_ev | apply clearWaiting_ev | apply setR_ev
    | apply bump_ev | apply ringFreezeNow_ev | dsimp only | split | fail_if_no_progress (refine Evolves.upd ?_)

theorem ensureSafe_ev {s0 s : State} (he : Evolves s0 s) : Evolves s0 (ensureSafe s) := by
  unfold ensureSafe
  repeat' with_reducible first | assumption | apply enterSafe_ev | dsimp only | split

theorem leaveSafe_ev {s0 s : State} (he : Evolves s0 s) : Evolves s0 (leaveSafe s) := by
  unfold leaveSafe
  repeat' with_reducible first
    | assumption | apply setR_ev | apply modSlot_ev | refine forEach_ev (fun _ _ _ => ?_) ?_ | dsimp only | split
    | fail_if_no_progress (refine Evolves.upd ?_)

theorem sourceBit_ev {s0 s : State} {base src} (he : Evolves s0 s) : Evolves s0 (sourceBit base src s) := by
  unfold sourceBit
  repeat' with_reducible first | assumption | apply setR_ev

theorem latchSource_ev {s0 s : State} {src} (he : Evolves s0 s) : Evolves s0 (latchSource src s) := by
  unfold latchSource
  repeat' with_reducible first | assumption | apply setR_ev | dsimp only | split

theorem informTrio_ev {s0 s : State} {c src who} (he : Evolves s0 s) : Evolves s0 (informTrio c src who s) := by
  unfold informTrio
  repeat' with_reducible first | assumption | dsimp only | split | fail_if_no_progress (refine Evolves.upd ?_)

theorem raiseCore_ev {s0 s : State} {src who} (he : Evolves s0 s) : Evolves s0 (raiseCore src who s) := by
  unfold raiseCore
  repeat' with_reducible first
    | assumption | apply sourceBit_ev | apply bump_ev | apply latchSource_ev | apply informTrio_ev
    | apply ensureSafe_ev | dsimp only | split

theorem drainUnit_ev {s0 s : State} {u} (he : Evolves s0 s) : Evolves s0 (drainUnit u s) := by
  unfold drainUnit
  repeat' with_reducible first | assumption | apply setUnit_ev

theorem drainChip_ev {s0 s : State} {cause} (he : Evolves s0 s) : Evolves s0 (drainChip cause s) := by
  unfold drainChip
  repeat' with_reducible first
    | assumption | apply setR_ev | apply raiseCore_ev | apply abandonGraph_ev | apply drainUnit_ev
    | refine forEach_ev (fun _ _ _ => ?_) ?_ | dsimp only | split | fail_if_no_progress (refine Evolves.upd ?_)

theorem closeBlockWindows_ev {s0 s : State} {b} (he : Evolves s0 s) : Evolves s0 (closeBlockWindows b s) := by
  unfold closeBlockWindows
  repeat' with_reducible first
    | assumption | apply setWin_ev | refine forEach_ev (fun _ _ _ => ?_) ?_ | dsimp only | split

theorem clearBlock_ev {s0 s : State} {b} (he : Evolves s0 s) : Evolves s0 (clearBlock b s) := by
  unfold clearBlock
  repeat' with_reducible first | assumption | dsimp only | fail_if_no_progress (refine Evolves.upd ?_)

theorem resetUnit_ev {s0 s : State} {u} (he : Evolves s0 s) : Evolves s0 (resetUnit u s) := by
  unfold resetUnit
  repeat' with_reducible first
    | assumption | apply keep_ev | apply setUnit_ev | apply closeBlockWindows_ev | apply clearBlock_ev
    | apply markStation_ev | refine forEach_ev (fun _ _ _ => ?_) ?_ | dsimp only | split
    | fail_if_no_progress (refine Evolves.upd ?_)

theorem restart_ev {s0 s : State} {u} (he : Evolves s0 s) : Evolves s0 (restart u s) := by
  unfold restart
  repeat' with_reducible first
    | assumption | apply resetUnit_ev | apply bump_ev | apply bumpBy_ev | refine forEach_ev (fun _ _ _ => ?_) ?_
    | dsimp only | split

theorem raise_ev {s0 s : State} {src who} (he : Evolves s0 s) : Evolves s0 (raise src who s) := by
  unfold raise
  repeat' with_reducible first
    | assumption | apply raiseCore_ev | apply restart_ev | apply drainChip_ev | dsimp only | split
    | fail_if_no_progress (refine Evolves.upd ?_)

theorem raiseAll_ev {s0 s : State} {l} (he : Evolves s0 s) : Evolves s0 (raiseAll l s) := by
  unfold raiseAll
  repeat' with_reducible first | assumption | apply raise_ev | refine forEach_ev (fun _ _ _ => ?_) ?_

theorem occurrence_ev {s0 s : State} {src u} (he : Evolves s0 s) : Evolves s0 (occurrence src u s) := by
  unfold occurrence
  repeat' with_reducible first
    | assumption | apply bump_ev | apply drainChip_ev | apply setR_ev | dsimp only | split
    | fail_if_no_progress (refine Evolves.upd ?_)

theorem unitFault_ev {s0 s : State} {src u who} (he : Evolves s0 s) : Evolves s0 (unitFault src u who s) := by
  unfold unitFault
  repeat' with_reducible first
    | assumption | apply restart_ev | apply raise_ev | apply occurrence_ev | dsimp only | split

theorem stallStation_ev {s0 s : State} {t} (he : Evolves s0 s) : Evolves s0 (stallStation t s) := by
  unfold stallStation
  repeat' with_reducible first
    | assumption | apply modFrame_ev | dsimp only | fail_if_no_progress (refine Evolves.upd ?_)

theorem replayOrAbandon_ev {s0 s : State} {u t cause} (he : Evolves s0 s) :
    Evolves s0 (replayOrAbandon u t cause s) := by
  unfold replayOrAbandon
  repeat' with_reducible first
    | assumption | apply stallStation_ev | apply restart_ev | apply setUnit_ev
    | refine forEach_ev (fun _ _ _ => ?_) ?_ | dsimp only | split

theorem tileCheckFault_ev {s0 s : State} {u t src} (he : Evolves s0 s) : Evolves s0 (tileCheckFault u t src s) := by
  unfold tileCheckFault
  repeat' with_reducible first | assumption | apply raise_ev | apply replayOrAbandon_ev | apply markStation_ev

theorem transferCheckFault_ev {s0 s : State} {t src} (he : Evolves s0 s) :
    Evolves s0 (transferCheckFault t src s) := by
  unfold transferCheckFault
  repeat' with_reducible first | assumption | apply raise_ev | apply markStation_ev

theorem setStatus_ev {s0 s : State} {us st} (he : Evolves s0 s) : Evolves s0 (setStatus us st s) := by
  unfold setStatus
  repeat' with_reducible first | assumption | apply setUnit_ev | refine forEach_ev (fun _ _ _ => ?_) ?_

theorem tryWithdraw_ev {s0 s : State} {u} (he : Evolves s0 s) : Evolves s0 (tryWithdraw u s) := by
  unfold tryWithdraw
  repeat' with_reducible first | assumption | apply setStatus_ev | dsimp only | split

theorem retryDue_ev {s0 s : State} (he : Evolves s0 s) : Evolves s0 (retryDue s) := by
  unfold retryDue
  repeat' with_reducible first | assumption | apply tryWithdraw_ev | refine forEach_ev (fun _ _ _ => ?_) ?_

theorem settleUnits_ev {s0 s : State} (he : Evolves s0 s) : Evolves s0 (settleUnits s) := by
  unfold settleUnits
  repeat' with_reducible first
    | assumption | apply retryDue_ev | apply tryWithdraw_ev | apply setStatus_ev
    | refine forEach_ev (fun _ _ _ => ?_) ?_ | dsimp only | split

theorem advanceBase_ev {s0 s : State} {n} (he : Evolves s0 s) : Evolves s0 (advanceBase n s) := by
  unfold advanceBase
  repeat' with_reducible first | assumption | dsimp only | split | fail_if_no_progress (refine Evolves.upd ?_)

theorem followBase_ev {s0 s : State} {n} (he : Evolves s0 s) : Evolves s0 (followBase n s) := by
  unfold followBase
  repeat' with_reducible first | assumption | apply setT_ev | dsimp only | split

theorem followAll_ev {s0 s : State} (he : Evolves s0 s) : Evolves s0 (followAll s) := by
  unfold followAll
  repeat' with_reducible first | assumption | apply followBase_ev | refine forEach_ev (fun _ _ _ => ?_) ?_

theorem tick_ev {s0 s : State} (he : Evolves s0 s) : Evolves s0 (tick s) := by
  unfold tick
  repeat' with_reducible first
    | assumption | apply followAll_ev | apply advanceBase_ev | refine forEach_ev (fun _ _ _ => ?_) ?_ | dsimp only
    | split

end Sys2Proof.Machine
end

