-- ==== Sys2Proof/Laws/EvolvesMemory.lean ====
section
/-! SUPPORT. What no operation takes back, operation by operation: `Evolves` holds of each. DRAM with its caches, the scratchpads and the tiles in them. -/

namespace Sys2Proof.Machine

open Sys2Proof

theorem countRead_ev {s0 s : State} {g cls} (he : Evolves s0 s) : Evolves s0 (countRead g cls s) := by
  unfold countRead
  repeat' with_reducible first | assumption | apply bumpBy_ev | dsimp only | split

theorem countWrite_ev {s0 s : State} {g cls} (he : Evolves s0 s) : Evolves s0 (countWrite g cls s) := by
  unfold countWrite
  repeat' with_reducible first | assumption | apply bumpBy_ev | dsimp only | split

theorem readBurst_ev {s0 s : State} {n err} (he : Evolves s0 s) : Evolves s0 (readBurst n err s).2 := by
  unfold readBurst
  repeat' with_reducible first
    | assumption | apply setBurstErr_ev | apply raise_ev | apply bump_ev | dsimp only | split

theorem writeBurst_ev {s0 s : State} {addr bytes g cls err} (he : Evolves s0 s) :
    Evolves s0 (writeBurst addr bytes g cls err s) := by
  unfold writeBurst
  repeat' with_reducible first
    | assumption | apply countWrite_ev | apply memWrite_ev | apply setBurstErr_ev
    | (refine Evolves.ofPair (by assumption) (readBurst_ev ?_)) | apply readBurst_ev | apply countRead_ev | dsimp only
    | split

theorem writeBursts_ev {s0 : State} (n : Nat) :
    ∀ {addr bytes cls} {s : State}, Evolves s0 s → Evolves s0 (writeBursts n addr bytes cls s) := by
  induction n with
  | zero => intro _ _ _ s he; exact he
  | succ n ih =>
    intro _ _ _ s he
    unfold writeBursts
    split
    · exact he
    · exact ih (writeBurst_ev he)

theorem readBursts_ev {s0 : State} {g cls} (k : Nat) :
    ∀ {n} {s : State}, Evolves s0 s → Evolves s0 (readBursts g cls k n s).2 := by
  induction k with
  | zero => intro _ s he; exact he
  | succ k ih =>
    intro _ s he
    unfold readBursts
    split
    · exact Evolves.ofPair (by assumption) (readBurst_ev (countRead_ev he))
    · exact ih (Evolves.ofPair (by assumption) (readBurst_ev (countRead_ev he)))

theorem readDram_ev {s0 s : State} {a n g cls} (he : Evolves s0 s) : Evolves s0 (readDram a n g cls s).2 := by
  unfold readDram
  repeat' with_reducible first
    | assumption | (refine Evolves.ofPair (by assumption) (readBursts_ev _ ?_)) | apply readBursts_ev

theorem looseBursts_ev {s0 : State} {cls} (k : Nat) :
    ∀ {n} {s : State}, Evolves s0 s → Evolves s0 (looseBursts cls k n s).2 := by
  induction k with
  | zero => intro _ s he; exact he
  | succ k ih => intro _ s he; exact ih ((readBurst_ev (countRead_ev he)).updFree (Nat.le_add_right _ _))

theorem readLoose_ev {s0 s : State} {a n cls} (he : Evolves s0 s) : Evolves s0 (readLoose a n cls s).2 := by
  unfold readLoose
  repeat' with_reducible first
    | assumption | (refine Evolves.ofPair (by assumption) (looseBursts_ev _ ?_)) | apply looseBursts_ev

theorem getD_ev {s0 s : State} {o : Option State} (h : ∀ t, o = some t → Evolves s0 t) (he : Evolves s0 s) :
    Evolves s0 (o.getD s) := by
  cases o with
  | none => exact he
  | some t => exact h t rfl

theorem allocate?_ev {s0 s : State} {o size} (he : Evolves s0 s) : ∀ t, allocate? o size s = some t → Evolves s0 t := by
  intro t h
  simp only [allocate?, Option.map_eq_some_iff] at h
  obtain ⟨b, _, rfl⟩ := h
  exact he.upd

theorem allocate_ev {s0 s : State} {o size} (he : Evolves s0 s) : Evolves s0 (allocate o size s) := by
  unfold allocate
  cases h : allocate? o size s with
  | none => exact he
  | some t => exact allocate?_ev he t h

theorem ensureSpace_ev {s0 s : State} {o size} (he : Evolves s0 s) : ∀ t, ensureSpace o size s = some t → Evolves s0 t := by
  intro t h
  unfold ensureSpace at h
  split at h
  · cases h; exact he
  · exact allocate?_ev he.upd t h

theorem allocateAll_ev {s0 : State} (l : List (SpaceOwner × Nat)) :
    ∀ {s : State}, Evolves s0 s → ∀ t, allocateAll l s = some t → Evolves s0 t := by
  induction l with
  | nil => intro s he t h; cases h; exact he
  | cons x l ih =>
    intro s he t h
    obtain ⟨u, hu, h⟩ := Option.bind_eq_some_iff.1 h
    exact ih (allocate?_ev he u hu) t h

theorem freeSpace_ev {s0 s : State} {f} (he : Evolves s0 s) : Evolves s0 (freeSpace f s) := by
  unfold freeSpace
  repeat' with_reducible first | assumption | dsimp only | fail_if_no_progress (refine Evolves.upd ?_)

theorem writeBack_ev {s0 s : State} {r l skip} (he : Evolves s0 s) : Evolves s0 (writeBack r l skip s) := by
  unfold writeBack
  repeat' with_reducible first
    | assumption | apply writeBurst_ev | apply bump_ev | refine forEach_ev (fun _ _ _ => ?_) ?_ | dsimp only | split

theorem allocWay_ev {s0 s : State} {r g a} (he : Evolves s0 s) : Evolves s0 (allocWay r g a s).2 := by
  unfold allocWay
  repeat' with_reducible first | assumption | apply writeBack_ev | apply setSet_ev | dsimp only | split

theorem modLine_ev {s0 s : State} {k w f} (he : Evolves s0 s) : Evolves s0 (modLine k w f s) := by
  unfold modLine
  repeat' with_reducible first | assumption | apply setSet_ev

theorem fetchSector_ev {s0 s : State} {r k w a i g} (he : Evolves s0 s) : Evolves s0 (fetchSector r k w a i g s) := by
  unfold fetchSector
  repeat' with_reducible first
    | assumption | (refine Evolves.ofPair (by assumption) (readBurst_ev ?_)) | apply readBurst_ev | apply countRead_ev
    | apply bump_ev | apply modLine_ev

theorem readSector_ev {s0 s : State} {r k w a i g err} (he : Evolves s0 s) :
    Evolves s0 (readSector r k w a i g err s) := by
  unfold readSector
  repeat' with_reducible first
    | assumption | apply fetchSector_ev | apply raise_ev | apply modLine_ev | apply bump_ev | dsimp only | split

theorem readTag_ev {s0 s : State} {r a tag} (he : Evolves s0 s) : Evolves s0 (readTag r a tag s) := by
  unfold readTag
  repeat' with_reducible first | assumption | apply raise_ev | apply modLine_ev | dsimp only | split

theorem cachedRead_ev {s0 s : State} {r g a sectors err tag} (he : Evolves s0 s) :
    Evolves s0 (cachedRead r g a sectors err tag s) := by
  unfold cachedRead
  repeat' with_reducible first
    | assumption | (refine Evolves.ofPair (by assumption) (allocWay_ev ?_)) | apply allocWay_ev | apply readTag_ev
    | apply readSector_ev | apply setPlruOf_ev | apply nextFree_ev | refine forEach_ev (fun _ _ _ => ?_) ?_

theorem uncachedRead_ev {s0 s : State} {r g a sectors} (he : Evolves s0 s) :
    Evolves s0 (uncachedRead r g a sectors s) := by
  unfold uncachedRead
  repeat' with_reducible first
    | assumption | (refine Evolves.ofPair (by assumption) (readBurst_ev ?_)) | apply readBurst_ev | apply countRead_ev
    | apply bump_ev | refine forEach_ev (fun _ _ _ => ?_) ?_

theorem muleSector_ev {s0 s : State} {r g cached n} (he : Evolves s0 s) :
    Evolves s0 (muleSector r g cached n s).2 := by
  unfold muleSector
  repeat' with_reducible first
    | assumption | apply cachedRead_ev | (refine Evolves.ofPair (by assumption) (readBurst_ev ?_))
    | apply readBurst_ev | apply countRead_ev | apply bump_ev | dsimp only | split

theorem muleSectors_ev {s0 : State} {r g cached} (k : Nat) :
    ∀ {n} {s : State}, Evolves s0 s → Evolves s0 (muleSectors r g cached k n s).2 := by
  induction k with
  | zero => intro _ s he; exact he
  | succ k ih =>
    intro _ s he
    unfold muleSectors
    split
    · exact Evolves.ofPair (by assumption) (muleSector_ev he)
    · exact ih (Evolves.ofPair (by assumption) (muleSector_ev he))

theorem muleRead_ev {s0 s : State} {r g cached a n} (he : Evolves s0 s) :
    Evolves s0 (muleRead r g cached a n s).2 := by
  unfold muleRead
  repeat' with_reducible first
    | assumption | (refine Evolves.ofPair (by assumption) (muleSectors_ev _ ?_)) | apply muleSectors_ev

theorem cacheWrite_ev {s0 s : State} {r g a b} (he : Evolves s0 s) : Evolves s0 (cacheWrite r g a b s).2.2 := by
  unfold cacheWrite
  repeat' with_reducible first
    | assumption | (refine Evolves.ofPair (by assumption) (allocWay_ev ?_)) | apply allocWay_ev | apply fetchSector_ev
    | apply modLine_ev | apply setPlruOf_ev | apply raise_ev | dsimp only | split

theorem muleWriteSector_ev {s0 s : State} {r g m a b} (he : Evolves s0 s) :
    Evolves s0 (muleWriteSector r g m a b s) := by
  unfold muleWriteSector
  repeat' with_reducible first
    | assumption | apply writeBurst_ev | (refine Evolves.ofTriple (by assumption) (cacheWrite_ev ?_))
    | apply cacheWrite_ev | apply modLine_ev | dsimp only | split

theorem muleWrite_ev {s0 : State} {r g m} (n : Nat) :
    ∀ {a b} {s : State}, Evolves s0 s → Evolves s0 (muleWrite r g m n a b s) := by
  induction n with
  | zero => intro _ _ s he; exact he
  | succ n ih =>
    intro _ _ s he
    unfold muleWrite
    split
    · exact he
    · exact ih (muleWriteSector_ev he)

theorem invalidateLine_ev {s0 s : State} {r a covered} (he : Evolves s0 s) :
    Evolves s0 (invalidateLine r a covered s) := by
  unfold invalidateLine
  repeat' with_reducible first | assumption | apply writeBack_ev | apply modLine_ev | dsimp only | split

theorem outsideWrite_ev {s0 s : State} {addr bytes cls} (he : Evolves s0 s) :
    Evolves s0 (outsideWrite addr bytes cls s) := by
  unfold outsideWrite
  repeat' with_reducible first
    | assumption | apply invalidateLine_ev | apply writeBursts_ev | refine forEach_ev (fun _ _ _ => ?_) ?_
    | dsimp only | split

theorem cleanWords_ev {s0 s : State} {k n} (he : Evolves s0 s) : Evolves s0 (cleanWords k n s) := by
  unfold cleanWords
  repeat' with_reducible first | assumption | dsimp only | fail_if_no_progress (refine Evolves.upd ?_)

theorem rewriteRow_ev {s0 s : State} {b row} (he : Evolves s0 s) : Evolves s0 (rewriteRow b row s) := by
  unfold rewriteRow
  repeat' with_reducible first | assumption | apply cleanWords_ev

theorem clearBank_ev {s0 s : State} {b k} (he : Evolves s0 s) : Evolves s0 (clearBank b k s) := by
  unfold clearBank
  repeat' with_reducible first
    | assumption | apply cleanWords_ev | dsimp only | fail_if_no_progress (refine Evolves.upd ?_)

theorem clearSegment_ev {s0 s : State} {n} (he : Evolves s0 s) : Evolves s0 (clearSegment n s) := by
  unfold clearSegment
  repeat' with_reducible first
    | assumption | apply cleanWords_ev | dsimp only | fail_if_no_progress (refine Evolves.upd ?_)

theorem powerDown_ev {s0 s : State} (he : Evolves s0 s) : Evolves s0 (powerDown s) := by
  unfold powerDown
  repeat' with_reducible first
    | assumption | apply clearBank_ev | refine forEach_ev (fun _ _ _ => ?_) ?_ | dsimp only | split

theorem writePart_ev {s0 s : State} {b a data} (he : Evolves s0 s) : Evolves s0 (writePart b a data s) := by
  unfold writePart
  repeat' with_reducible first
    | assumption | apply cleanWords_ev | apply raise_ev | dsimp only | split
    | fail_if_no_progress (refine Evolves.upd ?_)

theorem writePad_ev {s0 s : State} {b a data} (he : Evolves s0 s) : Evolves s0 (writePad b a data s) := by
  unfold writePad
  repeat' with_reducible first
    | assumption | apply writePart_ev | apply cleanWords_ev | dsimp only | split
    | fail_if_no_progress (refine Evolves.upd ?_)

theorem writeRowsOf_ev {s0 : State} (l : List (Nat × Nat)) :
    ∀ {d} {s : State}, Evolves s0 s → Evolves s0 (writeRowsOf l d s) := by
  induction l with
  | nil => intro _ s he; exact he
  | cons x l ih =>
    intro _ s he
    unfold writeRowsOf
    split
    · exact he
    · exact ih (writePad_ev he)

theorem writeHeader_ev {s0 s : State} {g p st f} (he : Evolves s0 s) : Evolves s0 (writeHeader g p st f s) := by
  unfold writeHeader
  repeat' with_reducible first | assumption | apply muleWrite_ev | dsimp only | split

theorem readHeader_ev {s0 s : State} {g st f cls} (he : Evolves s0 s) : Evolves s0 (readHeader g st f cls s).2 := by
  unfold readHeader
  repeat' with_reducible first
    | assumption | (refine Evolves.ofPair (by assumption) (readDram_ev ?_)) | apply readDram_ev | dsimp only | split

def Reader.keeps (rd : Reader) : Prop := ∀ {s0 s : State} (a n : Nat), Evolves s0 s → Evolves s0 (rd a n s).2

theorem readerOf_keeps {g p q r} : (readerOf g p q r).keeps := by
  intro s0 s a n he
  cases h : windowOf p q.number <;> simp only [readerOf, h]
  · exact muleRead_ev he
  · exact he

theorem readChunk_ev {s0 : State} {rd flips a n} {c : Nat × State} (hr : Reader.keeps rd) (he : Evolves s0 c.2) :
    Evolves s0 (readChunk rd flips a n c).2.2 := hr a n he

theorem readGroup_ev {s0 : State} {rd flips w a n} {c : Nat × State} (hr : Reader.keeps rd) (he : Evolves s0 c.2) :
    Evolves s0 (readGroup rd flips w a n c).2.2 := by
  unfold readGroup
  dsimp only
  split
  · exact Evolves.ofTail (by assumption) (readChunk_ev hr he)
  · next h1 =>
    have e1 := Evolves.ofTail h1 (readChunk_ev hr he)
    split
    · exact e1
    · split
      · next h2 =>
        split at h2
        · cases h2
        · exact Evolves.ofTail h2 (readChunk_ev hr e1)
      · next b' c2 h2 =>
        have e2 : Evolves s0 c2.2 := by
          split at h2
          · cases h2; exact e1
          · exact Evolves.ofTail h2 (readChunk_ev hr e1)
        split
        · exact e2
        · exact e2

theorem readGroups_ev {s0 : State} {rd flips q x1 x2} (hr : Reader.keeps rd) (k : Nat) :
    ∀ {i n} {c : Nat × State}, Evolves s0 c.2 → Evolves s0 (readGroups rd flips q x1 x2 k i n c).2.2 := by
  induction k with
  | zero => intro _ _ c he; exact he
  | succ k ih =>
    intro i n c he
    unfold readGroups
    split
    · exact ih (c := (_, _)) (Evolves.ofTail (by assumption) (readGroup_ev hr he))
    · next h => exact readGroup_ev hr he

theorem readRow_ev {s0 : State} {rd flips q o0 n x1 x2} {c : Nat × State} (hr : Reader.keeps rd) (he : Evolves s0 c.2) :
    Evolves s0 (readRow rd flips q o0 n x1 x2 c).2.2 := by
  unfold readRow
  split
  · exact he
  · split
    · exact readGroups_ev hr _ he
    · dsimp only
      split
      · exact Evolves.ofTail (by assumption) (readChunk_ev hr he)
      · exact Evolves.ofTail (by assumption) (readChunk_ev hr he)

theorem readScales_ev {s0 : State} {rd flips q k n x1 x2} {c : Nat × State} (hr : Reader.keeps rd) (he : Evolves s0 c.2) :
    Evolves s0 (readScales rd flips q k n x1 x2 c).2.2 := by
  unfold readScales
  split
  · exact Evolves.ofTail (by assumption) (readChunk_ev hr he)
  · exact Evolves.ofTail (by assumption) (readChunk_ev hr he)

theorem readLoop_ev {s0 : State} {f : Nat → Nat × State → Elems × Nat × State}
    (hf : ∀ k (c : Nat × State), Evolves s0 c.2 → Evolves s0 (f k c).2.2) (k : Nat) :
    ∀ {i} {c : Nat × State}, Evolves s0 c.2 → Evolves s0 (readLoop f k i c).2.2 := by
  induction k with
  | zero => intro _ c he; exact he
  | succ k ih =>
    intro i c he
    unfold readLoop
    split
    · exact ih (Evolves.ofTail (by assumption) (hf _ _ he))
    · exact hf _ _ he

theorem readTile_ev {s0 s : State} {rd flips q o e} (hr : Reader.keeps rd) (he : Evolves s0 s) :
    Evolves s0 (readTile rd flips q o e s).2.2 := by
  have h1 := readLoop_ev (c := (0, s)) (i := 0) (fun k c hc => readRow_ev (flips := flips) (q := q) (o0 := o.1) (n := e.1)
    (x1 := o.2.1 + k % max 1 e.2.1) (x2 := o.2.2 + k / max 1 e.2.1) hr hc) (e.2.1 * e.2.2) he
  unfold readTile
  dsimp only
  split
  · exact readLoop_ev (fun k c hc => readScales_ev hr hc) _ h1
  · exact h1

theorem readChecked_ev {s0 s : State} {rd g p q f j flips} (hr : Reader.keeps rd) (he : Evolves s0 s) :
    Evolves s0 (readChecked rd g p q f j flips s).2 := by
  have ht : ∀ {q o e}, Evolves s0 (readTile rd flips q o e s).2.2 := readTile_ev hr he
  unfold readChecked
  split
  · exact he
  · split
    · exact he
    · dsimp only
      split
      all_goals exact Evolves.ofTriple (by assumption) ht

theorem readWhole_ev {s0 s : State} {g p q f j r flips} (he : Evolves s0 s) :
    Evolves s0 (readWhole g p q f j r flips s).2 := readChecked_ev readerOf_keeps he

theorem dropWrite_ev {s0 s : State} {b src who} (he : Evolves s0 s) : Evolves s0 (dropWrite b src who s) := by
  unfold dropWrite
  repeat' with_reducible first | assumption | apply raise_ev | apply bump_ev

theorem windowStore_ev {s0 s : State} {b w g st a data} (he : Evolves s0 s) :
    Evolves s0 (windowStore b w g st a data s) := by
  unfold windowStore
  repeat' with_reducible first | assumption | apply dropWrite_ev | apply writePad_ev | dsimp only | split

theorem storeTile_ev {s0 s : State} {g p st f i r o e codes scales} (he : Evolves s0 s) :
    Evolves s0 (storeTile g p st f i r o e codes scales s) := by
  unfold storeTile
  repeat' with_reducible first
    | assumption | apply windowStore_ev | apply muleWrite_ev | refine forEach_ev (fun _ _ _ => ?_) ?_ | dsimp only
    | split

end Sys2Proof.Machine
end

