-- ==== Sys2Proof/Laws/EvolvesFabric.lean ====
section
/-! SUPPORT. What no operation takes back, operation by operation: `Evolves` holds of each. Graphs, the fabric, memory and the gate. -/

namespace Sys2Proof.Machine

open Sys2Proof

theorem takeClaims_ev {s0 s : State} {g p} (he : Evolves s0 s) : Evolves s0 (takeClaims g p s) := by
  unfold takeClaims
  repeat' with_reducible first
    | assumption | apply setWin_ev | apply setR_ev | refine forEach_ev (fun _ _ _ => ?_) ?_ | dsimp only | split
    | fail_if_no_progress (refine Evolves.upd ?_)

theorem armMonitors_ev {s0 s : State} {g p ms} (he : Evolves s0 s) : Evolves s0 (armMonitors g p ms s) := by
  unfold armMonitors
  repeat' with_reducible first | assumption | apply setR_ev | apply setMon_ev | refine forEach_ev (fun _ _ _ => ?_) ?_

theorem powerUp_ev {s0 s : State} {s0'} (he : Evolves s0 s) : Evolves s0 (powerUp s0' s) := by
  unfold powerUp
  repeat' with_reducible first
    | assumption | apply clearSegment_ev | refine forEach_ev (fun _ _ _ => ?_) ?_ | dsimp only | split

theorem activateGraph_ev {s0 s : State} {g} (he : Evolves s0 s) : Evolves s0 (activateGraph g s) := by
  unfold activateGraph
  repeat' with_reducible first
    | assumption | refine getD_ev (allocateAll_ev _ ?_) ?_ | apply armMonitors_ev | apply powerUp_ev
    | apply takeClaims_ev | apply setR_ev | apply settleUnits_ev | apply modSlot_ev | dsimp only | split

theorem releaseSegments_ev {s0 s : State} {g p} (he : Evolves s0 s) : Evolves s0 (releaseSegments g p s) := by
  unfold releaseSegments
  repeat' with_reducible first
    | assumption | apply keep_ev | apply powerDown_ev | dsimp only | split
    | fail_if_no_progress (refine Evolves.upd ?_)

theorem closeWindows_ev {s0 s : State} {g} (he : Evolves s0 s) : Evolves s0 (closeWindows g s) := by
  unfold closeWindows
  repeat' with_reducible first
    | assumption | apply setWin_ev | refine forEach_ev (fun _ _ _ => ?_) ?_ | dsimp only | split

theorem freeWindows_ev {s0 s : State} {g} (he : Evolves s0 s) : Evolves s0 (freeWindows g s) := by
  unfold freeWindows
  repeat' with_reducible first
    | assumption | apply setWin_ev | refine forEach_ev (fun _ _ _ => ?_) ?_ | dsimp only | split

theorem walkCaches_ev {s0 s : State} {g} (he : Evolves s0 s) : Evolves s0 (walkCaches g s) := by
  unfold walkCaches
  repeat' with_reducible first | assumption | dsimp only | split | fail_if_no_progress (refine Evolves.upd ?_)

theorem freeGraph_ev {s0 s : State} {g} (he : Evolves s0 s) : Evolves s0 (freeGraph g s) := by
  unfold freeGraph
  repeat' with_reducible first
    | assumption | apply freeSpace_ev | apply releaseSegments_ev | apply walkCaches_ev | apply freeWindows_ev
    | apply setR_ev | apply setMon_ev | apply settleUnits_ev | apply modSlot_ev
    | refine forEach_ev (fun _ _ _ => ?_) ?_ | dsimp only | split | fail_if_no_progress (refine Evolves.upd ?_)

theorem releaseRetained_ev {s0 s : State} {g} (he : Evolves s0 s) : Evolves s0 (releaseRetained g s) := by
  unfold releaseRetained
  repeat' with_reducible first
    | assumption | apply modSlot_ev | apply powerDown_ev | dsimp only | fail_if_no_progress (refine Evolves.upd ?_)

theorem clearHost_ev {s0 s : State} {g} (he : Evolves s0 s) : Evolves s0 (clearHost g s) :=
  he.values rfl rfl (fun x => swf_filter x _) rfl rfl rfl fun x => sascFrom_filter _ _ 0 x

theorem initHost_ev {s0 s : State} {g p} (he : Evolves s0 s) : Evolves s0 (initHost g p s) := by
  unfold initHost
  repeat' with_reducible first
    | assumption | apply setR_ev | apply setBlob_ev | apply clearHost_ev | refine forEach_ev (fun _ _ _ => ?_) ?_

theorem freePackage_ev {s0 s : State} {g} (he : Evolves s0 s) : Evolves s0 (freePackage g s) := by
  unfold freePackage
  repeat' with_reducible first | assumption | apply freeSpace_ev

theorem unloadGraph_ev {s0 s : State} {g} (he : Evolves s0 s) : Evolves s0 (unloadGraph g s) := by
  unfold unloadGraph
  repeat' with_reducible first
    | assumption | apply releaseRetained_ev | apply clearHost_ev | apply freePackage_ev | apply setSlot_ev
    | apply setR_ev

theorem loadPackage_ev {s0 s : State} {g image} (he : Evolves s0 s) : Evolves s0 (loadPackage g image s) := by
  unfold loadPackage
  repeat' with_reducible first
    | assumption | apply setR_ev | apply allocate_ev | apply freePackage_ev | apply releaseRetained_ev
    | apply initHost_ev | apply outsideWrite_ev | apply setSlot_ev | dsimp only | split

theorem graphCmd_ev {s0 s : State} {g cmd} (he : Evolves s0 s) : Evolves s0 (graphCmd g cmd s) := by
  unfold graphCmd
  repeat' with_reducible first
    | assumption | apply activateGraph_ev | apply freeGraph_ev | apply setR_ev | apply unloadGraph_ev | dsimp only
    | split

theorem copyWeights_ev {s0 s : State} {g p st r u} (he : Evolves s0 s) : Evolves s0 (copyWeights g p st r u s) := by
  unfold copyWeights
  refine writeRowsOf_ev _ (foldl_keeps (P := fun a : Bytes × State => Evolves s0 a.2) (fun a q h => ?_) _ he)
  split
  · exact Evolves.ofPair (by assumption) (muleRead_ev h)
  · exact Evolves.ofPair (by assumption) (muleRead_ev h)

theorem setupGraph_ev {s0 s : State} {g} (he : Evolves s0 s) : Evolves s0 (setupGraph g s) := by
  unfold setupGraph
  repeat' with_reducible first
    | assumption | apply raise_ev | apply bump_ev | apply copyWeights_ev | apply modSlot_ev
    | refine forEach_ev (fun _ _ _ => ?_) ?_ | dsimp only | split

theorem openFrame_ev {s0 s : State} {g f t0 p} (he : Evolves s0 s) : Evolves s0 (openFrame g f t0 p s) := by
  unfold openFrame
  repeat' with_reducible first
    | assumption | apply modSlot_ev | apply pruneFrames_ev | apply startMonitors_ev | apply writeHeader_ev
    | apply setR_ev | refine forEach_ev (fun _ _ _ => ?_) ?_

theorem drainedRecords_ev {s0 s : State} {g t0 p} (he : Evolves s0 s) : Evolves s0 (drainedRecords g t0 p s) := by
  unfold drainedRecords
  repeat' with_reducible first
    | assumption | apply bump_ev | apply releaseStream_ev | refine forEach_ev (fun _ _ _ => ?_) ?_ | dsimp only
    | split

theorem openWindows_ev {s0 s : State} {g} (he : Evolves s0 s) : Evolves s0 (openWindows g s) := by
  unfold openWindows
  repeat' with_reducible first
    | assumption | apply setWin_ev | refine forEach_ev (fun _ _ _ => ?_) ?_ | dsimp only | split

theorem frameTick_ev {s0 s : State} {g t0} (he : Evolves s0 s) : Evolves s0 (frameTick g t0 s) := by
  unfold frameTick
  repeat' with_reducible first
    | assumption | apply openWindows_ev | apply setR_ev | apply applyStaged_ev | apply setMon_ev
    | apply drainedRecords_ev | apply openFrame_ev | apply bump_ev | refine forEach_ev (fun _ _ _ => ?_) ?_
    | dsimp only | split

theorem execGraphSetupComplete_ev {s0 s : State} {g} (he : Evolves s0 s) :
    EvolvesTo s0 (execGraphSetupComplete g s) := by
  unfold execGraphSetupComplete
  repeat' with_reducible first
    | assumption | apply EvolvesTo.next | apply EvolvesTo.fault | apply setupGraph_ev | dsimp only | split

theorem finishDeactivation_ev {s0 s : State} {g} (he : Evolves s0 s) : Evolves s0 (finishDeactivation g s) := by
  unfold finishDeactivation
  repeat' with_reducible first
    | assumption | apply modSlot_ev | apply closeWindows_ev | apply freeGraph_ev | dsimp only | split

theorem execDeactivationComplete_ev {s0 s : State} {g} (he : Evolves s0 s) :
    EvolvesTo s0 (execDeactivationComplete g s) := by
  unfold execDeactivationComplete
  repeat' with_reducible first
    | assumption | apply EvolvesTo.next | apply EvolvesTo.fault | apply finishDeactivation_ev | dsimp only | split

theorem execWindowCloseAck_ev {s0 s : State} {b w} (he : Evolves s0 s) :
    EvolvesTo s0 (execWindowCloseAck b w s) := by
  unfold execWindowCloseAck
  repeat' with_reducible first
    | assumption | apply EvolvesTo.next | apply EvolvesTo.fault | apply setWin_ev | apply freeGraph_ev | dsimp only
    | split

theorem closeWindow_ev {s0 s : State} {u sig beat} (he : Evolves s0 s) : Evolves s0 (closeWindow u sig beat s) := by
  unfold closeWindow
  repeat' with_reducible first | assumption | apply setUnit_ev

theorem foldBeat_ev {s0 s : State} {u w} (he : Evolves s0 s) : Evolves s0 (foldBeat u w s) := by
  unfold foldBeat
  repeat' with_reducible first | assumption | apply setUnit_ev | apply closeWindow_ev | dsimp only | split

theorem closeEarly_ev {s0 s : State} {u} (he : Evolves s0 s) : Evolves s0 (closeEarly u s) := by
  unfold closeEarly
  repeat' with_reducible first | assumption | apply closeWindow_ev | apply setUnit_ev | dsimp only | split

theorem modEntries_ev {s0 s : State} {us t f} (he : Evolves s0 s) : Evolves s0 (modEntries us t f s) := by
  unfold modEntries
  repeat' with_reducible first | assumption | apply setUnit_ev | refine forEach_ev (fun _ _ _ => ?_) ?_

theorem releaseWeights_ev {s0 s : State} {b} (he : Evolves s0 s) : Evolves s0 (releaseWeights b s) := by
  unfold releaseWeights
  repeat' with_reducible first
    | assumption | apply modEntries_ev | apply setUnit_ev | refine forEach_ev (fun _ _ _ => ?_) ?_ | dsimp only
    | split

theorem releaseActs_ev {s0 s : State} {b} (he : Evolves s0 s) : Evolves s0 (releaseActs b s) := by
  unfold releaseActs
  repeat' with_reducible first
    | assumption | apply modEntries_ev | apply setUnit_ev | refine forEach_ev (fun _ _ _ => ?_) ?_ | dsimp only
    | split

theorem tokenTaken_ev {s0 s : State} {b r e isSlice} (he : Evolves s0 s) :
    Evolves s0 (tokenTaken b r e isSlice s) := by
  unfold tokenTaken
  repeat' with_reducible first | assumption | apply setUnit_ev | refine forEach_ev (fun _ _ _ => ?_) ?_

theorem rowWrite_ev {s0 s : State} {row x} (he : Evolves s0 s) : Evolves s0 (rowWrite row x s) := by
  unfold rowWrite
  repeat' with_reducible first | assumption | apply setRow_ev | apply setAccE_ev | dsimp only | split

theorem cellFaults_ev {s0 s : State} {b l} (he : Evolves s0 s) : Evolves s0 (cellFaults b l s) := by
  unfold cellFaults
  repeat' with_reducible first
    | assumption | apply raise_ev | apply unitFault_ev | refine forEach_ev (fun _ _ _ => ?_) ?_ | dsimp only | split

theorem latchLoads_ev {s0 s : State} {base n t} (he : Evolves s0 s) : Evolves s0 (latchLoads base n t s) := by
  unfold latchLoads
  repeat' with_reducible first
    | assumption | apply setRow_ev | refine forEach_ev (fun _ _ _ => ?_) ?_ | dsimp only | split

theorem chainBeat_ev {s0 s : State} {us toks flips} (he : Evolves s0 s) : Evolves s0 (chainBeat us toks flips s) := by
  unfold chainBeat
  repeat' with_reducible first
    | assumption | apply latchLoads_ev | apply rowWrite_ev | apply foldBeat_ev | apply setUnit_ev
    | apply cellFaults_ev | refine forEach_ev (fun _ _ _ => ?_) ?_

theorem zeroTile_ev {s0 s : State} {us r e} (he : Evolves s0 s) : Evolves s0 (zeroTile us r e s) := by
  unfold zeroTile
  repeat' with_reducible first
    | assumption | apply setAccE_ev | apply tokenTaken_ev | refine forEach_ev (fun _ _ _ => ?_) ?_ | dsimp only
    | split

theorem advance_ev {s0 s : State} {us tok flips} (he : Evolves s0 s) : Evolves s0 (advance us tok flips s) := by
  unfold advance
  repeat' with_reducible first | assumption | apply chainBeat_ev

theorem accumulateBeat_ev {s0 s : State} {b flips} (he : Evolves s0 s) : Evolves s0 (accumulateBeat b flips s) := by
  unfold accumulateBeat
  repeat' with_reducible first
    | assumption | apply releaseActs_ev | apply releaseWeights_ev | apply advance_ev | apply zeroTile_ev
    | apply tokenTaken_ev | dsimp only | split

theorem sliceBeat_ev {s0 s : State} {b flips} (he : Evolves s0 s) : Evolves s0 (sliceBeat b flips s) := by
  unfold sliceBeat
  repeat' with_reducible first | assumption | apply cellFaults_ev

theorem execAccumulate_ev {s0 s : State} {b flips} (he : Evolves s0 s) : EvolvesTo s0 (execAccumulate b flips s) := by
  unfold execAccumulate
  repeat' with_reducible first
    | assumption | apply EvolvesTo.next | apply EvolvesTo.fault | apply sliceBeat_ev | apply accumulateBeat_ev
    | dsimp only | split

theorem drainQuarter_ev {s0 s : State} {b row entry} (he : Evolves s0 s) :
    Evolves s0 (drainQuarter b row entry s) := by
  unfold drainQuarter
  repeat' with_reducible first
    | assumption | apply cellFaults_ev | apply setUnit_ev | apply setAccE_ev | apply closeEarly_ev | dsimp only
    | split

theorem execAccumulatorDrain_ev {s0 s : State} {b row entry} (he : Evolves s0 s) :
    EvolvesTo s0 (execAccumulatorDrain b row entry s) := by
  unfold execAccumulatorDrain
  repeat' with_reducible first | assumption | apply EvolvesTo.next | apply EvolvesTo.fault | apply drainQuarter_ev

theorem execVectorLaneOperation_ev {s0 s : State} {v op int fmt a b c flips} (he : Evolves s0 s) :
    EvolvesTo s0 (execVectorLaneOperation v op int fmt a b c flips s) := by
  unfold execVectorLaneOperation
  repeat' with_reducible first
    | assumption | apply EvolvesTo.next | apply EvolvesTo.fault | apply foldBeat_ev | apply setLaneV_ev | dsimp only
    | split

theorem completeTask_ev {s0 s : State} {m f start} (he : Evolves s0 s) : Evolves s0 (completeTask m f start s) := by
  unfold completeTask
  repeat' with_reducible first
    | assumption | apply setR_ev | apply setMon_ev | apply raise_ev | apply markStation_ev | apply bump_ev
    | refine forEach_ev (fun _ _ _ => ?_) ?_ | dsimp only | split

theorem completeTasks_ev {s0 s : State} {g f} (he : Evolves s0 s) : Evolves s0 (completeTasks g f s) := by
  unfold completeTasks
  repeat' with_reducible first
    | assumption | apply endTask_ev | apply completeTask_ev | refine forEach_ev (fun _ _ _ => ?_) ?_ | dsimp only
    | split

theorem freeOutBufs_ev {s0 s : State} (he : Evolves s0 s) : Evolves s0 (freeOutBufs s) := by
  unfold freeOutBufs
  repeat' with_reducible first | assumption | dsimp only | split | fail_if_no_progress (refine Evolves.upd ?_)

theorem finishStation_ev {s0 s : State} {g p st f} (he : Evolves s0 s) : Evolves s0 (finishStation g p st f s) := by
  unfold finishStation
  repeat' with_reducible first
    | assumption | apply modFrame_ev | apply markStation_ev | apply freeOutBufs_ev | apply completeTasks_ev
    | apply writeHeader_ev | dsimp only | split

theorem admitHeld_ev {s0 : State} {g p st f} (n : Nat) :
    ∀ {s : State}, Evolves s0 s → Evolves s0 (admitHeld g p st f n s) := by
  induction n with
  | zero => intro s he; exact he
  | succ n ih =>
    intro s he
    unfold admitHeld
    repeat' with_reducible first | assumption | apply ih | apply modFrame_ev | split

theorem settleSource_ev {s0 s : State} {g p st f} (he : Evolves s0 s) : Evolves s0 (settleSource g p st f s) := by
  unfold settleSource
  repeat' with_reducible first
    | assumption | apply admitHeld_ev | apply completeTasks_ev | apply noteWithheld_ev | apply modFrame_ev
    | dsimp only | split

theorem resumeProducers_ev {s0 s : State} {g p st} (he : Evolves s0 s) : Evolves s0 (resumeProducers g p st s) := by
  unfold resumeProducers
  repeat' with_reducible first
    | assumption | apply settleSource_ev | apply finishStation_ev | refine forEach_ev (fun _ _ _ => ?_) ?_
    | dsimp only | split

theorem skipTiles_ev {s0 s : State} {g p st x} (he : Evolves s0 s) : Evolves s0 (skipTiles g p st x s) := by
  unfold skipTiles
  repeat' with_reducible first | assumption | apply modFrame_ev | apply bumpBy_ev | dsimp only | split

theorem handOut_ev {s0 s : State} {g p st x us} (he : Evolves s0 s) : Evolves s0 (handOut g p st x us s) := by
  unfold handOut
  repeat' with_reducible first
    | assumption | apply modFrame_ev | apply setUnit_ev | refine forEach_ev (fun _ _ _ => ?_) ?_

theorem inputHeaders_ev {s0 : State} {g p st f} (l : List Nat) :
    ∀ {s : State}, Evolves s0 s → Evolves s0 (inputHeaders g p st f l s).2 := by
  induction l with
  | nil => intro s he; exact he
  | cons n l ih =>
    intro s he
    unfold inputHeaders
    split
    · exact ih he
    · split
      · exact Evolves.ofPair (by assumption) (readHeader_ev he)
      · exact ih (Evolves.ofPair (by assumption) (readHeader_ev he))

theorem headerStall_ev {s0 s : State} {g st f who} (he : Evolves s0 s) : Evolves s0 (headerStall g st f who s) := by
  unfold headerStall
  repeat' with_reducible first
    | assumption | apply modFrame_ev | apply raise_ev | apply markStation_ev | dsimp only | split

theorem serveFetch_ev {s0 : State} {g p st us} (l : List StFrame) :
    ∀ {s : State}, Evolves s0 s → Evolves s0 (serveFetch g p st us l s) := by
  induction l with
  | nil => intro s he; exact he
  | cons x t ih =>
    intro s he
    have hh := inputHeaders_ev (g := g) (p := p) (st := st) (f := x.frame) [0, 1, 2, 3] he
    unfold serveFetch
    repeat' with_reducible first
      | assumption | apply ih | apply skipTiles_ev | apply finishStation_ev | apply handOut_ev | apply headerStall_ev
      | dsimp only | split

theorem execTileFetch_ev {s0 s : State} {u g station} (he : Evolves s0 s) :
    EvolvesTo s0 (execTileFetch u g station s) := by
  unfold execTileFetch
  repeat' with_reducible first
    | assumption | apply EvolvesTo.next | apply EvolvesTo.fault | apply serveFetch_ev | dsimp only | split

theorem modBuf_ev {s0 s : State} {us t f} (he : Evolves s0 s) : Evolves s0 (modBuf us t f s) := by
  unfold modBuf
  repeat' with_reducible first | assumption | apply setUnit_ev | refine forEach_ev (fun _ _ _ => ?_) ?_

theorem readPositions_ev {s0 : State} {rd q len} (hr : Reader.keeps rd) (l : List (Nat × Nat)) :
    ∀ {s : State}, Evolves s0 s → Evolves s0 (readPositions rd q len l s).2 := by
  induction l with
  | nil => intro s he; exact he
  | cons x l ih =>
    intro s he
    have h1 : Evolves s0 (readRow rd [] q 0 len x.1 x.2 (0, s)).2.2 := readRow_ev hr he
    have h2 : Evolves s0 (if q.fmt.scaled then readScales rd [] q 0 (ceilDiv len 32) x.1 x.2 (readRow rd [] q 0 len x.1 x.2 (0, s)).2
        else (.codes [], (readRow rd [] q 0 len x.1 x.2 (0, s)).2)).2.2 := by
      split
      · exact readScales_ev hr h1
      · exact h1
    unfold readPositions
    dsimp only
    split
    · exact ih h2
    · exact h2
    · exact h2
    · exact h2

theorem expandRows_ev {s0 s : State} {g p q r z f region lo hi pos} (he : Evolves s0 s) :
    Evolves s0 (expandRows g p q r z f region lo hi pos s).2 := by
  unfold expandRows
  repeat' with_reducible first
    | apply readerOf_keeps | assumption | apply readPositions_ev | dsimp only | split

theorem readHeaders_ev {s0 : State} {g f} (l : List Nat) :
    ∀ {s : State}, Evolves s0 s → Evolves s0 (readHeaders g f l s).2 := by
  induction l with
  | nil => intro s he; exact he
  | cons n l ih =>
    intro s he
    unfold readHeaders
    split
    · exact Evolves.ofPair (by assumption) (readHeader_ev he)
    · exact ih (Evolves.ofPair (by assumption) (readHeader_ev he))

theorem operandFault_ev {s0 s : State} {u t who} (he : Evolves s0 s) : Evolves s0 (operandFault u t who s) := by
  unfold operandFault
  repeat' with_reducible first | assumption | apply tileCheckFault_ev | apply replayOrAbandon_ev | dsimp only | split

theorem execExpandTile_ev {s0 s : State} {m u t flips} (he : Evolves s0 s) :
    EvolvesTo s0 (execExpandTile m u t flips s) := by
  unfold execExpandTile
  repeat' with_reducible first
    | assumption | apply EvolvesTo.next | apply EvolvesTo.fault
    | (refine Evolves.ofPair (by assumption) (readHeaders_ev _ ?_)) | apply readHeaders_ev | apply operandFault_ev
    | (refine Evolves.ofPair (by assumption) (expandRows_ev ?_)) | apply expandRows_ev | apply modBuf_ev | dsimp only
    | split

theorem fetchSource_ev {s0 s : State} {u t n j flips p st} (he : Evolves s0 s) :
    Evolves s0 (fetchSource u t n j flips p st s) := by
  unfold fetchSource
  repeat' with_reducible first
    | assumption | (refine Evolves.ofPair (by assumption) (readHeader_ev ?_)) | apply readHeader_ev
    | apply operandFault_ev | (refine Evolves.ofPair (by assumption) (readWhole_ev ?_)) | apply readWhole_ev
    | apply modBuf_ev | refine forEach_ev (fun _ _ _ => ?_) ?_ | dsimp only | split

theorem readConstants_ev {s0 : State} {g region} (l : List (Nat × Nat)) :
    ∀ {s : State}, Evolves s0 s → Evolves s0 (readConstants g region l s).2 := by
  induction l with
  | nil => intro s he; exact he
  | cons x l ih =>
    intro s he
    unfold readConstants
    split
    · exact Evolves.ofPair (by assumption) (muleRead_ev he)
    · exact ih (Evolves.ofPair (by assumption) (muleRead_ev he))

theorem fetchWeights_ev {s0 s : State} {u t p st} (he : Evolves s0 s) : Evolves s0 (fetchWeights u t p st s) := by
  unfold fetchWeights
  repeat' with_reducible first
    | assumption | (refine Evolves.ofPair (by assumption) (readConstants_ev _ ?_)) | apply readConstants_ev
    | apply operandFault_ev | apply modBuf_ev | dsimp only | split

theorem readAllTiles_ev {s0 : State} {g p q f region} (l : List Nat) :
    ∀ {flips} {s : State}, Evolves s0 s → Evolves s0 (readAllTiles g p q f region flips l s).2 := by
  induction l with
  | nil => intro _ s he; exact he
  | cons x l ih =>
    intro _ s he
    unfold readAllTiles
    split
    · exact ih (Evolves.ofPair (by assumption) (readWhole_ev he))
    · exact Evolves.ofPair (by assumption) (readWhole_ev he)
    · exact Evolves.ofPair (by assumption) (readWhole_ev he)
    · exact ih (Evolves.ofPair (by assumption) (readWhole_ev he))

theorem frameOperand_ev {s0 s : State} {u t flips p st q} (he : Evolves s0 s) :
    Evolves s0 (frameOperand u t flips p st q s).2 := by
  unfold frameOperand
  repeat' with_reducible first
    | assumption | (refine Evolves.ofPair (by assumption) (expandRows_ev ?_)) | apply expandRows_ev
    | (refine Evolves.ofPair (by assumption) (readAllTiles_ev _ ?_)) | apply readAllTiles_ev | dsimp only | split

theorem fetchResident_ev {s0 s : State} {u t flips p st} (he : Evolves s0 s) :
    Evolves s0 (fetchResident u t flips p st s) := by
  unfold fetchResident
  repeat' with_reducible first
    | assumption | (refine Evolves.ofPair (by assumption) (readHeaders_ev _ ?_)) | apply readHeaders_ev
    | apply operandFault_ev | (refine Evolves.ofPair (by assumption) (frameOperand_ev ?_)) | apply frameOperand_ev
    | apply writeRowsOf_ev | apply setUnit_ev | dsimp only | split

theorem copyTile_ev {s0 s : State} {m t flips p st} (he : Evolves s0 s) : Evolves s0 (copyTile m t flips p st s) := by
  unfold copyTile
  repeat' with_reducible first
    | assumption | (refine Evolves.ofPair (by assumption) (readHeader_ev ?_)) | apply readHeader_ev
    | apply transferCheckFault_ev | (refine Evolves.ofPair (by assumption) (readWhole_ev ?_)) | apply readWhole_ev
    | dsimp only | split

theorem execMuleTransfer_ev {s0 s : State} {m t move flips} (he : Evolves s0 s) :
    EvolvesTo s0 (execMuleTransfer m t move flips s) := by
  unfold execMuleTransfer
  repeat' with_reducible first
    | assumption | apply EvolvesTo.next | apply EvolvesTo.fault | apply fetchSource_ev | apply fetchWeights_ev
    | apply fetchResident_ev | apply copyTile_ev | dsimp only | split

theorem gooseSample_ev {s0 s : State} {st t b} (he : Evolves s0 s) : Evolves s0 (gooseSample st t b s) := by
  unfold gooseSample
  repeat' with_reducible first
    | assumption | apply setGoose_ev | apply setUnit_ev | apply nextFree_ev | dsimp only | split

theorem releaseTile_ev {s0 s : State} {t u} (he : Evolves s0 s) : Evolves s0 (releaseTile t u s) := by
  unfold releaseTile
  repeat' with_reducible first | assumption | apply setUnit_ev

theorem announceTile_ev {s0 s : State} {p st t r replay data} (he : Evolves s0 s) :
    Evolves s0 (announceTile p st t r replay data s) := by
  unfold announceTile
  repeat' with_reducible first | assumption | apply modFrame_ev | apply storeTile_ev

theorem runVecTile_ev {s0 s : State} {u t p st} (he : Evolves s0 s) : Evolves s0 (runVecTile u t p st s) := by
  unfold runVecTile
  repeat' with_reducible first | assumption | apply closeEarly_ev | apply modEntries_ev | dsimp only | split

theorem completeTile_ev {s0 s : State} {u t p st} (he : Evolves s0 s) : Evolves s0 (completeTile u t p st s) := by
  unfold completeTile
  repeat' with_reducible first
    | assumption | apply runVecTile_ev | apply releaseTile_ev | apply announceTile_ev | apply gooseSample_ev
    | apply resumeProducers_ev | apply finishStation_ev | refine forEach_ev (fun _ _ _ => ?_) ?_ | dsimp only | split
    | fail_if_no_progress (refine Evolves.upd ?_)
    | fail_if_no_progress (refine Evolves.updFree ?_ (Nat.le_add_right _ _))

theorem execTileComplete_ev {s0 s : State} {u t} (he : Evolves s0 s) : EvolvesTo s0 (execTileComplete u t s) := by
  unfold execTileComplete
  repeat' with_reducible first
    | assumption | apply EvolvesTo.next | apply EvolvesTo.fault | apply completeTile_ev | apply tryWithdraw_ev
    | refine forEach_ev (fun _ _ _ => ?_) ?_ | dsimp only | split

theorem verified_ev {s0 s : State} {p st q t j x} (he : Evolves s0 s) : Evolves s0 (verified p st q t j x s) := by
  unfold verified
  repeat' with_reducible first
    | assumption | apply resumeProducers_ev | apply finishStation_ev | apply modFrame_ev | apply transferCheckFault_ev
    | dsimp only | split

theorem execVerificationTile_ev {s0 s : State} {m t flips} (he : Evolves s0 s) :
    EvolvesTo s0 (execVerificationTile m t flips s) := by
  unfold execVerificationTile
  repeat' with_reducible first
    | assumption | apply EvolvesTo.next | apply EvolvesTo.fault
    | (refine Evolves.ofPair (by assumption) (readHeader_ev ?_)) | apply readHeader_ev | apply headerStall_ev
    | apply skipTiles_ev | apply finishStation_ev | (refine Evolves.ofPair (by assumption) (readWhole_ev ?_))
    | apply readWhole_ev | apply verified_ev | dsimp only | split

theorem discardCovered_ev {s0 s : State} {v} (he : Evolves s0 s) : Evolves s0 (discardCovered v s) := by
  unfold discardCovered
  repeat' with_reducible first | assumption | apply releaseTile_ev | refine forEach_ev (fun _ _ _ => ?_) ?_

theorem windowEqual_ev {s0 s : State} {a b w} (he : Evolves s0 s) : Evolves s0 (windowEqual a b w s) := by
  unfold windowEqual
  repeat' with_reducible first | assumption | apply setUnit_ev | apply discardCovered_ev

theorem pairMismatch_ev {s0 s : State} {a b w} (he : Evolves s0 s) : Evolves s0 (pairMismatch a b w s) := by
  unfold pairMismatch
  repeat' with_reducible first
    | assumption | apply markStation_ev | apply raise_ev | apply restart_ev | apply occurrence_ev
    | refine forEach_ev (fun _ _ _ => ?_) ?_

theorem execPairCompare_ev {s0 s : State} {u} (he : Evolves s0 s) : EvolvesTo s0 (execPairCompare u s) := by
  unfold execPairCompare
  repeat' with_reducible first
    | assumption | apply EvolvesTo.next | apply EvolvesTo.fault | apply windowEqual_ev | apply pairMismatch_ev
    | dsimp only | split

theorem reopenWindows_ev {s0 s : State} {b} (he : Evolves s0 s) : Evolves s0 (reopenWindows b s) := by
  unfold reopenWindows
  repeat' with_reducible first
    | assumption | apply setWin_ev | refine forEach_ev (fun _ _ _ => ?_) ?_ | dsimp only | split

theorem execBlockResetComplete_ev {s0 s : State} {u} (he : Evolves s0 s) :
    EvolvesTo s0 (execBlockResetComplete u s) := by
  unfold execBlockResetComplete
  repeat' with_reducible first
    | assumption | apply EvolvesTo.next | apply EvolvesTo.fault | apply setUnit_ev | apply tryWithdraw_ev
    | apply reopenWindows_ev | dsimp only | split

theorem execGooseCompare_ev {s0 s : State} {r recomputed} (he : Evolves s0 s) :
    EvolvesTo s0 (execGooseCompare r recomputed s) := by
  unfold execGooseCompare
  repeat' with_reducible first
    | assumption | apply EvolvesTo.next | apply EvolvesTo.fault | apply setGoose_ev | apply bump_ev | apply raise_ev
    | apply markStation_ev | apply occurrence_ev | dsimp only | split

theorem rollbackPair_ev {s0 s : State} {p} (he : Evolves s0 s) : Evolves s0 (rollbackPair p s) := by
  unfold rollbackPair
  repeat' with_reducible first | assumption | apply bump_ev | dsimp only | fail_if_no_progress (refine Evolves.upd ?_)

theorem execCtrlWindowCompare_ev {s0 s : State} {p sigA sigB stores} (he : Evolves s0 s) :
    EvolvesTo s0 (execCtrlWindowCompare p sigA sigB stores s) := by
  unfold execCtrlWindowCompare
  repeat' with_reducible first
    | assumption | apply EvolvesTo.next | apply EvolvesTo.fault | apply occurrence_ev | apply raise_ev
    | apply rollbackPair_ev | dsimp only | split | fail_if_no_progress (refine Evolves.upd ?_)

theorem handover_ev {s0 s : State} (he : Evolves s0 s) : Evolves s0 (handover s) := by
  unfold handover
  repeat' with_reducible first
    | assumption | apply raise_ev | apply setR_ev | apply drainChip_ev | dsimp only | split
    | fail_if_no_progress (refine Evolves.upd ?_)

theorem dissent_ev {s0 s : State} {core} (he : Evolves s0 s) : Evolves s0 (dissent core s) := by
  unfold dissent
  repeat' with_reducible first
    | assumption | apply raise_ev | apply bump_ev | apply handover_ev | dsimp only | split
    | fail_if_no_progress (refine Evolves.upd ?_)

theorem issueTransaction_ev {s0 s : State} {t} (he : Evolves s0 s) : Evolves s0 (issueTransaction t s) := by
  unfold issueTransaction
  repeat' with_reducible first | assumption | fail_if_no_progress (refine Evolves.upd ?_)

theorem awaitCore_ev {s0 s : State} {core agreed due} (he : Evolves s0 s) : Evolves s0 (awaitCore core agreed due s) := by
  unfold awaitCore
  repeat' with_reducible first | assumption | dsimp only | split | fail_if_no_progress (refine Evolves.upd ?_)

theorem voteOn_ev {s0 s : State} {t} (he : Evolves s0 s) : Evolves s0 (voteOn t s) := by
  unfold voteOn
  repeat' with_reducible first
    | assumption | apply awaitCore_ev | apply issueTransaction_ev | apply handover_ev | apply dissent_ev | dsimp only
    | split

theorem execVote_ev {s0 s : State} {t0 t1 t2 circuitsDiffer} (he : Evolves s0 s) :
    EvolvesTo s0 (execVote t0 t1 t2 circuitsDiffer s) := by
  unfold execVote
  repeat' with_reducible first
    | assumption | apply EvolvesTo.next | apply EvolvesTo.fault | apply handover_ev | apply raise_ev | apply voteOn_ev
    | dsimp only | split

theorem execDissentTimeout_ev {s0 s : State} {core} (he : Evolves s0 s) :
    EvolvesTo s0 (execDissentTimeout core s) := by
  unfold execDissentTimeout
  repeat' with_reducible first
    | assumption | apply EvolvesTo.next | apply EvolvesTo.fault | apply dissent_ev | apply handover_ev | dsimp only
    | split | fail_if_no_progress (refine Evolves.upd ?_)

theorem execResyncComplete_ev {s0 s : State} (he : Evolves s0 s) : EvolvesTo s0 (execResyncComplete s) := by
  unfold execResyncComplete
  repeat' with_reducible first
    | assumption | apply EvolvesTo.next | apply EvolvesTo.fault | apply bump_ev | dsimp only | split
    | fail_if_no_progress (refine Evolves.upd ?_)

theorem execSuspectTimerExpiry_ev {s0 s : State} {u} (he : Evolves s0 s) :
    EvolvesTo s0 (execSuspectTimerExpiry u s) := by
  unfold execSuspectTimerExpiry
  repeat' with_reducible first
    | assumption | apply EvolvesTo.next | apply EvolvesTo.fault | dsimp only | split
    | fail_if_no_progress (refine Evolves.upd ?_)

theorem replayCurrent_ev {s0 s : State} {u cause} (he : Evolves s0 s) : Evolves s0 (replayCurrent u cause s) := by
  unfold replayCurrent
  repeat' with_reducible first | assumption | apply replayOrAbandon_ev | dsimp only | split

theorem execDramRead_ev {s0 s : State} {addr g cls unit err} (he : Evolves s0 s) :
    EvolvesTo s0 (execDramRead addr g cls unit err s) := by
  unfold execDramRead
  repeat' with_reducible first
    | assumption | apply EvolvesTo.next | apply EvolvesTo.fault
    | (refine Evolves.ofPair (by assumption) (readBurst_ev ?_)) | apply readBurst_ev | apply countRead_ev
    | apply replayCurrent_ev | dsimp only | split

theorem execDramPartialWrite_ev {s0 s : State} {addr bytes g cls err} (he : Evolves s0 s) :
    EvolvesTo s0 (execDramPartialWrite addr bytes g cls err s) := by
  unfold execDramPartialWrite
  repeat' with_reducible first
    | assumption | apply EvolvesTo.next | apply EvolvesTo.fault | apply writeBurst_ev | dsimp only | split

theorem execDramWriteInvalidate_ev {s0 s : State} {addr bytes cls} (he : Evolves s0 s) :
    EvolvesTo s0 (execDramWriteInvalidate addr bytes cls s) := by
  unfold execDramWriteInvalidate
  repeat' with_reducible first
    | assumption | apply EvolvesTo.next | apply EvolvesTo.fault | apply outsideWrite_ev | dsimp only | split

theorem execDramScrub_ev {s0 s : State} {burst err} (he : Evolves s0 s) :
    EvolvesTo s0 (execDramScrub burst err s) := by
  unfold execDramScrub
  repeat' with_reducible first
    | assumption | apply EvolvesTo.next | apply EvolvesTo.fault
    | (refine Evolves.ofPair (by assumption) (readBurst_ev ?_)) | apply readBurst_ev | apply countRead_ev
    | apply setBurstErr_ev | dsimp only | split

theorem execDramRefresh_ev {s0 s : State} {_channel _bank} (he : Evolves s0 s) :
    EvolvesTo s0 (execDramRefresh _channel _bank s) := by
  unfold execDramRefresh
  repeat' with_reducible first | assumption | apply EvolvesTo.next

theorem execRegionCacheRead_ev {s0 s : State} {r g addr sectors unit err tag} (he : Evolves s0 s) :
    EvolvesTo s0 (execRegionCacheRead r g addr sectors unit err tag s) := by
  unfold execRegionCacheRead
  repeat' with_reducible first
    | assumption | apply EvolvesTo.next | apply EvolvesTo.fault | apply cachedRead_ev | apply uncachedRead_ev
    | apply replayCurrent_ev | dsimp only | split

theorem execScratchpadRead_ev {s0 s : State} {b row word use err} (he : Evolves s0 s) :
    EvolvesTo s0 (execScratchpadRead b row word use err s) := by
  unfold execScratchpadRead
  repeat' with_reducible first
    | assumption | apply EvolvesTo.next | apply EvolvesTo.fault | apply nextFree_ev | apply raise_ev
    | apply setSramErr_ev | apply replayCurrent_ev | apply rewriteRow_ev | dsimp only | split

theorem execWindowWrite_ev {s0 s : State} {b w g station place data} (he : Evolves s0 s) :
    EvolvesTo s0 (execWindowWrite b w g station place data s) := by
  unfold execWindowWrite
  repeat' with_reducible first
    | assumption | apply EvolvesTo.next | apply EvolvesTo.fault | apply dropWrite_ev | apply windowStore_ev
    | dsimp only | split

theorem execHandshakeStall_ev {s0 s : State} {p waited} (he : Evolves s0 s) :
    EvolvesTo s0 (execHandshakeStall p waited s) := by
  unfold execHandshakeStall
  repeat' with_reducible first
    | assumption | apply EvolvesTo.next | apply EvolvesTo.fault | apply raise_ev | dsimp only | split

theorem execPaceGateWindow_ev {s0 s : State} {m beats} (he : Evolves s0 s) :
    EvolvesTo s0 (execPaceGateWindow m beats s) := by
  unfold execPaceGateWindow
  repeat' with_reducible first
    | assumption | apply EvolvesTo.next | apply EvolvesTo.fault | apply setR_ev | apply bump_ev | dsimp only | split
    | fail_if_no_progress (refine Evolves.upd ?_)

theorem overrun_ev {s0 s : State} {m f} (he : Evolves s0 s) : Evolves s0 (overrun m f s) := by
  unfold overrun
  repeat' with_reducible first
    | assumption | apply markStation_ev | apply raise_ev | apply bump_ev | apply abandonStations_ev
    | apply freeOutBufs_ev | apply endTask_ev | refine forEach_ev (fun _ _ _ => ?_) ?_

theorem execTaskBudgetExpiry_ev {s0 s : State} {m frame} (he : Evolves s0 s) :
    EvolvesTo s0 (execTaskBudgetExpiry m frame s) := by
  unfold execTaskBudgetExpiry
  repeat' with_reducible first
    | assumption | apply EvolvesTo.next | apply EvolvesTo.fault | apply endTask_ev | apply completeTask_ev
    | apply overrun_ev | dsimp only | split

theorem execTaskAliveExpiry_ev {s0 s : State} {m} (he : Evolves s0 s) : EvolvesTo s0 (execTaskAliveExpiry m s) := by
  unfold execTaskAliveExpiry
  repeat' with_reducible first
    | assumption | apply EvolvesTo.next | apply EvolvesTo.fault | apply raise_ev | apply setMon_ev | apply bump_ev
    | dsimp only | split

theorem gateTiles_ev {s0 : State} {g p q f} (l : List Nat) :
    ∀ {s : State}, Evolves s0 s → Evolves s0 (gateTiles g p q f l s).2 := by
  induction l with
  | nil => intro s he; exact he
  | cons x l ih =>
    intro s he
    have hr := readChecked_ev (g := g) (p := p) (q := q) (f := f) (j := x) (flips := [])
      (rd := fun a n s => readDram a n (some g) 1 s) (fun _ _ h => readDram_ev h) he
    unfold gateTiles
    split
    · exact ih (Evolves.ofPair (by assumption) hr)
    · exact Evolves.ofPair (by assumption) hr
    · exact Evolves.ofPair (by assumption) hr
    · exact ih (Evolves.ofPair (by assumption) hr)

theorem recordPayload_ev {s0 s : State} {g st f} (he : Evolves s0 s) : Evolves s0 (recordPayload g st f s).2 := by
  unfold recordPayload
  repeat' with_reducible first
    | assumption | (refine Evolves.ofPair (by assumption) (readHeader_ev ?_)) | apply readHeader_ev
    | (refine Evolves.ofPair (by assumption) (gateTiles_ev _ ?_)) | apply gateTiles_ev | dsimp only | split

theorem releaseWhole_ev {s0 s : State} {g st f} (he : Evolves s0 s) : Evolves s0 (releaseWhole g st f s) := by
  unfold releaseWhole
  repeat' with_reducible first
    | assumption | (refine Evolves.ofPair (by assumption) (recordPayload_ev ?_)) | apply recordPayload_ev
    | apply flushRecords_ev | apply releaseRecord_ev | apply nextFree_ev | apply headerStall_ev | apply modFrame_ev
    | apply raise_ev | apply markStation_ev | dsimp only | split

theorem handRecord_ev {s0 s : State} {g st f} (he : Evolves s0 s) : Evolves s0 (handRecord g st f s) := by
  unfold handRecord
  repeat' with_reducible first | assumption | apply freeOutBufs_ev | apply completeTasks_ev | apply modFrame_ev

theorem execGateRelease_ev {s0 s : State} {g station frame} (he : Evolves s0 s) :
    EvolvesTo s0 (execGateRelease g station frame s) := by
  unfold execGateRelease
  repeat' with_reducible first
    | assumption | apply EvolvesTo.next | apply EvolvesTo.fault | apply handRecord_ev | apply releaseWhole_ev
    | dsimp only | split

theorem execGateWithholdTimeout_ev {s0 s : State} {g station frame} (he : Evolves s0 s) :
    EvolvesTo s0 (execGateWithholdTimeout g station frame s) := by
  unfold execGateWithholdTimeout
  repeat' with_reducible first
    | assumption | apply EvolvesTo.next | apply EvolvesTo.fault | apply releaseWhole_ev | apply freeOutBufs_ev
    | apply abandonStation_ev | dsimp only | split

end Sys2Proof.Machine
end

