-- ==== Sys2Proof/Laws/EvolvesSensors.lean ====
section
/-! SUPPORT. What no operation takes back, operation by operation: `Evolves` holds of each. -/

namespace Sys2Proof.Machine

open Sys2Proof

theorem testPackageEnd_ev {s0 s : State} {b} (he : Evolves s0 s) : Evolves s0 (testPackageEnd b s) := by
  unfold testPackageEnd
  repeat' with_reducible first
    | assumption | apply setR_ev | dsimp only | split | fail_if_no_progress (refine Evolves.upd ?_)

theorem copyPatterns_ev {s0 s : State} {image pats u} (he : Evolves s0 s) :
    Evolves s0 (copyPatterns image pats u s) := by
  unfold copyPatterns
  repeat' with_reducible first
    | assumption | apply writePad_ev | refine forEach_ev (fun _ _ _ => ?_) ?_ | dsimp only | split

theorem resetForTest_ev {s0 s : State} {u} (he : Evolves s0 s) : Evolves s0 (resetForTest u s) := by
  unfold resetForTest
  repeat' with_reducible first | assumption | apply resetUnit_ev | apply setUnit_ev

theorem beginSlot_ev {s0 s : State} {us} (he : Evolves s0 s) : Evolves s0 (beginSlot us s) := by
  unfold beginSlot
  repeat' with_reducible first
    | assumption | apply setStatus_ev | apply resetForTest_ev | apply copyPatterns_ev
    | refine forEach_ev (fun _ _ _ => ?_) ?_ | dsimp only | fail_if_no_progress (refine Evolves.upd ?_)

theorem execIftDue_ev {s0 s : State} {u} (he : Evolves s0 s) : EvolvesTo s0 (execIftDue u s) := by
  unfold execIftDue
  repeat' with_reducible first
    | assumption | apply EvolvesTo.next | apply EvolvesTo.fault | apply tryWithdraw_ev | dsimp only | split
    | fail_if_no_progress (refine Evolves.upd ?_)

theorem execIftOverdue_ev {s0 s : State} {u} (he : Evolves s0 s) : EvolvesTo s0 (execIftOverdue u s) := by
  unfold execIftOverdue
  repeat' with_reducible first
    | assumption | apply EvolvesTo.next | apply EvolvesTo.fault | apply raise_ev | apply bump_ev | dsimp only | split
    | fail_if_no_progress (refine Evolves.upd ?_)

theorem execIftSlotStart_ev {s0 s : State} {u} (he : Evolves s0 s) : EvolvesTo s0 (execIftSlotStart u s) := by
  unfold execIftSlotStart
  repeat' with_reducible first
    | assumption | apply EvolvesTo.next | apply EvolvesTo.fault | apply beginSlot_ev | dsimp only | split

theorem failUnit_ev {s0 s : State} {u} (he : Evolves s0 s) : Evolves s0 (failUnit u s) := by
  unfold failUnit
  repeat' with_reducible first | assumption | apply raise_ev | apply setR_ev

theorem failUnits_ev {s0 s : State} {us} (he : Evolves s0 s) : Evolves s0 (failUnits us s) := by
  unfold failUnits
  repeat' with_reducible first
    | assumption | apply drainChip_ev | apply failUnit_ev | refine forEach_ev (fun _ _ _ => ?_) ?_ | dsimp only
    | split

theorem rejoin_ev {s0 s : State} {u} (he : Evolves s0 s) : Evolves s0 (rejoin u s) := by
  unfold rejoin
  repeat' with_reducible first | assumption | apply setStatus_ev | apply reopenWindows_ev | dsimp only | split

theorem execIftSlotEnd_ev {s0 s : State} {u signatures ownChecksFailed} (he : Evolves s0 s) :
    EvolvesTo s0 (execIftSlotEnd u signatures ownChecksFailed s) := by
  unfold execIftSlotEnd
  repeat' with_reducible first
    | assumption | apply EvolvesTo.next | apply EvolvesTo.fault | apply rejoin_ev | apply resetForTest_ev
    | apply bumpBy_ev | apply settleUnits_ev | apply failUnits_ev | refine forEach_ev (fun _ _ _ => ?_) ?_
    | dsimp only | split | fail_if_no_progress (refine Evolves.upd ?_)

theorem execGooseTest_ev {s0 s : State} {r signatures} (he : Evolves s0 s) :
    EvolvesTo s0 (execGooseTest r signatures s) := by
  unfold execGooseTest
  repeat' with_reducible first
    | assumption | apply EvolvesTo.next | apply EvolvesTo.fault | apply failUnits_ev | dsimp only | split
    | fail_if_no_progress (refine Evolves.upd ?_)

theorem modCtx_ev {s0 s : State} {c f} (he : Evolves s0 s) : Evolves s0 (modCtx c f s) := by
  unfold modCtx
  repeat' with_reducible first | assumption | apply setCtx_ev

theorem modOut_ev {s0 s : State} {c no f} (he : Evolves s0 s) : Evolves s0 (modOut c no f s) := by
  unfold modOut
  repeat' with_reducible first | assumption | apply modCtx_ev

theorem markTakers_ev {s0 s : State} {c no b} (he : Evolves s0 s) : Evolves s0 (markTakers c no b s) := by
  unfold markTakers
  repeat' with_reducible first
    | assumption | apply markStation_ev | refine forEach_ev (fun _ _ _ => ?_) ?_ | dsimp only | split

theorem closeGolden_ev {s0 s : State} {c no ok} (he : Evolves s0 s) : Evolves s0 (closeGolden c no ok s) := by
  unfold closeGolden
  repeat' with_reducible first
    | assumption | apply markTakers_ev | apply freeOutBufs_ev | apply modOut_ev | dsimp only | split

theorem closeFrames_ev {s0 s : State} {p cover ok} (he : Evolves s0 s) : Evolves s0 (closeFrames p cover ok s) := by
  unfold closeFrames
  repeat' with_reducible first | assumption | apply closeGolden_ev | refine forEach_ev (fun _ _ _ => ?_) ?_

theorem modPipe_ev {s0 s : State} {p f} (he : Evolves s0 s) : Evolves s0 (modPipe p f s) := by
  unfold modPipe
  repeat' with_reducible first | assumption | apply setPipe_ev

theorem countIncomplete_ev {s0 s : State} {p} (he : Evolves s0 s) : Evolves s0 (countIncomplete p s) := by
  unfold countIncomplete
  repeat' with_reducible first | assumption | apply modPipe_ev | apply bump_ev | apply raise_ev | dsimp only | split

theorem presentSlice_ev {s0 s : State} {p c} (he : Evolves s0 s) : Evolves s0 (presentSlice p c s) := by
  unfold presentSlice
  repeat' with_reducible first | assumption | apply closeFrames_ev | apply modPipe_ev | dsimp only | split

theorem passDeadline_ev {s0 s : State} {p x} (he : Evolves s0 s) : Evolves s0 (passDeadline p x s) := by
  unfold passDeadline
  repeat' with_reducible first
    | assumption | apply closeFrames_ev | apply countIncomplete_ev | apply modPipe_ev | dsimp only | split

theorem goldenFrameStart_ev {s0 s : State} {c} (he : Evolves s0 s) : Evolves s0 (goldenFrameStart c s) := by
  unfold goldenFrameStart
  extract_lets p t0 queued t1 t2 o t3 t4
  have h0 : Evolves s0 t0 := applyStaged_ev he
  have h1 : Evolves s0 t1 := by
    simp only [t1]; split
    · exact countIncomplete_ev (modPipe_ev h0)
    · exact h0
  have h2 : Evolves s0 t2 := by
    simp only [t2]; split
    · split
      · exact passDeadline_ev h1
      · exact h1
    · exact h1
  have h3 : Evolves s0 t3 := by
    simp only [t3]; split
    · exact closeFrames_ev h2
    · exact h2
  have h4 : Evolves s0 t4 := by
    simp only [t4]; split
    · exact countIncomplete_ev (modPipe_ev h3)
    · exact h3
  repeat' with_reducible first | assumption | apply presentSlice_ev | apply modPipe_ev | split

theorem presentQueued_ev {s0 s : State} {p} (he : Evolves s0 s) : Evolves s0 (presentQueued p s) := by
  unfold presentQueued
  repeat' with_reducible first | assumption | apply presentSlice_ev | apply modPipe_ev | dsimp only | split

theorem goldenFrameDone_ev {s0 s : State} {p c no} (he : Evolves s0 s) : Evolves s0 (goldenFrameDone p c no s) := by
  unfold goldenFrameDone
  repeat' with_reducible first | assumption | apply closeGolden_ev | dsimp only | split

theorem goldenTake_ev {s0 s : State} {p} (he : Evolves s0 s) : Evolves s0 (goldenTake p s) := by
  unfold goldenTake
  repeat' with_reducible first
    | assumption | apply modOut_ev | apply closeFrames_ev | apply modPipe_ev | apply tryWithdraw_ev
    | refine forEach_ev (fun _ _ _ => ?_) ?_ | dsimp only | split

theorem releaseSliceUnit_ev {s0 s : State} {u} (he : Evolves s0 s) : Evolves s0 (releaseSliceUnit u s) := by
  unfold releaseSliceUnit
  repeat' with_reducible first | assumption | apply setStatus_ev | apply beginSlot_ev | dsimp only | split

theorem endSlice_ev {s0 s : State} {p} (he : Evolves s0 s) : Evolves s0 (endSlice p s) := by
  unfold endSlice
  repeat' with_reducible first
    | assumption | apply modPipe_ev | apply settleUnits_ev | apply releaseSliceUnit_ev | apply presentQueued_ev

theorem goldenInputFailed_ev {s0 s : State} {p} (he : Evolves s0 s) : Evolves s0 (goldenInputFailed p s) := by
  unfold goldenInputFailed
  repeat' with_reducible first
    | assumption | apply modPipe_ev | apply countIncomplete_ev | apply closeFrames_ev | apply endSlice_ev | dsimp only
    | split

theorem freeRaw_ev {s0 s : State} {f} (he : Evolves s0 s) : Evolves s0 (freeRaw f s) := by
  unfold freeRaw
  repeat' with_reducible first | assumption | apply setPort_ev | apply freeSpace_ev | dsimp only | split

theorem suspectPipe_ev {s0 s : State} {p} (he : Evolves s0 s) : Evolves s0 (suspectPipe p s) := by
  unfold suspectPipe
  repeat' with_reducible first
    | assumption | apply setR_ev | apply freeRaw_ev | apply modCtx_ev | apply drainChip_ev | apply modPipe_ev
    | refine forEach_ev (fun _ _ _ => ?_) ?_

theorem execGoldenSliceComplete_ev {s0 s : State} {p pipeFlips sliceWord} (he : Evolves s0 s) :
    EvolvesTo s0 (execGoldenSliceComplete p pipeFlips sliceWord s) := by
  unfold execGoldenSliceComplete
  repeat' with_reducible first
    | assumption | apply EvolvesTo.next | apply EvolvesTo.fault | apply modPipe_ev | apply setR_ev | apply raise_ev
    | apply bump_ev | apply countIncomplete_ev | apply closeFrames_ev | apply suspectPipe_ev | apply endSlice_ev
    | dsimp only | split

theorem goldenPortDisabled_ev {s0 s : State} {c} (he : Evolves s0 s) : Evolves s0 (goldenPortDisabled c s) := by
  unfold goldenPortDisabled
  repeat' with_reducible first | assumption | apply closeFrames_ev | dsimp only | split

theorem ringWrite_ev {s0 s : State} {off b} (he : Evolves s0 s) : Evolves s0 (ringWrite off b s) := by
  unfold ringWrite
  repeat' with_reducible first | assumption | apply outsideWrite_ev

theorem padRing_ev {s0 s : State} {len} (he : Evolves s0 s) : Evolves s0 (padRing len s) := by
  unfold padRing
  repeat' with_reducible first
    | assumption | apply ringWrite_ev | dsimp only | split | fail_if_no_progress (refine Evolves.upd ?_)
    | fail_if_no_progress (refine Evolves.updFree ?_ (Nat.le_add_right _ _))

theorem ringReserve_ev {s0 s : State} {port q} (he : Evolves s0 s) : Evolves s0 (ringReserve port q s).2 := by
  unfold ringReserve
  repeat' with_reducible first
    | assumption | apply padRing_ev | dsimp only | fail_if_no_progress (refine Evolves.upd ?_)

theorem ringLine_ev {s0 s : State} {f b} (he : Evolves s0 s) : Evolves s0 (ringLine f b s) := by
  unfold ringLine
  repeat' with_reducible first | assumption | apply ringWrite_ev | dsimp only | split

theorem ringClose_ev {s0 s : State} {f} (he : Evolves s0 s) : Evolves s0 (ringClose f s) := by
  unfold ringClose
  repeat' with_reducible first
    | assumption | apply ringWrite_ev | apply ringSettle_ev | dsimp only | split
    | fail_if_no_progress (refine Evolves.upd ?_)

theorem ringOpen_ev {s0 s : State} {port q} (he : Evolves s0 s) : Evolves s0 (ringOpen port q s).2 := by
  unfold ringOpen
  repeat' with_reducible first
    | assumption | (refine Evolves.ofPair (by assumption) (ringReserve_ev ?_)) | apply ringReserve_ev | apply bump_ev
    | dsimp only | split

theorem ringCmd_ev {s0 s : State} {cmd} (he : Evolves s0 s) : Evolves s0 (ringCmd cmd s) := by
  unfold ringCmd
  repeat' with_reducible first | assumption | apply ringFreezeNow_ev | apply setR_ev | dsimp only | split

theorem ringRead_ev {s0 s : State} {off len} (he : Evolves s0 s) : Evolves s0 (ringRead off len s).2 := by
  unfold ringRead
  repeat' with_reducible first
    | assumption | (refine Evolves.ofPair (by assumption) (readLoose_ev ?_)) | apply readLoose_ev

theorem ringAfterReset_ev {s0 s : State} (he : Evolves s0 s) : Evolves s0 (ringAfterReset s) := by
  unfold ringAfterReset
  repeat' with_reducible first
    | assumption | apply setR_ev | dsimp only | split | fail_if_no_progress (refine Evolves.upd ?_)

theorem modLane_ev {s0 s : State} {p memLane f} (he : Evolves s0 s) : Evolves s0 (modLane p memLane f s) := by
  unfold modLane
  repeat' with_reducible first | assumption | apply modPipe_ev

theorem outBuffer_ev {s0 s t : State} {c q n} (he : Evolves s0 s) (h : outBuffer c q s = some (n, t)) : Evolves s0 t := by
  obtain ⟨k, _, h⟩ := List.exists_of_findSome?_eq_some h
  split at h
  · cases h
  · obtain ⟨u, hu, e⟩ := Option.map_eq_some_iff.1 h
    cases e
    exact ensureSpace_ev he _ hu

theorem contextBuffers_ev {s0 s : State} {c q} (he : Evolves s0 s) : Evolves s0 (contextBuffers c q s) := by
  unfold contextBuffers
  repeat' with_reducible first
    | assumption | apply modCtx_ev | apply freeSpace_ev | apply allocate_ev | refine forEach_ev (fun _ _ _ => ?_) ?_

theorem takeSources_ev {s0 s : State} {pointCloud c d} (he : Evolves s0 s) :
    Evolves s0 (takeSources pointCloud c d s).2 := by
  unfold takeSources
  refine foldl_keeps (P := fun a : List (Nat × Nat × Nat) × State => Evolves s0 a.2) (fun a g h => ?_) _ he
  split
  · exact h
  · split
    · exact h
    · refine foldl_keeps (P := fun a : List (Nat × Nat × Nat) × State => Evolves s0 a.2) (fun a st h => ?_) _ h
      split
      · exact h
      · split
        · exact h
        · exact modFrame_ev h

theorem settleTaker_ev {s0 s : State} {t} (he : Evolves s0 s) : Evolves s0 (settleTaker t s) := by
  unfold settleTaker
  repeat' with_reducible first | assumption | apply settleSource_ev | dsimp only | split

theorem sourceTile_ev {s0 s : State} {d t} (he : Evolves s0 s) : Evolves s0 (sourceTile d t s) := by
  unfold sourceTile
  repeat' with_reducible first | assumption | apply settleTaker_ev | apply modFrame_ev

theorem sourceLast_ev {s0 s : State} {act word t} (he : Evolves s0 s) : Evolves s0 (sourceLast act word t s) := by
  unfold sourceLast
  repeat' with_reducible first | assumption | apply settleTaker_ev | apply noteWithheld_ev | apply modFrame_ev

theorem storeRow_ev {s0 s : State} {c o y codes} (he : Evolves s0 s) : Evolves s0 (storeRow c o y codes s) := by
  unfold storeRow
  repeat' with_reducible first
    | assumption | apply outsideWrite_ev | refine forEach_ev (fun _ _ _ => ?_) ?_ | dsimp only | split

theorem closeTile_ev {s0 s : State} {c no} (he : Evolves s0 s) : Evolves s0 (closeTile c no s) := by
  unfold closeTile
  repeat' with_reducible first
    | assumption | apply sourceTile_ev | apply modOut_ev | refine forEach_ev (fun _ _ _ => ?_) ?_ | dsimp only | split

theorem putRow_ev {s0 s : State} {c no n codes} (he : Evolves s0 s) : Evolves s0 (putRow c no n codes s) := by
  unfold putRow
  repeat' with_reducible first
    | assumption | apply modOut_ev | apply storeRow_ev | apply closeTile_ev | dsimp only | split

theorem writeRows_ev {s0 s : State} {p memLane} (he : Evolves s0 s) : Evolves s0 (writeRows p memLane s) := by
  unfold writeRows
  repeat' with_reducible first
    | assumption | apply putRow_ev | apply bumpBy_ev | refine forEach_ev (fun _ _ _ => ?_) ?_ | dsimp only | split
    | fail_if_no_progress (refine Evolves.upd ?_)
    | fail_if_no_progress (refine Evolves.updFree ?_ (Nat.le_add_right _ _))

theorem freezeCheck_ev {s0 s : State} {c no f img} (he : Evolves s0 s) : Evolves s0 (freezeCheck c no f img s) := by
  unfold freezeCheck
  repeat' with_reducible first
    | assumption | apply modOut_ev | apply modCtx_ev | apply raise_ev | apply markTakers_ev | apply bump_ev
    | dsimp only | split

theorem checkLane_ev {s0 s : State} {p memLane} (he : Evolves s0 s) : Evolves s0 (checkLane p memLane s) := by
  unfold checkLane
  repeat' with_reducible first | assumption | apply freezeCheck_ev | apply modLane_ev | dsimp only | split

theorem beginFrame_ev {s0 s : State} {p memLane f} (he : Evolves s0 s) : Evolves s0 (beginFrame p memLane f s) := by
  unfold beginFrame
  repeat' with_reducible first
    | assumption | (refine Evolves.ofPair (by assumption) (takeSources_ev ?_)) | apply takeSources_ev
    | apply outsideWrite_ev | apply modCtx_ev | apply checkLane_ev | apply modLane_ev | dsimp only | split
    | fail_if_no_progress (refine Evolves.upd ?_) | (refine outBuffer_ev ?_ (by assumption))

theorem takeLine_ev {s0 s : State} {p memLane f b} (he : Evolves s0 s) : Evolves s0 (takeLine p memLane f b s).2 := by
  unfold takeLine
  repeat' with_reducible first
    | assumption | (refine Evolves.ofPair (by assumption) (readLoose_ev ?_)) | apply readLoose_ev | dsimp only | split

theorem lineStep_ev {s0 s : State} {p memLane} (he : Evolves s0 s) : Evolves s0 (lineStep p memLane s) := by
  unfold lineStep
  repeat' with_reducible first
    | assumption | (refine Evolves.ofPair (by assumption) (takeLine_ev ?_)) | apply takeLine_ev | apply modLane_ev
    | apply freeRaw_ev | apply writeRows_ev | apply checkLane_ev | dsimp only | split

theorem stopLane_ev {s0 s : State} {p memLane} (he : Evolves s0 s) : Evolves s0 (stopLane p memLane s) := by
  unfold stopLane
  repeat' with_reducible first
    | assumption | apply closeTile_ev | apply modOut_ev | apply modLane_ev | dsimp only | split

theorem overrunLane_ev {s0 s : State} {p} (he : Evolves s0 s) : Evolves s0 (overrunLane p s) := by
  unfold overrunLane
  repeat' with_reducible first | assumption | apply raise_ev | apply stopLane_ev | apply bump_ev | dsimp only | split

theorem finishFrame_ev {s0 s : State} {p memLane} (he : Evolves s0 s) : Evolves s0 (finishFrame p memLane s) := by
  unfold finishFrame
  repeat' with_reducible first
    | assumption | apply modLane_ev | apply outsideWrite_ev | apply modOut_ev | apply sourceLast_ev | apply bump_ev
    | apply setBlob_ev | apply modCtx_ev | apply freeOutBufs_ev | apply goldenFrameDone_ev
    | refine forEach_ev (fun _ _ _ => ?_) ?_ | dsimp only | split | fail_if_no_progress (refine Evolves.upd ?_)
    | fail_if_no_progress (refine Evolves.updFree ?_ (Nat.le_add_right _ _))

theorem drainLane_ev {s0 s : State} {p memLane} (he : Evolves s0 s) : Evolves s0 (drainLane p memLane s) := by
  unfold drainLane
  repeat' with_reducible first
    | assumption | apply finishFrame_ev | apply lineStep_ev | refine forEach_ev (fun _ _ _ => ?_) ?_ | dsimp only
    | split

theorem openInline_ev {s0 s : State} {p f} (he : Evolves s0 s) : Evolves s0 (openInline p f s) := by
  unfold openInline
  repeat' with_reducible first
    | assumption | apply drainLane_ev | apply beginFrame_ev | apply raise_ev | apply bump_ev | dsimp only | split

theorem closeInline_ev {s0 s : State} {p f} (he : Evolves s0 s) : Evolves s0 (closeInline p f s) := by
  unfold closeInline
  repeat' with_reducible first
    | assumption | apply writeRows_ev | apply checkLane_ev | apply modLane_ev | dsimp only | split

theorem execIspLineProcess_ev {s0 s : State} {p memLane overflow} (he : Evolves s0 s) :
    EvolvesTo s0 (execIspLineProcess p memLane overflow s) := by
  unfold execIspLineProcess
  repeat' with_reducible first
    | assumption | apply EvolvesTo.next | apply EvolvesTo.fault | apply overrunLane_ev | apply lineStep_ev
    | dsimp only | split

theorem takeGolden_ev {s0 s : State} {p x} (he : Evolves s0 s) : Evolves s0 (takeGolden p x s) := by
  unfold takeGolden
  repeat' with_reducible first | assumption | apply goldenTake_ev | apply modLane_ev | apply modCtx_ev

theorem execMemoryLaneTakeFrame_ev {s0 s : State} {p} (he : Evolves s0 s) :
    EvolvesTo s0 (execMemoryLaneTakeFrame p s) := by
  unfold execMemoryLaneTakeFrame
  repeat' with_reducible first
    | assumption | apply EvolvesTo.next | apply EvolvesTo.fault | apply takeGolden_ev | apply modPipe_ev
    | apply freeRaw_ev | apply beginFrame_ev | dsimp only | split

theorem finishGolden_ev {s0 s : State} {p} (he : Evolves s0 s) : Evolves s0 (finishGolden p s) := by
  unfold finishGolden
  repeat' with_reducible first | assumption | apply modPipe_ev | apply modCtx_ev | apply bump_ev

theorem execIspFrameDone_ev {s0 s : State} {p memLane} (he : Evolves s0 s) :
    EvolvesTo s0 (execIspFrameDone p memLane s) := by
  unfold execIspFrameDone
  repeat' with_reducible first
    | assumption | apply EvolvesTo.next | apply EvolvesTo.fault | apply finishGolden_ev | apply finishFrame_ev
    | dsimp only | split

theorem latchRingPort_ev {s0 s : State} {p} (he : Evolves s0 s) : Evolves s0 (latchRingPort p s) := by
  unfold latchRingPort
  split
  · exact he
  · extract_lets old new s1
    split
    · exact (setR_ev he).values rfl rfl id rfl rfl rfl fun x => sascFrom_sdel _ _ 0 x
    · exact setR_ev he

theorem latchFrame_ev {s0 s : State} {p c} (he : Evolves s0 s) : Evolves s0 (latchFrame p c s) := by
  unfold latchFrame
  repeat' with_reducible first | assumption | apply latchRingPort_ev | apply applyStaged_ev | dsimp only | split

theorem countClosed_ev {s0 s : State} {p f} (he : Evolves s0 s) : Evolves s0 (countClosed p f s) := by
  unfold countClosed
  repeat' with_reducible first | assumption | apply bump_ev | apply bumpBy_ev | dsimp only | split

theorem handOn_ev {s0 s : State} {p f} (he : Evolves s0 s) : Evolves s0 (handOn p f s) := by
  unfold handOn
  repeat' with_reducible first
    | assumption | apply freeRaw_ev | apply modPipe_ev | apply closeInline_ev | dsimp only | split

theorem closeFrame_ev {s0 s : State} {p} (he : Evolves s0 s) : Evolves s0 (closeFrame p s) := by
  unfold closeFrame
  repeat' with_reducible first
    | assumption | apply countClosed_ev | apply setPort_ev | apply handOn_ev | apply ringClose_ev | dsimp only | split
    | fail_if_no_progress (refine Evolves.upd ?_)
    | fail_if_no_progress (refine Evolves.updFree ?_ (Nat.le_add_right _ _))

theorem modCur_ev {s0 s : State} {p g} (he : Evolves s0 s) : Evolves s0 (modCur p g s) := by
  unfold modCur
  repeat' with_reducible first | assumption | apply setPort_ev

theorem trainPort_ev {s0 s : State} {p} (he : Evolves s0 s) : Evolves s0 (trainPort p s) := by
  unfold trainPort
  repeat' with_reducible first | assumption | apply setR_ev

theorem rawBuffers_ev {s0 s : State} {p c} (he : Evolves s0 s) : Evolves s0 (rawBuffers p c s) := by
  unfold rawBuffers
  repeat' with_reducible first
    | assumption | apply allocate_ev | refine forEach_ev (fun _ _ _ => ?_) ?_ | dsimp only | split

theorem enablePort_ev {s0 s : State} {p} (he : Evolves s0 s) : Evolves s0 (enablePort p s) := by
  unfold enablePort
  repeat' with_reducible first
    | assumption | apply rawBuffers_ev | apply trainPort_ev | apply setR_ev | apply setPort_ev
    | apply contextBuffers_ev | apply modCtx_ev | dsimp only | split

theorem releaseRaw_ev {s0 s : State} {p} (he : Evolves s0 s) : Evolves s0 (releaseRaw p s) := by
  unfold releaseRaw
  repeat' with_reducible first | assumption | apply freeSpace_ev

theorem disablePort_ev {s0 s : State} {p} (he : Evolves s0 s) : Evolves s0 (disablePort p s) := by
  unfold disablePort
  repeat' with_reducible first
    | assumption | apply releaseRaw_ev | apply closeFrame_ev | apply setR_ev | apply goldenPortDisabled_ev
    | dsimp only | split

theorem writeGear_ev {s0 s : State} {p v} (he : Evolves s0 s) : Evolves s0 (writeGear p v s) := by
  unfold writeGear
  repeat' with_reducible first
    | assumption | apply trainPort_ev | apply closeFrame_ev | apply setR_ev | dsimp only | split

theorem execLinkTrainingComplete_ev {s0 s : State} {p fsyncLatency} (he : Evolves s0 s) :
    EvolvesTo s0 (execLinkTrainingComplete p fsyncLatency s) := by
  unfold execLinkTrainingComplete
  repeat' with_reducible first
    | assumption | apply EvolvesTo.next | apply EvolvesTo.fault | apply setR_ev | apply setPort_ev | dsimp only
    | split

theorem execAphyLinkLoss_ev {s0 s : State} {p} (he : Evolves s0 s) : EvolvesTo s0 (execAphyLinkLoss p s) := by
  unfold execAphyLinkLoss
  repeat' with_reducible first
    | assumption | apply EvolvesTo.next | apply EvolvesTo.fault | apply closeFrame_ev | apply modCur_ev
    | apply raise_ev | apply trainPort_ev | apply bump_ev | dsimp only | split

theorem execAphyRetransmission_ev {s0 s : State} {p} (he : Evolves s0 s) :
    EvolvesTo s0 (execAphyRetransmission p s) := by
  unfold execAphyRetransmission
  repeat' with_reducible first
    | assumption | apply EvolvesTo.next | apply EvolvesTo.fault | apply bump_ev | dsimp only | split

theorem touchPort_ev {s0 s : State} {p vc hdrCorrected} (he : Evolves s0 s) :
    Evolves s0 (touchPort p vc hdrCorrected s) := by
  unfold touchPort
  repeat' with_reducible first | assumption | apply setPort_ev | apply bump_ev | dsimp only | split

theorem loseLine_ev {s0 s : State} {p} (he : Evolves s0 s) : Evolves s0 (loseLine p s) := by
  unfold loseLine
  repeat' with_reducible first | assumption | apply modCur_ev | apply bump_ev | dsimp only | split

theorem lostPacket_ev {s0 s : State} {p} (he : Evolves s0 s) : Evolves s0 (lostPacket p s) := by
  unfold lostPacket
  repeat' with_reducible first | assumption | apply loseLine_ev | apply modCur_ev

theorem execAphyPacketLost_ev {s0 s : State} {p} (he : Evolves s0 s) : EvolvesTo s0 (execAphyPacketLost p s) := by
  unfold execAphyPacketLost
  repeat' with_reducible first
    | assumption | apply EvolvesTo.next | apply EvolvesTo.fault | apply lostPacket_ev | dsimp only | split

theorem execHeaderUncorrectable_ev {s0 s : State} {p couldBeLong} (he : Evolves s0 s) :
    EvolvesTo s0 (execHeaderUncorrectable p couldBeLong s) := by
  unfold execHeaderUncorrectable
  repeat' with_reducible first
    | assumption | apply EvolvesTo.next | apply EvolvesTo.fault | apply modCur_ev | apply bump_ev
    | apply lostPacket_ev | dsimp only | split

theorem markLink_ev {s0 s : State} {p crcOk hdrCorrected} (he : Evolves s0 s) :
    Evolves s0 (markLink p crcOk hdrCorrected s) := by
  unfold markLink
  repeat' with_reducible first | assumption | apply bump_ev | apply modCur_ev | dsimp only | split

theorem dropPacket_ev {s0 s : State} {p} (he : Evolves s0 s) : Evolves s0 (dropPacket p s) := by
  unfold dropPacket
  repeat' with_reducible first | assumption | apply bump_ev

theorem rawBuffer_ev {s0 s t : State} {p q n} (he : Evolves s0 s) (h : rawBuffer p q s = some (n, t)) : Evolves s0 t := by
  obtain ⟨k, _, h⟩ := List.exists_of_findSome?_eq_some h
  split at h
  · cases h
  · obtain ⟨u, hu, e⟩ := Option.map_eq_some_iff.1 h
    cases e
    exact ensureSpace_ev he _ hu

theorem takeRaw_ev {s0 s : State} {p c q} (he : Evolves s0 s) : Evolves s0 (takeRaw p c q s).2 := by
  unfold takeRaw
  repeat' with_reducible first | assumption | dsimp only | split | (refine rawBuffer_ev ?_ (by assumption))

theorem openCamFrame_ev {s0 s : State} {p linkErr} (he : Evolves s0 s) : Evolves s0 (openCamFrame p linkErr s) := by
  unfold openCamFrame
  repeat' with_reducible first
    | assumption | apply latchFrame_ev | apply goldenFrameStart_ev
    | (refine Evolves.ofPair (by assumption) (ringOpen_ev ?_)) | apply ringOpen_ev | apply captureSource_ev
    | apply bump_ev | (refine Evolves.ofPair (by assumption) (takeRaw_ev ?_)) | apply takeRaw_ev | apply setPort_ev
    | apply raise_ev | apply openInline_ev | dsimp only | split

theorem execFrameStart_ev {s0 s : State} {p hdr} (he : Evolves s0 s) :
    EvolvesTo s0 (execFrameStart p hdr s) := by
  unfold execFrameStart
  repeat' with_reducible first
    | assumption | apply EvolvesTo.next | apply EvolvesTo.fault | apply touchPort_ev | apply dropPacket_ev
    | apply markLink_ev | apply closeFrame_ev | apply raise_ev | apply setPort_ev | apply bump_ev
    | apply openCamFrame_ev | dsimp only | split

theorem execFrameEnd_ev {s0 s : State} {p hdr} (he : Evolves s0 s) :
    EvolvesTo s0 (execFrameEnd p hdr s) := by
  unfold execFrameEnd
  repeat' with_reducible first
    | assumption | apply EvolvesTo.next | apply EvolvesTo.fault | apply markLink_ev | apply touchPort_ev
    | apply closeFrame_ev | apply dropPacket_ev | dsimp only | split

theorem rawLine_ev {s0 s : State} {f emb b} (he : Evolves s0 s) : Evolves s0 (rawLine f emb b s) := by
  unfold rawLine
  repeat' with_reducible first | assumption | apply outsideWrite_ev | dsimp only | split

theorem storeLine_ev {s0 s : State} {p emb bytes} (he : Evolves s0 s) : Evolves s0 (storeLine p emb bytes s) := by
  unfold storeLine
  repeat' with_reducible first
    | assumption | apply rawLine_ev | apply ringLine_ev | apply modCur_ev | dsimp only | split

theorem takePixelLine_ev {s0 s : State} {p f bytes} (he : Evolves s0 s) : Evolves s0 (takePixelLine p f bytes s) := by
  unfold takePixelLine
  repeat' with_reducible first
    | assumption | apply loseLine_ev | apply bump_ev | apply modCur_ev | apply storeLine_ev | dsimp only | split

theorem execPixelLine_ev {s0 s : State} {p bytes crcOk hdr} (he : Evolves s0 s) :
    EvolvesTo s0 (execPixelLine p bytes crcOk hdr s) := by
  unfold execPixelLine
  repeat' with_reducible first
    | assumption | apply EvolvesTo.next | apply EvolvesTo.fault | apply markLink_ev | apply touchPort_ev
    | apply dropPacket_ev | apply takePixelLine_ev | dsimp only | split

theorem execEmbeddedLine_ev {s0 s : State} {p bytes crcOk hdr} (he : Evolves s0 s) :
    EvolvesTo s0 (execEmbeddedLine p bytes crcOk hdr s) := by
  unfold execEmbeddedLine
  repeat' with_reducible first
    | assumption | apply EvolvesTo.next | apply EvolvesTo.fault | apply markLink_ev | apply touchPort_ev
    | apply dropPacket_ev | apply storeLine_ev | dsimp only | split

theorem execOtherPacket_ev {s0 s : State} {p hdr crcOk} (he : Evolves s0 s) :
    EvolvesTo s0 (execOtherPacket p hdr crcOk s) := by
  unfold execOtherPacket
  repeat' with_reducible first
    | assumption | apply EvolvesTo.next | apply EvolvesTo.fault | apply markLink_ev | apply touchPort_ev
    | apply dropPacket_ev | dsimp only | split

theorem execLineTimeout_ev {s0 s : State} {p} (he : Evolves s0 s) :
    EvolvesTo s0 (execLineTimeout p s) := by
  unfold execLineTimeout
  repeat' with_reducible first
    | assumption | apply EvolvesTo.next | apply EvolvesTo.fault | apply closeFrame_ev | dsimp only | split

theorem loseGroup_ev {s0 s : State} {g port} (he : Evolves s0 s) : Evolves s0 (loseGroup g port s) := by
  unfold loseGroup
  repeat' with_reducible first
    | assumption | apply modCur_ev | apply loseLine_ev | refine forEach_ev (fun _ _ _ => ?_) ?_ | dsimp only | split

theorem i2cStart_ev {s0 s : State} {p b} (he : Evolves s0 s) : Evolves s0 (i2cStart p b s) := by
  unfold i2cStart
  repeat' with_reducible first | assumption | apply setBlob_ev | apply setPort_ev | apply emit_ev | dsimp only | split

theorem execI2cDone_ev {s0 s : State} {p status data} (he : Evolves s0 s) :
    EvolvesTo s0 (execI2cDone p status data s) := by
  unfold execI2cDone
  repeat' with_reducible first
    | assumption | apply EvolvesTo.next | apply EvolvesTo.fault | apply setBlob_ev | dsimp only | split
    | fail_if_no_progress (refine Evolves.upd ?_)
    | fail_if_no_progress (refine Evolves.updFree ?_ (Nat.le_add_right _ _))

theorem scanSpace_ev {s0 s : State} {n turn} (he : Evolves s0 s) : Evolves s0 (scanSpace n turn s) := by
  unfold scanSpace
  repeat' with_reducible first | assumption | refine getD_ev (ensureSpace_ev ?_) ?_

theorem writeScanHeader_ev {s0 s : State} {d seq final points} (he : Evolves s0 s) :
    Evolves s0 (writeScanHeader d seq final points s) := by
  unfold writeScanHeader
  repeat' with_reducible first | assumption | apply outsideWrite_ev | dsimp only | split

theorem storePoint_ev {s0 s : State} {n x b k} (he : Evolves s0 s) : Evolves s0 (storePoint n x b k s) := by
  unfold storePoint
  repeat' with_reducible first | assumption | apply outsideWrite_ev | dsimp only | split

theorem announceScan_ev {s0 s : State} {x a b} (he : Evolves s0 s) : Evolves s0 (announceScan x a b s) := by
  unfold announceScan
  repeat' with_reducible first | assumption | apply sourceTile_ev | refine forEach_ev (fun _ _ _ => ?_) ?_

theorem closeScan_ev {s0 s : State} {n} (he : Evolves s0 s) : Evolves s0 (closeScan n s) := by
  unfold closeScan
  repeat' with_reducible first
    | assumption | apply announceScan_ev | apply writeScanHeader_ev | apply sourceLast_ev | apply bump_ev
    | apply setScan_ev | refine forEach_ev (fun _ _ _ => ?_) ?_ | dsimp only | split

theorem openScan_ev {s0 s : State} {n seq} (he : Evolves s0 s) : Evolves s0 (openScan n seq s) := by
  unfold openScan
  repeat' with_reducible first
    | assumption | apply applyStaged_ev | apply scanSpace_ev
    | (refine Evolves.ofPair (by assumption) (takeSources_ev ?_)) | apply takeSources_ev | apply writeScanHeader_ev
    | apply setScan_ev | apply bump_ev | dsimp only | split

theorem storePacket_ev {s0 s : State} {n b} (he : Evolves s0 s) : Evolves s0 (storePacket n b s) := by
  unfold storePacket
  repeat' with_reducible first
    | assumption | apply storePoint_ev | apply setScan_ev | apply announceScan_ev | apply bumpBy_ev
    | apply closeScan_ev | refine forEach_ev (fun _ _ _ => ?_) ?_ | dsimp only | split

theorem acceptPacket_ev {s0 s : State} {n b} (he : Evolves s0 s) : Evolves s0 (acceptPacket n b s) := by
  unfold acceptPacket
  repeat' with_reducible first
    | assumption | apply bump_ev | apply storePacket_ev | apply openScan_ev | apply closeScan_ev | dsimp only | split

theorem pclReceive_ev {s0 s : State} {eth udp b} (he : Evolves s0 s) : Evolves s0 (pclReceive eth udp b s) := by
  unfold pclReceive
  repeat' with_reducible first | assumption | apply bump_ev | apply acceptPacket_ev | dsimp only | split

theorem execPclPacket_ev {s0 s : State} {eth udp payload} (he : Evolves s0 s) :
    EvolvesTo s0 (execPclPacket eth udp payload s) := by
  unfold execPclPacket
  repeat' with_reducible first | assumption | apply EvolvesTo.next | apply EvolvesTo.fault | apply pclReceive_ev

theorem execScanTimeout_ev {s0 s : State} {n} (he : Evolves s0 s) : EvolvesTo s0 (execScanTimeout n s) := by
  unfold execScanTimeout
  repeat' with_reducible first
    | assumption | apply EvolvesTo.next | apply EvolvesTo.fault | apply closeScan_ev | dsimp only | split

theorem startOutput_ev {s0 s : State} {d} (he : Evolves s0 s) : Evolves s0 (startOutput d s) := by
  unfold startOutput
  repeat' with_reducible first
    | assumption | apply bump_ev | apply freeOutBufs_ev | apply setDsp_ev | refine forEach_ev (fun _ _ _ => ?_) ?_
    | dsimp only | split

theorem vsyncInstant_ev {s0 s : State} {d} (he : Evolves s0 s) : Evolves s0 (vsyncInstant d s) := by
  unfold vsyncInstant
  repeat' with_reducible first | assumption | apply bump_ev | apply startOutput_ev | dsimp only | split

theorem execDspFrameStart_ev {s0 s : State} {d} (he : Evolves s0 s) : EvolvesTo s0 (execDspFrameStart d s) := by
  unfold execDspFrameStart
  repeat' with_reducible first
    | assumption | apply EvolvesTo.next | apply EvolvesTo.fault | apply startOutput_ev | dsimp only | split

theorem readGroupsOf_ev {s0 : State} {q base y} (n : Nat) :
    ∀ {k} {s : State}, Evolves s0 s → Evolves s0 (readGroupsOf q base y n k s).2 := by
  induction n with
  | zero => intro _ s he; exact he
  | succ n ih => intro _ s he; exact ih (readLoose_ev he)

theorem readRowOf_ev {s0 s : State} {c o x0 w y} (he : Evolves s0 s) : Evolves s0 (readRowOf c o x0 w y s).2 := by
  unfold readRowOf
  repeat' with_reducible first
    | assumption | (refine Evolves.ofPair (by assumption) (readGroupsOf_ev _ ?_)) | apply readGroupsOf_ev | dsimp only
    | split

theorem fetchRows_ev {s0 : State} {x} (l : List Nat) :
    ∀ {s : State}, Evolves s0 s → Evolves s0 (fetchRows x l s).2 := by
  induction l with
  | nil => intro s he; exact he
  | cons y t ih =>
    intro s he
    unfold fetchRows
    dsimp only
    apply ih
    split
    · exact readRowOf_ev he
    · exact he

theorem fetchPlane_ev {s0 s : State} {j x} (he : Evolves s0 s) : Evolves s0 (fetchPlane j x s).2 := by
  unfold fetchPlane
  repeat' with_reducible first
    | assumption | (refine Evolves.ofPair (by assumption) (fetchRows_ev _ ?_)) | apply fetchRows_ev | dsimp only
    | split

theorem fetchPlanes_ev {s0 : State} {j} (l : List PlaneShot) :
    ∀ {s : State}, Evolves s0 s → Evolves s0 (fetchPlanes j l s).2 := by
  induction l with
  | nil => intro s he; exact he
  | cons x t ih => intro s he; exact ih (fetchPlane_ev he)

theorem execDspLineFetch_ev {s0 s : State} {d} (he : Evolves s0 s) : EvolvesTo s0 (execDspLineFetch d s) := by
  unfold execDspLineFetch
  repeat' with_reducible first
    | assumption | apply EvolvesTo.next | apply EvolvesTo.fault
    | (refine Evolves.ofPair (by assumption) (fetchPlanes_ev _ ?_)) | apply fetchPlanes_ev | apply setDsp_ev
    | apply bumpBy_ev | dsimp only | split

theorem sendLine_ev {s0 s : State} {d px} (he : Evolves s0 s) : Evolves s0 (sendLine d px s) := by
  unfold sendLine
  repeat' with_reducible first | assumption | apply setDsp_ev | apply emit_ev

theorem underrun_ev {s0 s : State} {d} (he : Evolves s0 s) : Evolves s0 (underrun d s) := by
  unfold underrun
  repeat' with_reducible first | assumption | apply sendLine_ev | apply bump_ev

theorem execDspLineScan_ev {s0 s : State} {d} (he : Evolves s0 s) : EvolvesTo s0 (execDspLineScan d s) := by
  unfold execDspLineScan
  repeat' with_reducible first
    | assumption | apply EvolvesTo.next | apply EvolvesTo.fault | apply sendLine_ev | apply raise_ev
    | apply underrun_ev | dsimp only | split

theorem countLoss_ev {s0 s : State} {d port} (he : Evolves s0 s) : Evolves s0 (countLoss d port s) := by
  unfold countLoss
  repeat' with_reducible first
    | assumption | apply loseGroup_ev | apply underrun_ev | apply bump_ev | dsimp only | split

theorem execBridgeOverflow_ev {s0 s : State} {d port} (he : Evolves s0 s) :
    EvolvesTo s0 (execBridgeOverflow d port s) := by
  unfold execBridgeOverflow
  repeat' with_reducible first
    | assumption | apply EvolvesTo.next | apply EvolvesTo.fault | apply raise_ev | apply countLoss_ev | dsimp only
    | split

theorem execDspFrameEnd_ev {s0 s : State} {d} (he : Evolves s0 s) : EvolvesTo s0 (execDspFrameEnd d s) := by
  unfold execDspFrameEnd
  repeat' with_reducible first
    | assumption | apply EvolvesTo.next | apply EvolvesTo.fault | apply setR_ev | apply bump_ev | apply freeOutBufs_ev
    | apply setDsp_ev | apply raise_ev | dsimp only | split

theorem enableDisplay_ev {s0 s : State} {d v} (he : Evolves s0 s) : Evolves s0 (enableDisplay d v s) := by
  unfold enableDisplay
  repeat' with_reducible first
    | assumption | apply freeOutBufs_ev | apply setR_ev | apply setDsp_ev | dsimp only | split

theorem execDspLinkLoss_ev {s0 s : State} {d} (he : Evolves s0 s) : EvolvesTo s0 (execDspLinkLoss d s) := by
  unfold execDspLinkLoss
  repeat' with_reducible first
    | assumption | apply EvolvesTo.next | apply EvolvesTo.fault | apply setR_ev | apply setDsp_ev | apply raise_ev
    | apply freeOutBufs_ev | apply bump_ev | dsimp only | split

theorem execDspLinkUp_ev {s0 s : State} {d} (he : Evolves s0 s) : EvolvesTo s0 (execDspLinkUp d s) := by
  unfold execDspLinkUp
  repeat' with_reducible first
    | assumption | apply EvolvesTo.next | apply EvolvesTo.fault | apply setR_ev | dsimp only | split

end Sys2Proof.Machine
end

