-- ==== Sys2Proof/Laws/EvolvesPlatform.lean ====
section
/-! SUPPORT. What no operation takes back, operation by operation: `Evolves` holds of each. Time, the network, boot, the dictionary and its requests. -/

namespace Sys2Proof.Machine

open Sys2Proof

theorem setServo_ev {s0 s : State} {b x} (he : Evolves s0 s) : Evolves s0 (State.setServo s b x) :=
  he.same rfl rfl rfl rfl rfl rfl rfl

theorem setInstant_ev {s0 s : State} {t k} (he : Evolves s0 s) : Evolves s0 (setInstant t k s) := by
  unfold setInstant
  repeat' with_reducible first | assumption | dsimp only | fail_if_no_progress (refine Evolves.upd ?_)

theorem skipInstants_ev {s0 s : State} {t} (he : Evolves s0 s) : Evolves s0 (skipInstants t s) := by
  unfold skipInstants
  repeat' with_reducible first | assumption | apply setInstant_ev | apply bumpBy_ev | dsimp only | split

theorem settleBases_ev {s0 s : State} {old' fresh} (he : Evolves s0 s) : Evolves s0 (settleBases old' fresh s) := by
  unfold settleBases
  repeat' with_reducible first
    | assumption | apply followAll_ev | apply skipInstants_ev | refine forEach_ev (fun _ _ _ => ?_) ?_ | dsimp only
    | split

theorem stepBase_ev {s0 s : State} {b v} (he : Evolves s0 s) : Evolves s0 (stepBase b v s) := by
  unfold stepBase
  repeat' with_reducible first | assumption | apply bump_ev | fail_if_no_progress (refine Evolves.upd ?_)

theorem scheduleCommit_ev {s0 s : State} (he : Evolves s0 s) : Evolves s0 (scheduleCommit s) := by
  unfold scheduleCommit
  repeat' with_reducible first
    | assumption | apply setR_ev | dsimp only | split | fail_if_no_progress (refine Evolves.upd ?_)

theorem applyStep_ev {s0 s : State} {b} (he : Evolves s0 s) : Evolves s0 (applyStep b s) := by
  unfold applyStep
  repeat' with_reducible first | assumption | apply stepBase_ev | apply setR_ev | dsimp only | split

theorem enterMode_ev {s0 s : State} {old' b} (he : Evolves s0 s) : Evolves s0 (enterMode old' b s) := by
  unfold enterMode
  repeat' with_reducible first | assumption | apply setR_ev | apply setServo_ev | dsimp only | split

theorem refreshAs_ev {s0 s : State} (he : Evolves s0 s) : Evolves s0 (refreshAs s) := by
  unfold refreshAs
  repeat' with_reducible first | assumption | apply setR_ev | refine forEach_ev (fun _ _ _ => ?_) ?_

theorem applyCommit_ev {s0 s : State} (he : Evolves s0 s) : Evolves s0 (applyCommit s) := by
  unfold applyCommit
  repeat' with_reducible first
    | assumption | apply applyStaged_ev | apply setR_ev | apply enterMode_ev | apply applyStep_ev
    | apply setInstant_ev | apply settleBases_ev | apply refreshAs_ev | apply setPort_ev
    | refine forEach_ev (fun _ _ _ => ?_) ?_ | dsimp only | split | fail_if_no_progress (refine Evolves.upd ?_)

theorem firePins_ev {s0 s : State} {t i} (he : Evolves s0 s) : Evolves s0 (firePins t i s) := by
  unfold firePins
  repeat' with_reducible first
    | assumption | apply emit_ev | refine forEach_ev (fun _ _ _ => ?_) ?_ | dsimp only | split

theorem firePorts_ev {s0 s : State} {t i} (he : Evolves s0 s) : Evolves s0 (firePorts t i s) := by
  unfold firePorts
  repeat' with_reducible first
    | assumption | apply setPort_ev | apply emit_ev | refine forEach_ev (fun _ _ _ => ?_) ?_ | dsimp only | split

theorem fireTrigger_ev {s0 s : State} {t} (he : Evolves s0 s) : Evolves s0 (fireTrigger t s) := by
  unfold fireTrigger
  repeat' with_reducible first
    | assumption | apply setInstant_ev | apply bump_ev | apply setR_ev | apply vsyncInstant_ev | apply firePorts_ev
    | apply firePins_ev | apply frameTick_ev | refine forEach_ev (fun _ _ _ => ?_) ?_ | dsimp only | split

theorem execTriggerFire_ev {s0 s : State} {t} (he : Evolves s0 s) : EvolvesTo s0 (execTriggerFire t s) := by
  unfold execTriggerFire
  repeat' with_reducible first
    | assumption | apply EvolvesTo.next | apply EvolvesTo.fault | apply fireTrigger_ev | dsimp only | split

theorem steer_ev {s0 s : State} {b n off} (he : Evolves s0 s) : Evolves s0 (steer b n off s) := by
  unfold steer
  repeat' with_reducible first
    | assumption | apply setR_ev | apply nextFree_ev | apply setServo_ev | dsimp only | split

theorem servoEdge_ev {s0 s : State} (he : Evolves s0 s) : Evolves s0 (servoEdge s) := by
  unfold servoEdge
  repeat' with_reducible first
    | assumption | apply bump_ev | apply setServo_ev | apply settleBases_ev | apply stepBase_ev | apply nextFree_ev
    | apply steer_ev | dsimp only | split

theorem execPpsEdge_ev {s0 s : State} {falling} (he : Evolves s0 s) : EvolvesTo s0 (execPpsEdge falling s) := by
  unfold execPpsEdge
  repeat' with_reducible first
    | assumption | apply EvolvesTo.next | apply EvolvesTo.fault | apply captureSource_ev | apply servoEdge_ev
    | dsimp only | split

theorem enterHoldover_ev {s0 s : State} {b} (he : Evolves s0 s) : Evolves s0 (enterHoldover b s) := by
  unfold enterHoldover
  repeat' with_reducible first | assumption | apply raise_ev | apply setR_ev | apply bump_ev

theorem execPpsMissedSecond_ev {s0 s : State} (he : Evolves s0 s) : EvolvesTo s0 (execPpsMissedSecond s) := by
  unfold execPpsMissedSecond
  repeat' with_reducible first
    | assumption | apply EvolvesTo.next | apply EvolvesTo.fault | apply bump_ev | apply setServo_ev
    | apply enterHoldover_ev | dsimp only | split

theorem execGptpSyncReceive_ev {s0 s : State} {eth gmTime} (he : Evolves s0 s) :
    EvolvesTo s0 (execGptpSyncReceive eth gmTime s) := by
  unfold execGptpSyncReceive
  repeat' with_reducible first
    | assumption | apply EvolvesTo.next | apply EvolvesTo.fault | apply bump_ev | apply setServo_ev
    | apply settleBases_ev | apply stepBase_ev | apply steer_ev | dsimp only | split

theorem execGptpPdelayExchange_ev {s0 s : State} {eth completed delay} (he : Evolves s0 s) :
    EvolvesTo s0 (execGptpPdelayExchange eth completed delay s) := by
  unfold execGptpPdelayExchange
  repeat' with_reducible first
    | assumption | apply EvolvesTo.next | apply EvolvesTo.fault | apply refreshAs_ev | apply setR_ev
    | apply setServo_ev | apply bump_ev | dsimp only | split

theorem sendGptp_ev {s0 s : State} {e kind n} (he : Evolves s0 s) : Evolves s0 (sendGptp e kind n s) := by
  unfold sendGptp
  repeat' with_reducible first | assumption | apply emit_ev | apply bumpBy_ev | dsimp only | split

theorem execGptpPdelayTransmit_ev {s0 s : State} {eth} (he : Evolves s0 s) :
    EvolvesTo s0 (execGptpPdelayTransmit eth s) := by
  unfold execGptpPdelayTransmit
  repeat' with_reducible first
    | assumption | apply EvolvesTo.next | apply EvolvesTo.fault | apply sendGptp_ev | apply setServo_ev | dsimp only | split

theorem execGptpSyncTransmit_ev {s0 s : State} {eth} (he : Evolves s0 s) :
    EvolvesTo s0 (execGptpSyncTransmit eth s) := by
  unfold execGptpSyncTransmit
  repeat' with_reducible first
    | assumption | apply EvolvesTo.next | apply EvolvesTo.fault | apply sendGptp_ev | apply setServo_ev | dsimp only | split

theorem execGptpAnnounceReceive_ev {s0 s : State} {eth} (he : Evolves s0 s) :
    EvolvesTo s0 (execGptpAnnounceReceive eth s) := by
  unfold execGptpAnnounceReceive
  repeat' with_reducible first
    | assumption | apply EvolvesTo.next | apply EvolvesTo.fault | apply bump_ev | dsimp only | split

theorem execGptpSyncTimeout_ev {s0 s : State} {eth} (he : Evolves s0 s) :
    EvolvesTo s0 (execGptpSyncTimeout eth s) := by
  unfold execGptpSyncTimeout
  repeat' with_reducible first
    | assumption | apply EvolvesTo.next | apply EvolvesTo.fault | apply enterHoldover_ev | apply setServo_ev
    | dsimp only | split

theorem execCaptureEvent_ev {s0 s : State} {source} (he : Evolves s0 s) :
    EvolvesTo s0 (execCaptureEvent source s) := by
  unfold execCaptureEvent
  repeat' with_reducible first
    | assumption | apply EvolvesTo.next | apply EvolvesTo.fault | apply captureSource_ev | dsimp only | split

theorem loseDescriptor_ev {s0 s : State} {g st f} (he : Evolves s0 s) : Evolves s0 (loseDescriptor g st f s) := by
  unfold loseDescriptor
  repeat' with_reducible first
    | assumption | apply freeOutBufs_ev | apply abandonDown_ev | refine forEach_ev (fun _ _ _ => ?_) ?_

theorem loseArbiter_ev {s0 s : State} {a} (he : Evolves s0 s) : Evolves s0 (loseArbiter a s) := by
  unfold loseArbiter
  repeat' with_reducible first
    | assumption | apply freeOutBufs_ev | apply abandonDown_ev | refine forEach_ev (fun _ _ _ => ?_) ?_ | dsimp only
    | split

theorem loseLineOf_ev {s0 s : State} {d} (he : Evolves s0 s) : Evolves s0 (loseLineOf d s) := by
  unfold loseLineOf
  repeat' with_reducible first | assumption | apply setDsp_ev | apply bump_ev | dsimp only | split

theorem loseIspWord_ev {s0 s : State} {p memLane} (he : Evolves s0 s) : Evolves s0 (loseIspWord p memLane s) := by
  unfold loseIspWord
  repeat' with_reducible first
    | assumption | apply goldenInputFailed_ev | apply modPipe_ev | apply stopLane_ev | dsimp only | split

theorem onchipLoss_ev {s0 s : State} {w} (he : Evolves s0 s) : Evolves s0 (onchipLoss w s) := by
  unfold onchipLoss
  repeat' with_reducible first
    | assumption | apply loseIspWord_ev | apply occurrence_ev | apply rollbackPair_ev | apply dissent_ev
    | apply loseDescriptor_ev | apply loseArbiter_ev | apply loseLineOf_ev | dsimp only | split

theorem execOnchipMemoryRead_ev {s0 s : State} {w err} (he : Evolves s0 s) :
    EvolvesTo s0 (execOnchipMemoryRead w err s) := by
  unfold execOnchipMemoryRead
  repeat' with_reducible first
    | assumption | apply EvolvesTo.next | apply EvolvesTo.fault | apply nextFree_ev | apply raise_ev
    | apply onchipLoss_ev | dsimp only | split

theorem scrubSector_ev {s0 s : State} {r a v} (he : Evolves s0 s) : Evolves s0 (scrubSector r a v s) := by
  unfold scrubSector
  repeat' with_reducible first
    | assumption | apply raise_ev | apply modLine_ev | apply fetchSector_ev | dsimp only | split

theorem scrubTag_ev {s0 s : State} {r set way v} (he : Evolves s0 s) : Evolves s0 (scrubTag r set way v s) := by
  unfold scrubTag
  repeat' with_reducible first | assumption | apply raise_ev | apply modLine_ev | dsimp only | split

theorem scrubPad_ev {s0 s : State} {b row word err} (he : Evolves s0 s) : Evolves s0 (scrubPad b row word err s) := by
  unfold scrubPad
  repeat' with_reducible first | assumption | apply raise_ev | apply setSramErr_ev | dsimp only | split

theorem execOnchipScrub_ev {s0 s : State} {w err} (he : Evolves s0 s) : EvolvesTo s0 (execOnchipScrub w err s) := by
  unfold execOnchipScrub
  repeat' with_reducible first
    | assumption | apply EvolvesTo.next | apply EvolvesTo.fault | apply scrubPad_ev | apply scrubSector_ev
    | apply scrubTag_ev | apply raise_ev | apply nextFree_ev | dsimp only | split

theorem setWaiting_ev {s0 s : State} {n l} (he : Evolves s0 s) : Evolves s0 (setWaiting n l s) := by
  unfold setWaiting
  repeat' with_reducible first | assumption | dsimp only | fail_if_no_progress (refine Evolves.upd ?_)

theorem chargeQueue_ev {s0 s : State} {e n rec c} (he : Evolves s0 s) : Evolves s0 (chargeQueue e n rec c s) := by
  unfold chargeQueue
  repeat' with_reducible first | assumption | apply setCredit_ev | dsimp only | split

theorem restartShaper_ev {s0 s : State} {e} (he : Evolves s0 s) : Evolves s0 (restartShaper e s) := by
  unfold restartShaper
  repeat' with_reducible first | assumption | apply setCredit_ev | refine forEach_ev (fun _ _ _ => ?_) ?_

theorem sendCopy_ev {s0 s : State} {e n rec c} (he : Evolves s0 s) : Evolves s0 (sendCopy e n rec c s) := by
  unfold sendCopy
  repeat' with_reducible first | assumption | apply bump_ev | apply emit_ev | apply chargeQueue_ev | dsimp only | split

theorem startEth_ev {s0 s : State} {e n rec rest} (he : Evolves s0 s) : Evolves s0 (startEth e n rec rest s) := by
  unfold startEth
  repeat' with_reducible first
    | assumption | apply sendCopy_ev | apply setWaiting_ev | apply bump_ev | refine forEach_ev (fun _ _ _ => ?_) ?_
    | dsimp only | split

theorem startCan_ev {s0 s : State} {c n rec rest} (he : Evolves s0 s) : Evolves s0 (startCan c n rec rest s) := by
  unfold startCan
  repeat' with_reducible first | assumption | apply setWaiting_ev | apply emit_ev | apply bump_ev | dsimp only | split

theorem execRecordTxStart_ev {s0 s : State} {n} (he : Evolves s0 s) : EvolvesTo s0 (execRecordTxStart n s) := by
  unfold execRecordTxStart
  repeat' with_reducible first
    | assumption | apply EvolvesTo.next | apply EvolvesTo.fault | apply startEth_ev | apply startCan_ev | dsimp only
    | split

theorem dropGated_ev {s0 s : State} (he : Evolves s0 s) : Evolves s0 (dropGated s) := by
  unfold dropGated
  repeat' with_reducible first
    | assumption | apply setWaiting_ev | apply bumpBy_ev | refine forEach_ev (fun _ _ _ => ?_) ?_ | dsimp only | split

theorem execTimeCommitApply_ev {s0 s : State} (he : Evolves s0 s) : EvolvesTo s0 (execTimeCommitApply s) := by
  unfold execTimeCommitApply
  repeat' with_reducible first
    | assumption | apply EvolvesTo.next | apply EvolvesTo.fault | apply dropGated_ev | apply applyCommit_ev
    | dsimp only | split

theorem meterPass_ev {s0 s : State} {e m size} (he : Evolves s0 s) : Evolves s0 (meterPass s e m size).2 := by
  unfold meterPass
  extract_lets
  split
  · exact he.upd
  · exact he

theorem qciPass_ev {s0 s : State} {f} (he : Evolves s0 s) : Evolves s0 (qciPass f s).2 := by
  unfold qciPass
  repeat' with_reducible first
    | assumption | (refine Evolves.ofPair (by assumption) (meterPass_ev ?_)) | apply meterPass_ev | dsimp only | split

theorem reply_ev {s0 s : State} {e mac kind body} (he : Evolves s0 s) : Evolves s0 (reply e mac kind body s) := by
  unfold reply
  repeat' with_reducible first | assumption | apply emit_ev | apply bump_ev | dsimp only | split

theorem answerArp_ev {s0 s : State} {e mac target} (he : Evolves s0 s) : Evolves s0 (answerArp e mac target s) := by
  unfold answerArp
  repeat' with_reducible first | assumption | apply reply_ev | dsimp only | split

theorem answerNeighbour_ev {s0 s : State} {e mac target} (he : Evolves s0 s) :
    Evolves s0 (answerNeighbour e mac target s) := by
  unfold answerNeighbour
  repeat' with_reducible first | assumption | apply reply_ev | dsimp only | split

theorem answerEcho_ev {s0 s : State} {e mac dstIp v6 data} (he : Evolves s0 s) :
    Evolves s0 (answerEcho e mac dstIp v6 data s) := by
  unfold answerEcho
  repeat' with_reducible first | assumption | apply reply_ev | dsimp only | split

theorem execArpRequest_ev {s0 s : State} {eth target mac _senderIp} (he : Evolves s0 s) :
    EvolvesTo s0 (execArpRequest eth target mac _senderIp s) := by
  unfold execArpRequest
  repeat' with_reducible first | assumption | apply EvolvesTo.next | apply EvolvesTo.fault | apply answerArp_ev

theorem execNeighbourSolicitation_ev {s0 s : State} {eth target mac _senderIp} (he : Evolves s0 s) :
    EvolvesTo s0 (execNeighbourSolicitation eth target mac _senderIp s) := by
  unfold execNeighbourSolicitation
  repeat' with_reducible first | assumption | apply EvolvesTo.next | apply EvolvesTo.fault | apply answerNeighbour_ev

theorem execEchoRequest_ev {s0 s : State} {eth dstIp v6 mac _senderIp data} (he : Evolves s0 s) :
    EvolvesTo s0 (execEchoRequest eth dstIp v6 mac _senderIp data s) := by
  unfold execEchoRequest
  repeat' with_reducible first | assumption | apply EvolvesTo.next | apply EvolvesTo.fault | apply answerEcho_ev

theorem discardRx_ev {s0 s : State} {e} (he : Evolves s0 s) : Evolves s0 (discardRx e s) := by
  unfold discardRx
  repeat' with_reducible first | assumption | apply bump_ev

theorem execEthLinkLoss_ev {s0 s : State} {eth} (he : Evolves s0 s) : EvolvesTo s0 (execEthLinkLoss eth s) := by
  unfold execEthLinkLoss
  repeat' with_reducible first
    | assumption | apply EvolvesTo.next | apply EvolvesTo.fault | apply setR_ev | apply bump_ev | apply raise_ev
    | dsimp only | split

theorem execEthLinkUp_ev {s0 s : State} {eth} (he : Evolves s0 s) : EvolvesTo s0 (execEthLinkUp eth s) := by
  unfold execEthLinkUp
  repeat' with_reducible first
    | assumption | apply EvolvesTo.next | apply EvolvesTo.fault | apply setR_ev | apply lastWordEth_ev | dsimp only
    | split | fail_if_no_progress (refine Evolves.upd ?_)

theorem execCanBusOff_ev {s0 s : State} {c} (he : Evolves s0 s) : EvolvesTo s0 (execCanBusOff c s) := by
  unfold execCanBusOff
  repeat' with_reducible first
    | assumption | apply EvolvesTo.next | apply EvolvesTo.fault | apply raise_ev | apply setR_ev | apply bump_ev
    | dsimp only | split

theorem execCanBusRecovery_ev {s0 s : State} {c} (he : Evolves s0 s) : EvolvesTo s0 (execCanBusRecovery c s) := by
  unfold execCanBusRecovery
  repeat' with_reducible first
    | assumption | apply EvolvesTo.next | apply EvolvesTo.fault | apply setR_ev | apply lastWordCan_ev | dsimp only
    | split | fail_if_no_progress (refine Evolves.upd ?_)

theorem execLwTemplateRebuild_ev {s0 s : State} (he : Evolves s0 s) : EvolvesTo s0 (execLwTemplateRebuild s) := by
  unfold execLwTemplateRebuild
  repeat' with_reducible first
    | assumption | apply EvolvesTo.next | apply EvolvesTo.fault | dsimp only | split
    | fail_if_no_progress (refine Evolves.upd ?_)

theorem storeWrite_ev {s0 s : State} (he : Evolves s0 s) : Evolves s0 (storeWrite s) := by
  unfold storeWrite
  repeat' with_reducible first | assumption | dsimp only | split | fail_if_no_progress (refine Evolves.upd ?_)

theorem applyStore_ev {s0 s : State} {cold} (he : Evolves s0 s) : Evolves s0 (applyStore cold s) := by
  unfold applyStore
  split
  · exact bump_ev he
  · exact he.values rfl rfl (swf_foldl_sset _ (fun p : Nat × Nat => (_ : Bool) = true) _ _) rfl rfl rfl id

theorem warmReset_ev {s0 s : State} {kind b} (he : Evolves s0 s) : Evolves s0 (warmReset kind b s) :=
  bump_ev (setR_ev (setR_ev ⟨he.pending, he.mem, fun x => swf_filter (he.regs x) _, fun x => sascFrom_filter _ _ 0 (he.staged x), he.fuses, he.wire, he.free⟩))

theorem losePower_ev {s0 s : State} (he : Evolves s0 s) : Evolves s0 (losePower s) :=
  ⟨he.pending, fun _ => rfl, fun _ => rfl, fun _ => rfl, he.fuses, he.wire, he.free.trans (Nat.le_succ _)⟩

theorem execPowerDown_ev {s0 s : State} (he : Evolves s0 s) : EvolvesTo s0 (execPowerDown s) := by
  unfold execPowerDown
  repeat' with_reducible first | assumption | apply EvolvesTo.next | apply EvolvesTo.fault | apply losePower_ev

theorem execColdBoot_ev {s0 s : State} {b} (he : Evolves s0 s) : EvolvesTo s0 (execColdBoot b s) := by
  unfold execColdBoot
  repeat' with_reducible first
    | assumption | apply EvolvesTo.next | apply EvolvesTo.fault | apply losePower_ev | dsimp only | split
    | fail_if_no_progress (refine Evolves.upd ?_)

theorem execPinReset_ev {s0 s : State} {b} (he : Evolves s0 s) : EvolvesTo s0 (execPinReset b s) := by
  unfold execPinReset
  repeat' with_reducible first
    | assumption | apply EvolvesTo.next | apply EvolvesTo.fault | apply warmReset_ev | dsimp only | split
    | fail_if_no_progress (refine Evolves.upd ?_)

theorem execResetNDeasserted_ev {s0 s : State} (he : Evolves s0 s) : EvolvesTo s0 (execResetNDeasserted s) := by
  unfold execResetNDeasserted
  repeat' with_reducible first
    | assumption | apply EvolvesTo.next | apply EvolvesTo.fault | dsimp only | split
    | fail_if_no_progress (refine Evolves.upd ?_)

theorem immediateReset_ev {s0 s : State} {kind b} (he : Evolves s0 s) : Evolves s0 (immediateReset kind b s) := by
  unfold immediateReset
  repeat' with_reducible first
    | assumption | apply warmReset_ev | dsimp only | fail_if_no_progress (refine Evolves.upd ?_)

theorem execFaultReset_ev {s0 s : State} {b} (he : Evolves s0 s) : EvolvesTo s0 (execFaultReset b s) := by
  unfold execFaultReset
  repeat' with_reducible first
    | assumption | apply EvolvesTo.next | apply EvolvesTo.fault | apply immediateReset_ev | dsimp only | split
    | fail_if_no_progress (refine Evolves.upd ?_)

theorem fwImageEnd_ev {s0 s : State} {b} (he : Evolves s0 s) : Evolves s0 (fwImageEnd b s) := by
  unfold fwImageEnd
  repeat' with_reducible first
    | assumption | apply setR_ev | dsimp only | split | fail_if_no_progress (refine Evolves.upd ?_)

theorem execFwFlashWriteDone_ev {s0 s : State} {ok} (he : Evolves s0 s) :
    EvolvesTo s0 (execFwFlashWriteDone ok s) := by
  unfold execFwFlashWriteDone
  repeat' with_reducible first
    | assumption | apply EvolvesTo.next | apply EvolvesTo.fault | apply setR_ev | dsimp only | split
    | fail_if_no_progress (refine Evolves.upd ?_)

theorem setBit_foldl_testBit {c : Nat → Prop} [DecidablePred c] (l : List Nat) :
    ∀ (m k : Nat), m.testBit k → (l.foldl (fun m k => if c k then m else setBit m k) m).testBit k := by
  induction l with
  | nil => intro _ _ h; exact h
  | cons x t ih =>
    intro m k h
    refine ih _ k ?_
    dsimp only
    split
    · exact h
    · simp [setBit, h]

theorem blowSecurity_ev {s0 s : State} (he : Evolves s0 s) : Evolves s0 (blowSecurity s) :=
  he.blows rfl rfl rfl ⟨rfl, le_rfl, le_max_left _ _, fun k => setBit_foldl_testBit _ _ k, KeyBank.le_refl _, KeyBank.le_refl _,
    fun h => ⟨h, rfl⟩⟩ rfl rfl rfl

theorem blowHealth_ev {s0 s : State} (he : Evolves s0 s) : Evolves s0 (blowHealth s) := by
  unfold blowHealth
  split
  · next h =>
    refine he.blows rfl rfl rfl ⟨rfl, le_rfl, le_rfl, fun _ => id, KeyBank.le_refl _, KeyBank.le_refl _, fun k => ?_⟩ rfl rfl rfl
    simp [k] at h
  · exact he

theorem execHealthFuseWriteDone_ev {s0 s : State} (he : Evolves s0 s) : EvolvesTo s0 (execHealthFuseWriteDone s) := by
  unfold execHealthFuseWriteDone
  repeat' with_reducible first | assumption | apply EvolvesTo.next | apply EvolvesTo.fault | apply blowHealth_ev

theorem stopBoot_ev {s0 s : State} {code b phase} (he : Evolves s0 s) : Evolves s0 (stopBoot code b phase s) := by
  unfold stopBoot
  repeat' with_reducible first
    | assumption | apply setR_ev | refine forEach_ev (fun _ _ _ => ?_) ?_ | dsimp only | split
    | fail_if_no_progress (refine Evolves.upd ?_)

theorem calibrate_ev {s0 s : State} {b n} (he : Evolves s0 s) : Evolves s0 (calibrate b n s) := by
  unfold calibrate
  repeat' with_reducible first | assumption | apply setR_ev | apply bumpBy_ev

theorem recordPaces_ev {s0 s : State} {b} (he : Evolves s0 s) : Evolves s0 (recordPaces b s) := by
  unfold recordPaces
  repeat' with_reducible first
    | assumption | apply calibrate_ev | apply setR_ev | refine forEach_ev (fun _ _ _ => ?_) ?_

theorem bootPackage_ev {s0 s : State} {cold} (he : Evolves s0 s) : Evolves s0 (bootPackage cold s) := by
  unfold bootPackage
  repeat' with_reducible first
    | assumption | apply setR_ev | dsimp only | split | fail_if_no_progress (refine Evolves.upd ?_)

theorem enableLinks_ev {s0 s : State} {b} (he : Evolves s0 s) : Evolves s0 (enableLinks b s) := by
  unfold enableLinks
  repeat' with_reducible first
    | assumption | apply setR_ev | refine forEach_ev (fun _ _ _ => ?_) ?_ | dsimp only | split

theorem freshRing_ev {s0 s : State} (he : Evolves s0 s) : Evolves s0 (freshRing s) := by
  unfold freshRing
  repeat' with_reducible first
    | assumption | apply setR_ev | dsimp only | split | fail_if_no_progress (refine Evolves.upd ?_)

theorem bootTest_ev {s0 s : State} {b} (he : Evolves s0 s) : Evolves s0 (bootTest b s) := by
  unfold bootTest
  repeat' with_reducible first
    | assumption | apply failUnits_ev | dsimp only | fail_if_no_progress (refine Evolves.upd ?_)

theorem bootDrained_ev {s0 s : State} (he : Evolves s0 s) : Evolves s0 (bootDrained s) := by
  unfold bootDrained
  repeat' with_reducible first
    | assumption | apply drainChip_ev | dsimp only | split | fail_if_no_progress (refine Evolves.upd ?_)

theorem becomeReady_ev {s0 s : State} {entries} (he : Evolves s0 s) : Evolves s0 (becomeReady entries s) := by
  unfold becomeReady
  repeat' with_reducible first
    | assumption | apply setR_ev | apply blowSecurity_ev | apply enterSafe_ev | dsimp only | split
    | fail_if_no_progress (refine Evolves.upd ?_)

theorem finishBoot_ev {s0 s : State} {b} (he : Evolves s0 s) : Evolves s0 (finishBoot b s) := by
  unfold finishBoot
  repeat' with_reducible first
    | assumption | apply blowHealth_ev | apply stopBoot_ev | apply setR_ev | apply nextFree_ev | apply recordPaces_ev
    | apply bootPackage_ev | apply applyStore_ev | apply enableLinks_ev | apply freshRing_ev | apply becomeReady_ev
    | apply bootDrained_ev | apply bootTest_ev | dsimp only | split | fail_if_no_progress (refine Evolves.upd ?_)

theorem standbyEnter_ev {s0 s : State} (he : Evolves s0 s) : Evolves s0 (standbyEnter s) := by
  unfold standbyEnter
  repeat' with_reducible first
    | assumption | apply captureSource_ev | apply setR_ev | dsimp only | split
    | fail_if_no_progress (refine Evolves.upd ?_)

theorem parkGraph_ev {s0 s : State} {g} (he : Evolves s0 s) : Evolves s0 (parkGraph g s) := by
  unfold parkGraph
  repeat' with_reducible first | assumption | apply releaseRetained_ev | apply freeGraph_ev | dsimp only | split

theorem startWake_ev {s0 s : State} (he : Evolves s0 s) : Evolves s0 (startWake s) := by
  unfold startWake
  repeat' with_reducible first
    | assumption | apply dissent_ev | apply setR_ev | dsimp only | fail_if_no_progress (refine Evolves.upd ?_)

theorem fabricOff_ev {s0 s : State} (he : Evolves s0 s) : Evolves s0 (fabricOff s) := by
  unfold fabricOff
  repeat' with_reducible first
    | assumption | apply freeSpace_ev | dsimp only | split | fail_if_no_progress (refine Evolves.upd ?_)

theorem linksDown_ev {s0 s : State} (he : Evolves s0 s) : Evolves s0 (linksDown s) := by
  unfold linksDown
  repeat' with_reducible first
    | assumption | apply closeFrame_ev | apply setR_ev | refine forEach_ev (fun _ _ _ => ?_) ?_

theorem execStandbyEntryComplete_ev {s0 s : State} (he : Evolves s0 s) :
    EvolvesTo s0 (execStandbyEntryComplete s) := by
  unfold execStandbyEntryComplete
  repeat' with_reducible first
    | assumption | apply EvolvesTo.next | apply EvolvesTo.fault | apply fabricOff_ev | apply parkGraph_ev
    | apply linksDown_ev | apply bump_ev | apply startWake_ev | refine forEach_ev (fun _ _ _ => ?_) ?_ | dsimp only
    | split | fail_if_no_progress (refine Evolves.upd ?_)

theorem execWakeEvent_ev {s0 s : State} {source b} (he : Evolves s0 s) : EvolvesTo s0 (execWakeEvent source b s) := by
  unfold execWakeEvent
  repeat' with_reducible first
    | assumption | apply EvolvesTo.next | apply EvolvesTo.fault | apply setR_ev | apply startWake_ev | dsimp only
    | split | fail_if_no_progress (refine Evolves.upd ?_)

theorem resumeTime_ev {s0 s : State} (he : Evolves s0 s) : Evolves s0 (resumeTime s) := by
  unfold resumeTime
  repeat' with_reducible first
    | assumption | apply setR_ev | apply setServo_ev | apply refreshAs_ev | apply setInstant_ev
    | refine forEach_ev (fun _ _ _ => ?_) ?_ | dsimp only | split

theorem wakeLinks_ev {s0 s : State} {b} (he : Evolves s0 s) : Evolves s0 (wakeLinks b s) := by
  unfold wakeLinks
  repeat' with_reducible first
    | assumption | apply setR_ev | apply enableLinks_ev | refine forEach_ev (fun _ _ _ => ?_) ?_ | dsimp only | split

theorem reactivate_ev {s0 s : State} {g} (he : Evolves s0 s) : Evolves s0 (reactivate g s) := by
  unfold reactivate
  repeat' with_reducible first | assumption | apply activateGraph_ev | apply bump_ev | dsimp only | split

theorem finishWake_ev {s0 s : State} {b} (he : Evolves s0 s) : Evolves s0 (finishWake b s) := by
  unfold finishWake
  repeat' with_reducible first
    | assumption | apply stopBoot_ev | apply recordPaces_ev | apply bootTest_ev | apply wakeLinks_ev
    | apply resumeTime_ev | apply becomeReady_ev | apply reactivate_ev | refine forEach_ev (fun _ _ _ => ?_) ?_
    | dsimp only | split | fail_if_no_progress (refine Evolves.upd ?_)

theorem execReady_ev {s0 s : State} (he : Evolves s0 s) : EvolvesTo s0 (execReady s) := by
  unfold execReady
  repeat' with_reducible first
    | assumption | apply EvolvesTo.next | apply EvolvesTo.fault | apply finishBoot_ev | apply finishWake_ev
    | dsimp only | split

theorem enrol_ev {s0 s : State} {b} (he : Evolves s0 s) : Evolves s0 (enrol b s) := by
  refine he.blows rfl rfl rfl ?_ rfl rfl rfl
  unfold enrol
  dsimp only
  split
  · next h => exact ⟨rfl, le_rfl, le_rfl, fun _ => id, ⟨fun u => by simp [u] at h, id⟩, KeyBank.le_refl _, fun h => ⟨h, rfl⟩⟩
  · split
    · next h => exact ⟨rfl, le_rfl, le_rfl, fun _ => id, KeyBank.le_refl _, ⟨fun u => by simp [u] at h, id⟩, fun h => ⟨h, rfl⟩⟩
    · exact Fuses.le_refl _

theorem execKeyValidFuseBlown_ev {s0 s : State} (he : Evolves s0 s) : EvolvesTo s0 (execKeyValidFuseBlown s) := by
  unfold execKeyValidFuseBlown
  apply EvolvesTo.next
  split
  · refine he.blows rfl rfl rfl ?_ rfl rfl rfl
    dsimp only
    split
    · exact ⟨rfl, le_max_right _ _, le_rfl, fun _ => id, KeyBank.le_refl _, ⟨fun u => ⟨u, rfl⟩, fun _ => rfl⟩, fun h => ⟨h, rfl⟩⟩
    · exact ⟨rfl, le_max_right _ _, le_rfl, fun _ => id, ⟨fun u => ⟨u, rfl⟩, fun _ => rfl⟩, KeyBank.le_refl _, fun h => ⟨h, rfl⟩⟩
  · exact he

theorem startReport_ev {s0 s : State} {nonce} (he : Evolves s0 s) : Evolves s0 (startReport nonce s) := by
  unfold startReport
  repeat' with_reducible first | assumption | fail_if_no_progress (refine Evolves.upd ?_)

theorem execAttestReportReady_ev {s0 s : State} (he : Evolves s0 s) : EvolvesTo s0 (execAttestReportReady s) := by
  unfold execAttestReportReady
  repeat' with_reducible first
    | assumption | apply EvolvesTo.next | apply EvolvesTo.fault | apply setBlob_ev | dsimp only | split
    | fail_if_no_progress (refine Evolves.upd ?_)

theorem execAvsLoopStep_ev {s0 s : State} {avsOk volts amps} (he : Evolves s0 s) :
    EvolvesTo s0 (execAvsLoopStep avsOk volts amps s) := by
  unfold execAvsLoopStep
  repeat' with_reducible first
    | assumption | apply EvolvesTo.next | apply EvolvesTo.fault | apply bump_ev | apply setR_ev | apply emit_ev
    | dsimp only | split

theorem execTemperatureRead_ev {s0 s : State} {celsius} (he : Evolves s0 s) :
    EvolvesTo s0 (execTemperatureRead celsius s) := by
  unfold execTemperatureRead
  repeat' with_reducible first
    | assumption | apply EvolvesTo.next | apply EvolvesTo.fault | apply setR_ev | apply bumpBy_ev
    | refine forEach_ev (fun _ _ _ => ?_) ?_ | dsimp only | split

theorem noteRead_ev {s0 s : State} {k} (he : Evolves s0 s) : Evolves s0 (noteRead k s) := by
  unfold noteRead
  repeat' with_reducible first
    | assumption | dsimp only | split | fail_if_no_progress (refine Evolves.upd ?_)
    | fail_if_no_progress (refine Evolves.updFree ?_ (Nat.le_add_right _ _))

theorem stageNum_ev {s0 s : State} {k v} (he : Evolves s0 s) : Evolves s0 (stageNum k v s) := by
  unfold stageNum
  extract_lets s1
  have h1 : Evolves s0 s1 := he.values rfl rfl id rfl rfl rfl fun x => sascFrom_sinsert _ _ _ 0 (Nat.zero_le _) x
  split
  · exact storeWrite_ev h1
  · exact h1

theorem stageBlob_ev {s0 s : State} {k b} (he : Evolves s0 s) : Evolves s0 (stageBlob k b s) := by
  unfold stageBlob
  repeat' with_reducible first
    | assumption | apply storeWrite_ev | dsimp only | split | fail_if_no_progress (refine Evolves.upd ?_)

theorem clearPending_ev {s0 s : State} {word v} (he : Evolves s0 s) : Evolves s0 (clearPending word v s) := by
  unfold clearPending
  repeat' with_reducible first | assumption | apply setR_ev

theorem bindPort_ev {s0 s : State} {c v} (he : Evolves s0 s) : Evolves s0 (bindPort c v s) := by
  unfold bindPort
  repeat' with_reducible first | assumption | apply modCtx_ev | apply setR_ev

theorem lwWritten_ev {s0 s : State} (he : Evolves s0 s) : Evolves s0 (lwWritten s) := by
  unfold lwWritten
  repeat' with_reducible first | assumption | fail_if_no_progress (refine Evolves.upd ?_)

theorem writeNum_ev {s0 s : State} {k v} (he : Evolves s0 s) : Evolves s0 (writeNum k v s) := by
  unfold writeNum
  repeat' with_reducible first
    | assumption | apply graphCmd_ev | apply ringCmd_ev | apply setR_ev | apply clearPending_ev
    | apply scheduleCommit_ev | apply lwWritten_ev | apply standbyEnter_ev | apply enablePort_ev
    | apply disablePort_ev | apply writeGear_ev | apply bindPort_ev | apply enableDisplay_ev | dsimp only | split

theorem writeBlob_ev {s0 s : State} {k b} (he : Evolves s0 s) : Evolves s0 (writeBlob k b s) := by
  unfold writeBlob
  repeat' with_reducible first
    | assumption | apply loadPackage_ev | apply testPackageEnd_ev | apply lwWritten_ev | apply setBlob_ev
    | apply enrol_ev | apply fwImageEnd_ev | apply startReport_ev | apply i2cStart_ev | apply restartShaper_ev
    | dsimp only | split

theorem applyValue_ev {s0 s : State} {r k b} (he : Evolves s0 s) : Evolves s0 (applyValue r k b s) := by
  unfold applyValue
  repeat' with_reducible first
    | assumption | apply writeNum_ev | apply stageNum_ev | apply writeBlob_ev | apply stageBlob_ev | dsimp only
    | split

theorem asWritten_ev {s0 s : State} {k v} (he : Evolves s0 s) : Evolves s0 (asWritten k v s) := by
  unfold asWritten
  split
  · exact setR_ev he
  · exact he.values rfl rfl id rfl rfl rfl fun x => sascFrom_sinsert _ _ _ 0 (Nat.zero_le _) x

theorem applyAll_ev {s0 s : State} {idx cls b} (he : Evolves s0 s) : Evolves s0 (applyAll idx cls b s) := by
  unfold applyAll
  repeat' with_reducible first | assumption | apply applyValue_ev | refine forEach_ev (fun _ _ _ => ?_) ?_

theorem dropTransfer_ev {s0 s : State} {r} (he : Evolves s0 s) : Evolves s0 (dropTransfer r s) := by
  unfold dropTransfer
  repeat' with_reducible first | assumption | dsimp only | fail_if_no_progress (refine Evolves.upd ?_)

theorem freeReserved_ev {s0 s : State} {src k} (he : Evolves s0 s) : Evolves s0 (freeReserved src k s) := by
  unfold freeReserved
  repeat' with_reducible first | assumption | apply freeSpace_ev

theorem closeTransfer_ev {s0 s : State} {r} (he : Evolves s0 s) : Evolves s0 (closeTransfer r s) := by
  unfold closeTransfer
  repeat' with_reducible first | assumption | apply freeReserved_ev | apply dropTransfer_ev

theorem openTransfer_ev {s0 s : State} {r write off buf} (he : Evolves s0 s) :
    Evolves s0 (openTransfer r write off buf s) := by
  unfold openTransfer
  repeat' with_reducible first | assumption | dsimp only | fail_if_no_progress (refine Evolves.upd ?_)

theorem noTransfer_ev {s0 s : State} {r} (he : Evolves s0 s) : Evolves s0 (noTransfer r s).2 := by
  unfold noTransfer
  repeat' with_reducible first | assumption | apply closeTransfer_ev | dsimp only | split

theorem handleRead_ev {s0 s : State} {r} (he : Evolves s0 s) : Evolves s0 (handleRead r s).2 := by
  unfold handleRead
  repeat' with_reducible first | assumption | apply noteRead_ev | dsimp only | split

theorem handleWrite_ev {s0 s : State} {r} (he : Evolves s0 s) : Evolves s0 (handleWrite r s).2 := by
  unfold handleWrite
  repeat' with_reducible first | assumption | apply applyAll_ev | apply applyValue_ev | dsimp only | split

theorem handleWhole_ev {s0 s : State} {r} (he : Evolves s0 s) : Evolves s0 (handleWhole r s).2 := by
  unfold handleWhole
  repeat' with_reducible first | assumption | apply closeTransfer_ev | apply applyValue_ev | dsimp only | split

theorem readSegment_ev {s0 s : State} {r v} (he : Evolves s0 s) : Evolves s0 (readSegment r v s).2 := by
  unfold readSegment
  repeat' with_reducible first
    | assumption | (refine Evolves.ofPair (by assumption) (ringRead_ev ?_)) | apply ringRead_ev
    | apply closeTransfer_ev | apply noteRead_ev | apply openTransfer_ev | dsimp only | split

theorem handleSegRead_ev {s0 s : State} {r} (he : Evolves s0 s) : Evolves s0 (handleSegRead r s).2 := by
  unfold handleSegRead
  repeat' with_reducible first
    | assumption | (refine Evolves.ofPair (by assumption) (noTransfer_ev ?_)) | apply noTransfer_ev
    | (refine Evolves.ofPair (by assumption) (readSegment_ev ?_)) | apply readSegment_ev | apply closeTransfer_ev
    | dsimp only | split

theorem finishWrite_ev {s0 s : State} {r row b} (he : Evolves s0 s) : Evolves s0 (finishWrite r row b s).2 := by
  unfold finishWrite
  repeat' with_reducible first | assumption | apply closeTransfer_ev | apply applyValue_ev | dsimp only | split

theorem reserveSpace_ev {s0 s : State} {r} (he : Evolves s0 s) : Evolves s0 (reserveSpace r s) := by
  unfold reserveSpace
  repeat' with_reducible first | assumption | apply allocate_ev | dsimp only | split

theorem handleSegWrite_ev {s0 s : State} {r} (he : Evolves s0 s) : Evolves s0 (handleSegWrite r s).2 := by
  unfold handleSegWrite
  repeat' with_reducible first
    | assumption | (refine Evolves.ofPair (by assumption) (finishWrite_ev ?_)) | apply finishWrite_ev
    | apply openTransfer_ev | apply reserveSpace_ev | apply closeTransfer_ev
    | (refine Evolves.ofPair (by assumption) (noTransfer_ev ?_)) | apply noTransfer_ev | apply dropTransfer_ev
    | dsimp only | split

theorem handleCancel_ev {s0 s : State} {r} (he : Evolves s0 s) : Evolves s0 (handleCancel r s).2 := by
  unfold handleCancel
  repeat' with_reducible first | assumption | apply closeTransfer_ev | dsimp only | split

theorem handle_ev {s0 s : State} {r} (he : Evolves s0 s) : Evolves s0 (handle r s).2 := by
  unfold handle
  repeat' with_reducible first
    | assumption | (refine Evolves.ofPair (by assumption) (handleWhole_ev ?_)) | apply handleWhole_ev
    | (refine Evolves.ofPair (by assumption) (handleRead_ev ?_)) | apply handleRead_ev
    | (refine Evolves.ofPair (by assumption) (handleWrite_ev ?_)) | apply handleWrite_ev
    | (refine Evolves.ofPair (by assumption) (handleSegRead_ev ?_)) | apply handleSegRead_ev
    | (refine Evolves.ofPair (by assumption) (handleSegWrite_ev ?_)) | apply handleSegWrite_ev
    | (refine Evolves.ofPair (by assumption) (handleCancel_ev ?_)) | apply handleCancel_ev | dsimp only | split

theorem sendResponse_ev {s0 s : State} {q frame} (he : Evolves s0 s) : Evolves s0 (sendResponse q frame s) := by
  unfold sendResponse
  repeat' with_reducible first | assumption | apply emit_ev | apply bump_ev | dsimp only | split

theorem keep_ev {s0 s : State} {r frame} (he : Evolves s0 s) : Evolves s0 (keep r frame s) := by
  unfold keep
  repeat' with_reducible first | assumption | dsimp only | fail_if_no_progress (refine Evolves.upd ?_)

theorem keepAgain_ev {s0 s : State} {x} (he : Evolves s0 s) : Evolves s0 (keepAgain x s) := by
  unfold keepAgain
  repeat' with_reducible first | assumption | dsimp only | fail_if_no_progress (refine Evolves.upd ?_)

theorem countRequest_ev {s0 s : State} {r a} (he : Evolves s0 s) : Evolves s0 (countRequest r a s) := by
  unfold countRequest
  repeat' with_reducible first | assumption | apply bump_ev | dsimp only | split

theorem serveNew_ev {s0 s : State} {r raised} (he : Evolves s0 s) : Evolves s0 (serveNew r raised s) := by
  unfold serveNew
  repeat' with_reducible first
    | assumption | (refine Evolves.ofPair (by assumption) (handle_ev ?_)) | apply handle_ev | apply leaveSafe_ev
    | apply raiseAll_ev | apply sendResponse_ev | apply keep_ev | apply countRequest_ev | apply immediateReset_ev
    | dsimp only | split

theorem serve_ev {s0 s : State} {r raised} (he : Evolves s0 s) : Evolves s0 (serve r raised s) := by
  unfold serve
  repeat' with_reducible first
    | assumption | apply raiseAll_ev | apply bump_ev | apply sendResponse_ev | apply keepAgain_ev | apply serveNew_ev | dsimp only | split

theorem serveGroup_ev {s0 s : State} {r} (he : Evolves s0 s) : Evolves s0 (serveGroup r s) := by
  unfold serveGroup
  repeat' with_reducible first
    | assumption | apply leaveSafe_ev | (refine Evolves.ofPair (by assumption) (handle_ev ?_)) | apply handle_ev
    | apply bump_ev | dsimp only | split

theorem dialeReceive_ev {s0 s : State} {c b} (he : Evolves s0 s) : Evolves s0 (dialeReceive c b s) := by
  unfold dialeReceive
  repeat' with_reducible first
    | assumption | apply bump_ev | apply serveGroup_ev | apply serve_ev | dsimp only | split

theorem execDialeFrameReceive_ev {s0 s : State} {c bytes} (he : Evolves s0 s) :
    EvolvesTo s0 (execDialeFrameReceive c bytes s) := by
  unfold execDialeFrameReceive
  repeat' with_reducible first
    | assumption | apply EvolvesTo.next | apply EvolvesTo.fault | apply bump_ev | apply dialeReceive_ev | dsimp only
    | split

theorem execRead_ev {s0 s : State} {q idx sub all} (he : Evolves s0 s) : EvolvesTo s0 (execRead q idx sub all s) := by
  unfold execRead
  repeat' with_reducible first | assumption | apply EvolvesTo.next | apply EvolvesTo.fault | apply serve_ev

theorem execWrite_ev {s0 s : State} {q idx sub all payload} (he : Evolves s0 s) :
    EvolvesTo s0 (execWrite q idx sub all payload s) := by
  unfold execWrite
  repeat' with_reducible first | assumption | apply EvolvesTo.next | apply EvolvesTo.fault | apply serve_ev

theorem execSegmentedRead_ev {s0 s : State} {q idx sub off} (he : Evolves s0 s) :
    EvolvesTo s0 (execSegmentedRead q idx sub off s) := by
  unfold execSegmentedRead
  repeat' with_reducible first | assumption | apply EvolvesTo.next | apply EvolvesTo.fault | apply serve_ev

theorem execSegmentedWrite_ev {s0 s : State} {q idx sub off last payload} (he : Evolves s0 s) :
    EvolvesTo s0 (execSegmentedWrite q idx sub off last payload s) := by
  unfold execSegmentedWrite
  repeat' with_reducible first | assumption | apply EvolvesTo.next | apply EvolvesTo.fault | apply serve_ev

theorem execCancel_ev {s0 s : State} {q idx sub} (he : Evolves s0 s) : EvolvesTo s0 (execCancel q idx sub s) := by
  unfold execCancel
  repeat' with_reducible first | assumption | apply EvolvesTo.next | apply EvolvesTo.fault | apply serve_ev

theorem execTransferTimeout_ev {s0 s : State} {n} (he : Evolves s0 s) : EvolvesTo s0 (execTransferTimeout n s) := by
  unfold execTransferTimeout
  repeat' with_reducible first
    | assumption | apply EvolvesTo.next | apply EvolvesTo.fault | apply freeReserved_ev | apply bump_ev | dsimp only
    | split | fail_if_no_progress (refine Evolves.upd ?_)

theorem execPackageWrite_ev {s0 s : State} {q g image} (he : Evolves s0 s) :
    EvolvesTo s0 (execPackageWrite q g image s) := by
  unfold execPackageWrite
  repeat' with_reducible first | assumption | apply EvolvesTo.next | apply EvolvesTo.fault | apply serve_ev

theorem execActivate_ev {s0 s : State} {q g} (he : Evolves s0 s) : EvolvesTo s0 (execActivate q g s) := by
  unfold execActivate
  repeat' with_reducible first | assumption | apply EvolvesTo.next | apply EvolvesTo.fault | apply serve_ev

theorem execDeactivate_ev {s0 s : State} {q g} (he : Evolves s0 s) : EvolvesTo s0 (execDeactivate q g s) := by
  unfold execDeactivate
  repeat' with_reducible first | assumption | apply EvolvesTo.next | apply EvolvesTo.fault | apply serve_ev

theorem execUnload_ev {s0 s : State} {q g} (he : Evolves s0 s) : EvolvesTo s0 (execUnload q g s) := by
  unfold execUnload
  repeat' with_reducible first | assumption | apply EvolvesTo.next | apply EvolvesTo.fault | apply serve_ev

theorem execPendingClear_ev {s0 s : State} {q word value raised} (he : Evolves s0 s) :
    EvolvesTo s0 (execPendingClear q word value raised s) := by
  unfold execPendingClear
  repeat' with_reducible first | assumption | apply EvolvesTo.next | apply EvolvesTo.fault | apply serve_ev

theorem execLatchClear_ev {s0 s : State} {q value raised} (he : Evolves s0 s) :
    EvolvesTo s0 (execLatchClear q value raised s) := by
  unfold execLatchClear
  repeat' with_reducible first | assumption | apply EvolvesTo.next | apply EvolvesTo.fault | apply serve_ev

theorem execReactionWrite_ev {s0 s : State} {q source value} (he : Evolves s0 s) :
    EvolvesTo s0 (execReactionWrite q source value s) := by
  unfold execReactionWrite
  repeat' with_reducible first | assumption | apply EvolvesTo.next | apply EvolvesTo.fault | apply serve_ev

theorem execTestPackageWrite_ev {s0 s : State} {q image} (he : Evolves s0 s) :
    EvolvesTo s0 (execTestPackageWrite q image s) := by
  unfold execTestPackageWrite
  repeat' with_reducible first | assumption | apply EvolvesTo.next | apply EvolvesTo.fault | apply serve_ev

theorem execPortEnable_ev {s0 s : State} {q p} (he : Evolves s0 s) : EvolvesTo s0 (execPortEnable q p s) := by
  unfold execPortEnable
  repeat' with_reducible first | assumption | apply EvolvesTo.next | apply EvolvesTo.fault | apply serve_ev

theorem execPortDisable_ev {s0 s : State} {q p} (he : Evolves s0 s) : EvolvesTo s0 (execPortDisable q p s) := by
  unfold execPortDisable
  repeat' with_reducible first | assumption | apply EvolvesTo.next | apply EvolvesTo.fault | apply serve_ev

theorem execPortGearWrite_ev {s0 s : State} {q p value} (he : Evolves s0 s) :
    EvolvesTo s0 (execPortGearWrite q p value s) := by
  unfold execPortGearWrite
  repeat' with_reducible first | assumption | apply EvolvesTo.next | apply EvolvesTo.fault | apply serve_ev

theorem execPortRateWrite_ev {s0 s : State} {q p sub value} (he : Evolves s0 s) :
    EvolvesTo s0 (execPortRateWrite q p sub value s) := by
  unfold execPortRateWrite
  repeat' with_reducible first | assumption | apply EvolvesTo.next | apply EvolvesTo.fault | apply serve_ev

theorem execPortBind_ev {s0 s : State} {q ctx value} (he : Evolves s0 s) :
    EvolvesTo s0 (execPortBind q ctx value s) := by
  unfold execPortBind
  repeat' with_reducible first | assumption | apply EvolvesTo.next | apply EvolvesTo.fault | apply serve_ev

theorem execI2cReq_ev {s0 s : State} {q p bytes} (he : Evolves s0 s) : EvolvesTo s0 (execI2cReq q p bytes s) := by
  unfold execI2cReq
  repeat' with_reducible first | assumption | apply EvolvesTo.next | apply EvolvesTo.fault | apply serve_ev

theorem execParamHoldWrite_ev {s0 s : State} {q ctx value} (he : Evolves s0 s) :
    EvolvesTo s0 (execParamHoldWrite q ctx value s) := by
  unfold execParamHoldWrite
  repeat' with_reducible first | assumption | apply EvolvesTo.next | apply EvolvesTo.fault | apply serve_ev

theorem execRingFreeze_ev {s0 s : State} {q} (he : Evolves s0 s) : EvolvesTo s0 (execRingFreeze q s) := by
  unfold execRingFreeze
  repeat' with_reducible first | assumption | apply EvolvesTo.next | apply EvolvesTo.fault | apply serve_ev

theorem execRingRelease_ev {s0 s : State} {q} (he : Evolves s0 s) : EvolvesTo s0 (execRingRelease q s) := by
  unfold execRingRelease
  repeat' with_reducible first | assumption | apply EvolvesTo.next | apply EvolvesTo.fault | apply serve_ev

theorem execRingDataRead_ev {s0 s : State} {q} (he : Evolves s0 s) : EvolvesTo s0 (execRingDataRead q s) := by
  unfold execRingDataRead
  repeat' with_reducible first
    | assumption | apply EvolvesTo.next | apply EvolvesTo.fault | apply serve_ev
    | refine forEach_ev (fun _ _ _ => ?_) ?_

theorem execRingCursorWrite_ev {s0 s : State} {q value} (he : Evolves s0 s) :
    EvolvesTo s0 (execRingCursorWrite q value s) := by
  unfold execRingCursorWrite
  repeat' with_reducible first | assumption | apply EvolvesTo.next | apply EvolvesTo.fault | apply serve_ev

theorem execRingSizeWrite_ev {s0 s : State} {q value} (he : Evolves s0 s) :
    EvolvesTo s0 (execRingSizeWrite q value s) := by
  unfold execRingSizeWrite
  repeat' with_reducible first | assumption | apply EvolvesTo.next | apply EvolvesTo.fault | apply serve_ev

theorem execTimeCommit_ev {s0 s : State} {q value} (he : Evolves s0 s) : EvolvesTo s0 (execTimeCommit q value s) := by
  unfold execTimeCommit
  repeat' with_reducible first | assumption | apply EvolvesTo.next | apply EvolvesTo.fault | apply serve_ev

theorem execStagedTimeWrite_ev {s0 s : State} {q idx sub value} (he : Evolves s0 s) :
    EvolvesTo s0 (execStagedTimeWrite q idx sub value s) := by
  unfold execStagedTimeWrite
  repeat' with_reducible first | assumption | apply EvolvesTo.next | apply EvolvesTo.fault | apply serve_ev

theorem execFrerWrite_ev {s0 s : State} {q n sub value} (he : Evolves s0 s) :
    EvolvesTo s0 (execFrerWrite q n sub value s) := by
  unfold execFrerWrite
  repeat' with_reducible first | assumption | apply EvolvesTo.next | apply EvolvesTo.fault | apply serve_ev

theorem execDspEnable_ev {s0 s : State} {q d value} (he : Evolves s0 s) :
    EvolvesTo s0 (execDspEnable q d value s) := by
  unfold execDspEnable
  repeat' with_reducible first | assumption | apply EvolvesTo.next | apply EvolvesTo.fault | apply serve_ev

theorem execDspTimingWrite_ev {s0 s : State} {q d sub value} (he : Evolves s0 s) :
    EvolvesTo s0 (execDspTimingWrite q d sub value s) := by
  unfold execDspTimingWrite
  repeat' with_reducible first | assumption | apply EvolvesTo.next | apply EvolvesTo.fault | apply serve_ev

theorem execPlaneSourceWrite_ev {s0 s : State} {q d p value} (he : Evolves s0 s) :
    EvolvesTo s0 (execPlaneSourceWrite q d p value s) := by
  unfold execPlaneSourceWrite
  repeat' with_reducible first | assumption | apply EvolvesTo.next | apply EvolvesTo.fault | apply serve_ev

theorem execResetCmd_ev {s0 s : State} {q value b} (he : Evolves s0 s) : EvolvesTo s0 (execResetCmd q value b s) := by
  unfold execResetCmd
  repeat' with_reducible first | assumption | apply EvolvesTo.next | apply EvolvesTo.fault | apply serve_ev

theorem execFwImageWrite_ev {s0 s : State} {q image} (he : Evolves s0 s) :
    EvolvesTo s0 (execFwImageWrite q image s) := by
  unfold execFwImageWrite
  repeat' with_reducible first | assumption | apply EvolvesTo.next | apply EvolvesTo.fault | apply serve_ev

theorem execCustomerKeyWrite_ev {s0 s : State} {q value} (he : Evolves s0 s) :
    EvolvesTo s0 (execCustomerKeyWrite q value s) := by
  unfold execCustomerKeyWrite
  repeat' with_reducible first | assumption | apply EvolvesTo.next | apply EvolvesTo.fault | apply serve_ev

theorem execAttestNonceWrite_ev {s0 s : State} {q value} (he : Evolves s0 s) :
    EvolvesTo s0 (execAttestNonceWrite q value s) := by
  unfold execAttestNonceWrite
  repeat' with_reducible first | assumption | apply EvolvesTo.next | apply EvolvesTo.fault | apply serve_ev

theorem execStandbyCmd_ev {s0 s : State} {q value} (he : Evolves s0 s) : EvolvesTo s0 (execStandbyCmd q value s) := by
  unfold execStandbyCmd
  repeat' with_reducible first | assumption | apply EvolvesTo.next | apply EvolvesTo.fault | apply serve_ev

theorem dispatchEth_ev {s0 s : State} {f} (he : Evolves s0 s) : Evolves s0 (dispatchEth f s) := by
  unfold dispatchEth
  repeat' with_reducible first
    | assumption | apply discardRx_ev | apply dialeReceive_ev | apply pclReceive_ev | apply answerArp_ev
    | apply answerNeighbour_ev | apply answerEcho_ev | dsimp only | split

theorem execEthFrameReceive_ev {s0 s : State} {f} (he : Evolves s0 s) : EvolvesTo s0 (execEthFrameReceive f s) := by
  unfold execEthFrameReceive
  repeat' with_reducible first
    | assumption | apply EvolvesTo.next | apply EvolvesTo.fault
    | (refine Evolves.ofPair (by assumption) (qciPass_ev ?_)) | apply qciPass_ev | apply bump_ev | apply discardRx_ev
    | apply dispatchEth_ev | dsimp only | split

end Sys2Proof.Machine
end

