-- ==== Sys2Proof/Laws/Reacts.lean ====
section
/-! SUPPORT. One relation for what raising a fault may change, with a law for each step of it: stores, the boot flash, fuses,
time, sensors, displays, transfers and the queue stay, and so does every dictionary value but those of `raiseKey`. -/

namespace Sys2Proof.Machine

open Sys2Proof

/-- The dictionary values that a raise and its reaction may write. -/
def raiseKey (k : Key) : Bool :=
  let i := k / 256
  [0x5000, 0x5001, 0x5003, 0x5014, 0x4021, 0x5037, 0x5013, 0x5011, 0x5012, 0x5031, 0x5033, 0x5038].contains i
    || (decide (0x6200 ≤ i) && decide (i ≤ 0x620F)) || decide (0x6800 ≤ i)

/-- `t` may be `s` after a raise with its reaction. -/
structure Reacts (s t : State) : Prop where
  values : ∀ k, raiseKey k = false → t.r k = s.r k
  staged : t.staged = s.staged
  stagedBlobs : t.stagedBlobs = s.stagedBlobs
  mem : t.mem = s.mem
  dramErr : t.dramErr = s.dramErr
  space : t.space = s.space
  sram : t.sram = s.sram
  pad : t.pad = s.pad
  fuses : t.fuses = s.fuses
  flash : t.flash = s.flash
  rooster : t.rooster = s.rooster
  ring : t.ring = s.ring
  ports : t.ports = s.ports
  scans : t.scans = s.scans
  lines : t.lines = s.lines
  plru : t.plru = s.plru
  segs : t.segs = s.segs
  pace : t.pace = s.pace
  disp : t.disp = s.disp
  diale : t.diale = s.diale
  free : t.free = s.free
  pending : t.pending = s.pending

theorem Reacts.refl (s : State) : Reacts s s := by constructor <;> first | rfl | exact fun _ _ => rfl

theorem Reacts.trans {s t u : State} (h : Reacts s t) (k : Reacts t u) : Reacts s u :=
  ⟨fun x hx => (k.values x hx).trans (h.values x hx), k.staged.trans h.staged, k.stagedBlobs.trans h.stagedBlobs, k.mem.trans h.mem,
    k.dramErr.trans h.dramErr, k.space.trans h.space, k.sram.trans h.sram, k.pad.trans h.pad, k.fuses.trans h.fuses, k.flash.trans h.flash,
    k.rooster.trans h.rooster, k.ring.trans h.ring, k.ports.trans h.ports, k.scans.trans h.scans, k.lines.trans h.lines,
    k.plru.trans h.plru, k.segs.trans h.segs, k.pace.trans h.pace, k.disp.trans h.disp, k.diale.trans h.diale,
    k.free.trans h.free, k.pending.trans h.pending⟩

theorem Reacts.memByte {s t : State} (h : Reacts s t) (a : Nat) : t.memByte a = s.memByte a := by
  simp only [State.memByte, h.mem]

theorem Reacts.burstErr {s t : State} (h : Reacts s t) (n : Nat) : t.burstErr n = s.burstErr n := by
  simp only [State.burstErr, h.dramErr]

theorem Reacts.port {s t : State} (h : Reacts s t) (n : Nat) : t.port n = s.port n := by simp only [State.port, h.ports]

/-- An update of a value that a raise may write. -/
theorem Reacts.setR {s t : State} (h : Reacts s t) {k : Key} (hk : raiseKey k = true) (v : Nat) : Reacts s (t.setR k v) := by
  refine h.trans ?_
  constructor <;> first
    | rfl
    | exact fun j hj => State.r_setR_of_ne t (fun e => by rw [e, hk] at hj; cases hj) v

theorem Reacts.bump {s t : State} (h : Reacts s t) {k : Key} (hk : raiseKey k = true) : Reacts s (t.bump k) := h.setR hk _

theorem Reacts.bumpBy {s t : State} (h : Reacts s t) {k : Key} (hk : raiseKey k = true) (n : Nat) : Reacts s (t.bumpBy k n) := h.setR hk _

/-- An update of fields that a raise may change, as the record it makes. -/
theorem Reacts.upd {s t : State} (h : Reacts s t)
    {blobs aon sys ctxs pipes slots units acc rows lanes gooses wins mons ift sup net wire} :
    Reacts s (State.mk
      t.regs t.staged blobs t.stagedBlobs t.mem t.dramErr t.space t.sram t.pad t.fuses t.flash aon sys
      t.rooster t.ring t.ports ctxs pipes t.scans slots units acc rows lanes gooses t.lines t.plru wins
      t.segs mons t.pace ift sup net t.disp t.diale wire t.free t.pending) := by
  refine h.trans ?_
  constructor <;> first | rfl | exact fun _ _ => rfl

/-- A loop of steps that a raise may make. -/
theorem Reacts.forEach {α : Type} {l : List α} {f : α → State → State} {s0 s : State} (hf : ∀ a ∈ l, ∀ t, Reacts s0 t → Reacts s0 (f a t))
    (h : Reacts s0 s) : Reacts s0 (Sys2Proof.Machine.forEach l f s) := by
  induction l generalizing s with
  | nil => exact h
  | cons a l ih =>
    exact ih (fun b hb => hf b (List.mem_cons_of_mem _ hb)) (hf a List.mem_cons_self _ h)

/-! ## Frames and graphs -/

theorem reacts_modSlot {s0 s : State} (h : Reacts s0 s) (g f) : Reacts s0 (modSlot g f s) := h.upd

theorem reacts_markStation {s0 s : State} (h : Reacts s0 s) (g st f b) : Reacts s0 (markStation g st f b s) := by
  unfold markStation noteWithheld modFrame
  exact reacts_modSlot (reacts_modSlot h _ _) _ _

theorem raiseKey_index {k i : Nat} (h : k / 256 = i) (hi : [0x5000, 0x5001, 0x5003, 0x5014, 0x4021, 0x5037, 0x5013, 0x5011, 0x5012, 0x5031,
    0x5033, 0x5038].contains i = true) : raiseKey k = true := by simp only [raiseKey, h, hi, Bool.true_or]

theorem raiseKey_high {k : Nat} (h : 0x680000 ≤ k) : raiseKey k = true := by
  have : 0x6800 ≤ k / 256 := by omega
  simp [raiseKey, this]

theorem reacts_joinQueues {s0 s : State} (h : Reacts s0 s) (n : Nat) : Reacts s0 (joinQueues n s) := by
  unfold joinQueues
  refine Reacts.forEach (fun q _ t ht => ?_) h
  split
  · exact ht
  · exact ht.upd

theorem reacts_releaseStream {s0 s : State} (h : Reacts s0 s) (x : Rec) : Reacts s0 (releaseStream x s) := by
  have h1 : Reacts s0 ((joinQueues x.stream s).setR (Reg.STR_SEQ x.stream) ((s.r (Reg.STR_SEQ x.stream) + 1) % 2 ^ 32)) :=
    (reacts_joinQueues h x.stream).setR (raiseKey_high (by simp only [Reg.STR_SEQ]; omega)) _
  unfold releaseStream queueRecord
  dsimp only
  split
  · exact (h1.bump (raiseKey_high (by simp only [Reg.STR_TX_DROP]; omega))).upd
  · exact h1.upd

theorem reacts_releaseRecord {s0 s : State} (h : Reacts s0 s) {g : Nat} (hg : g < 255) (st f kind b) :
    Reacts s0 (releaseRecord g st f kind b s) := by
  unfold releaseRecord
  split
  · exact h
  · dsimp only
    have hk : ∀ k, k = Reg.GATE_VALID g ∨ k = Reg.GATE_NOT_VALID g → raiseKey k = true := by
      rintro k (rfl | rfl)
      · exact raiseKey_index (i := 0x5011) (by simp only [Reg.GATE_VALID]; omega) (by decide)
      · exact raiseKey_index (i := 0x5012) (by simp only [Reg.GATE_NOT_VALID]; omega) (by decide)
    have h1 : ∀ k, (k = Reg.GATE_VALID g ∨ k = Reg.GATE_NOT_VALID g) → ∀ F, Reacts s0 (modFrame g st f F (s.bump k)) :=
      fun k e F => reacts_modSlot (h.bump (hk k e)) _ _
    split
    · refine Reacts.upd (h1 _ ?_ _); split <;> simp
    · refine reacts_releaseStream (h1 _ ?_ _) _; split <;> simp

theorem reacts_flushRecords {s0 s : State} (h : Reacts s0 s) {g : Nat} (hg : g < 255) (st) : Reacts s0 (flushRecords g st s) := by
  refine Reacts.forEach (fun f _ t ht => ?_) h
  split
  · exact ht
  · exact reacts_releaseRecord ht hg _ _ _ _

theorem reacts_voidTasks {s0 s : State} (h : Reacts s0 s) (g f) : Reacts s0 (voidTasks g f s) := by
  refine Reacts.forEach (fun m _ t ht => ?_) h
  split
  · exact ht.upd
  · exact ht

theorem reacts_abandonStation {s0 s : State} (h : Reacts s0 s) {g : Nat} (hg : g < 255) (st f) : Reacts s0 (abandonStation g st f s) := by
  unfold abandonStation
  have h1 : ∀ F, Reacts s0 ((modFrame g st f F s).bump (Reg.ABANDONED g)) := fun F =>
    (reacts_modSlot h _ _).bump (raiseKey_index (i := 0x5013) (by simp only [Reg.ABANDONED]; omega) (by decide))
  split
  · exact h
  · split
    · exact h
    · dsimp only
      split
      · exact reacts_voidTasks (reacts_flushRecords (h1 _) hg _) _ _
      · exact h1 _

theorem reacts_abandonGraph {s0 s : State} (h : Reacts s0 s) {g : Nat} (hg : g < 255) : Reacts s0 (abandonGraph g s) := by
  unfold abandonGraph
  exact reacts_modSlot (Reacts.forEach (fun _ _ _ ht => reacts_abandonStation ht hg _ _) h) _ _

/-! ## The safe state -/

theorem reacts_captureSource {s0 s : State} (h : Reacts s0 s) (src) : Reacts s0 (captureSource src s) := by
  refine Reacts.forEach (fun c hc t ht => ?_) h
  have hc := List.mem_range.1 hc
  split
  · refine Reacts.bump ht.upd ?_
    have e : ((0x6200 + c) * 256 + 2) / 256 = 0x6200 + c := by omega
    show raiseKey ((0x6200 + c) * 256 + 2) = true
    have h1 : 0x6200 ≤ 0x6200 + c := by omega
    have h2 : 0x6200 + c ≤ 0x620F := by omega
    simp only [raiseKey, e, h1, h2, decide_true, Bool.and_true, Bool.or_true, Bool.true_or]
  · exact ht

theorem reacts_emitLastWord {s0 s : State} (h : Reacts s0 s) (x v b) : Reacts s0 (emitLastWord x v b s) :=
  (Reacts.bump h.upd (by decide)).bump (by decide)

theorem reacts_sendLastWord {s0 s : State} (h : Reacts s0 s) : Reacts s0 (sendLastWord s) := by
  have h1 : ∀ x b, Reacts s0 (if ethUp s 0 then lastWordEth x b s else { s with net := { s.net with heldLwEth := some (x, b) } }) := by
    intro x b
    split
    · unfold lastWordEth; dsimp only
      split
      · exact reacts_emitLastWord h _ _ _
      · exact reacts_emitLastWord (reacts_emitLastWord h _ _ _) _ _ _
    · exact h.upd
  have h2 : ∀ x b t, Reacts s0 t → Reacts s0 (if canUp t 0 then lastWordCan x b t else { t with net := { t.net with heldLwCan := some (x, b) } }) := by
    intro x b t ht
    split
    · exact (Reacts.bump (k := Reg.LW_SENT) ht.upd (by decide)).bump (k := Reg.CAN_TX_FRAMES 0) (by decide)
    · exact ht.upd
  exact h2 _ _ _ (h1 _ _)

theorem reacts_ringFreezeNow {s0 s : State} (h : Reacts s0 s) : Reacts s0 (ringFreezeNow s) := by
  unfold ringFreezeNow ringSettle
  split
  · split
    · exact ((h.setR (by decide) _).setR (by decide) _).setR (by decide) _
    · exact (h.setR (by decide) _).setR (by decide) _
  · exact h

theorem reacts_enterSafe {s0 s : State} (h : Reacts s0 s) : Reacts s0 (enterSafe s) := by
  have h1 : Reacts s0 (if s.sys.errLow then s else captureSource 0x30 { s with sys := { s.sys with errLow := true } }) := by
    split
    · exact h
    · exact reacts_captureSource h.upd _
  have h2 : ∀ t, Reacts s0 t → Reacts s0 (sendLastWord (clearWaiting ((t.setR Reg.SAFE_STATE 1).bump Reg.SAFE_ENTRIES))) :=
    fun t ht => reacts_sendLastWord ((ht.setR (by decide) 1).bump (by decide)).upd
  have h3 : ∀ t, Reacts s0 t → Reacts s0 (if t.on Reg.RING_AUTOFREEZE then ringFreezeNow t else t) := by
    intro t ht
    split
    · exact reacts_ringFreezeNow ht
    · exact ht
  exact h3 _ (h2 _ h1)

theorem reacts_ensureSafe {s0 s : State} (h : Reacts s0 s) : Reacts s0 (ensureSafe s) := by
  unfold ensureSafe
  split
  · exact h
  · exact reacts_enterSafe h

/-! ## Raises -/

theorem reacts_sourceBit {s0 s : State} (h : Reacts s0 s) {src : Nat} (hs : src < 256) {n : Nat} (hn : n < 8) {base : Nat → Key}
    (hb : ∀ i, base i = 0x500300 + n + i) : Reacts s0 (sourceBit base src s) := by
  refine h.setR (raiseKey_index (i := 0x5003) ?_ (by decide)) _
  rw [hb]
  have : src / 64 < 4 := by omega
  omega

theorem reacts_raiseCore {s0 s : State} (h : Reacts s0 s) {src : Nat} (hs : src < 256) {who : Ident} : Reacts s0 (raiseCore src who s) := by
  have h1 : Reacts s0 (sourceBit Reg.PENDING src (s.bump (Reg.FAULT_COUNT (src - 1)))) :=
    reacts_sourceBit (n := 1) (h.bump (raiseKey_index (i := 0x5001) (by simp only [Reg.FAULT_COUNT]; omega) (by decide))) hs
      (by decide) (fun i => rfl)
  have h2 : ∀ c : Nat, Reacts s0 (if 2 ≤ c then latchSource src (sourceBit Reg.PENDING src (s.bump (Reg.FAULT_COUNT (src - 1))))
      else sourceBit Reg.PENDING src (s.bump (Reg.FAULT_COUNT (src - 1)))) := by
    intro c
    split
    · unfold latchSource
      split
      · exact h1.setR (by decide) _
      · exact h1.setR (by decide) _
    · exact h1
  have h3 : ∀ c t, Reacts s0 t → Reacts s0 (informTrio c src who t) := by
    intro c t ht; unfold informTrio
    split_ifs <;> first | exact ht | exact ht.upd
  unfold raiseCore
  dsimp only
  split
  · exact reacts_ensureSafe (reacts_sourceBit (n := 3) (h3 _ _ (h2 _)) hs (by decide) (fun i => rfl))
  · exact h3 _ _ (h2 _)

theorem reacts_drainChip {s0 s : State} (h : Reacts s0 s) (cause) : Reacts s0 (drainChip cause s) := by
  unfold drainChip
  split
  · exact h
  · have h1 := reacts_raiseCore (src := Src.DRAIN) (who := .none) (s := { s.setR Reg.DRAINED 1 with aon := { (s.setR Reg.DRAINED 1).aon with
      health1 := true, drainCause := if (s.setR Reg.DRAINED 1).aon.health1 then (s.setR Reg.DRAINED 1).aon.drainCause else cause } })
      ((h.setR (by decide) 1).upd) (by decide)
    have h2 := Reacts.forEach (l := List.range 64) (f := fun g s => if (s.slot g).frames = [] then s else abandonGraph g s)
      (fun g hg t ht => by
        have := List.mem_range.1 hg
        split
        · exact ht
        · exact reacts_abandonGraph ht (by omega)) h1
    have h3 := Reacts.forEach (l := List.range 60) (f := drainUnit) (fun _ _ _ ht => ht.upd) h2
    exact h3.upd

/-! ## Restarts -/

theorem reacts_closeBlockWindows {s0 s : State} (h : Reacts s0 s) (b) : Reacts s0 (closeBlockWindows b s) := by
  refine Reacts.forEach (fun w _ t ht => ?_) h
  dsimp only
  split
  · exact ht
  · exact ht.upd

theorem reacts_resetUnit {s0 s : State} (h : Reacts s0 s) (u) : Reacts s0 (resetUnit u s) := by
  unfold resetUnit
  extract_lets x keep together fresh set s1 s2
  refine Reacts.forEach (fun e _ t ht => reacts_markStation ht _ _ _ _) ?_
  have h1 : ∀ x, Reacts s0 (s.setUnit u x) := fun _ => h.upd
  show Reacts s0 (if u < 32 then _ else _)
  split
  · exact reacts_closeBlockWindows (Reacts.upd (h1 _)) _
  · exact Reacts.upd (h1 _)

theorem reacts_restart {s0 s : State} (h : Reacts s0 s) (u) : Reacts s0 (restart u s) := by
  unfold restart
  split
  · exact h
  · exact (Reacts.forEach (fun v _ t ht => reacts_resetUnit ht v) (h.bump (by decide))).bumpBy (by decide) _

/-- Raising a source, whatever its reaction. -/
theorem reacts_raise {s0 s : State} (h : Reacts s0 s) {src : Nat} (hs : src < 256) (who : Ident) : Reacts s0 (raise src who s) := by
  have h1 := reacts_raiseCore h hs (who := who)
  unfold raise
  dsimp only
  split
  · split
    · exact reacts_restart h1 _
    · exact h1
  · split
    · split
      · exact reacts_drainChip h1 _
      · exact h1.upd
    · exact h1

theorem reacts_raiseAll {s0 s : State} (h : Reacts s0 s) {l : List Nat} (hl : ∀ x ∈ l, x < 256) : Reacts s0 (raiseAll l s) :=
  Reacts.forEach (fun x hx _ ht => reacts_raise ht (hl x ((List.mergeSort_perm _ _).mem_iff.1 hx)) _) h

/-- An occurrence against a unit. -/
theorem reacts_occurrence {s0 s : State} (h : Reacts s0 s) (src u) : Reacts s0 (occurrence src u s) := by
  have h1 : ∀ k, occurrenceKey u = some k → raiseKey k = true := by
    intro k e
    unfold occurrenceKey at e
    split_ifs at e with a b
    · cases e; exact raiseKey_index (i := 0x5031) (by simp only [Reg.OX_OCCURRENCES]; omega) (by decide)
    · cases e; exact raiseKey_index (i := 0x5033) (by simp only [Reg.VEC_OCCURRENCES]; omega) (by decide)
  have h2 : ∀ t, Reacts s0 t → Reacts s0 (match sfind u t.aon.suspect with
      | some d => if t.t3 < d then drainChip src (t.setR Reg.SUSPECT (setBit (t.r Reg.SUSPECT) u))
        else { t with aon := { t.aon with suspect := sinsert u (t.t3 + suspectSpan) t.aon.suspect } }
      | none => { t with aon := { t.aon with suspect := sinsert u (t.t3 + suspectSpan) t.aon.suspect } }) := by
    intro t ht
    split
    · split
      · exact reacts_drainChip (ht.setR (by decide) _) _
      · exact ht.upd
    · exact ht.upd
  unfold occurrence
  cases e : occurrenceKey u with
  | none => exact h2 _ h
  | some k => exact h2 _ (h.bump (h1 k e))

theorem reacts_unitFault {s0 s : State} (h : Reacts s0 s) {src : Nat} (hs : src < 256) (u who) : Reacts s0 (unitFault src u who s) := by
  unfold unitFault
  dsimp only
  split
  · exact reacts_occurrence (reacts_raise (reacts_restart h _) hs _) _ _
  · exact reacts_raise (reacts_restart h _) hs _

/-! ## Withdrawing units changes units alone -/

theorem setStatus_units (us : List Nat) (st : Status) (s : State) : ∃ x, setStatus us st s = { s with units := x } := by
  unfold setStatus
  refine forEach_induct (P := fun t => ∃ x, t = { s with units := x }) ?_ ⟨s.units, rfl⟩
  rintro v t ⟨x, rfl⟩
  exact ⟨_, rfl⟩

theorem tryWithdraw_units (u : Nat) (s : State) : ∃ x, tryWithdraw u s = { s with units := x } := by
  unfold tryWithdraw
  dsimp only
  split
  · exact ⟨s.units, rfl⟩
  · split
    · exact setStatus_units _ _ _
    · split
      · exact setStatus_units _ _ _
      · exact ⟨s.units, rfl⟩

theorem withdrawals_units (l : List Nat) {s t : State} (h : ∃ x, t = { s with units := x }) :
    ∃ x, forEach l tryWithdraw t = { s with units := x } :=
  forEach_induct (P := fun t => ∃ x, t = { s with units := x })
    (fun u t ⟨_, h⟩ => by obtain ⟨y, hy⟩ := tryWithdraw_units u t; exact ⟨y, by rw [hy, h]⟩) h

/-- Settling the test and slice calls changes the units and nothing else. -/
theorem settleUnits_units (s : State) : ∃ x, settleUnits s = { s with units := x } := by
  unfold settleUnits
  split
  · exact ⟨s.units, rfl⟩
  · exact withdrawals_units _ (withdrawals_units _ (setStatus_units _ _ _))

@[simp] theorem r_settleUnits (s : State) (k : Key) : (settleUnits s).r k = s.r k := by
  obtain ⟨x, h⟩ := settleUnits_units s; rw [h]; rfl
@[simp] theorem slot_settleUnits (s : State) (g : Nat) : (settleUnits s).slot g = s.slot g := by
  obtain ⟨x, h⟩ := settleUnits_units s; rw [h]; rfl
@[simp] theorem segs_settleUnits (s : State) : (settleUnits s).segs = s.segs := by
  obtain ⟨x, h⟩ := settleUnits_units s; rw [h]
@[simp] theorem mem_settleUnits (s : State) : (settleUnits s).mem = s.mem := by
  obtain ⟨x, h⟩ := settleUnits_units s; rw [h]

end Sys2Proof.Machine
end

