-- ==== Sys2Proof/WellFormed.lean ====
section
/-! DEFINITION. Which commands the world can give: the checks on operands that their types do not make. A meaning runs on
every command; these checks say which operands stand for something the spec lets happen. -/

namespace Sys2Proof

/-- What a boot meets: 32 channels (R235), the five monitors of the characterisation (R45). -/
def BootInputs.wf (b : BootInputs) : Bool := decide (b.density.length = 32) && decide (b.readings.length = 5)

/-- An error pattern names each wrong symbol of a burst once, with the bits wrong in it (R242). -/
def burstErrWf (e : BurstErr) : Bool := decide (e.map fun p => p.1).Nodup && e.all fun p => decide (p.2 ≠ 0#8)

/-- A defect of a beat flips some bit. -/
def BeatFlip.wf : BeatFlip → Bool
  | .adder _ _ bits => decide (bits ≠ 0#32)
  | .reg _ _ _ bits => decide (bits ≠ 0#9)

/-- A vector block has 512 lanes (R21). -/
def LaneSrc.wf : LaneSrc → Bool
  | .given v => decide (v.length ≤ 512)
  | .lanes => true
  | .operand _ _ => true

/-- A carrier: a frame on CAN FD has at most 64 bytes, one on UDP fits into an Ethernet payload (R445). -/
def carrierWf (c : Carrier) (n : Nat) : Bool := if 3 ≤ c.port.val then decide (n ≤ 64) else decide (n ≤ 1500)

/-- A unit that computes: an Ox or a vector block. -/
def UnitRef.computes : UnitRef → Bool
  | .ox _ => true
  | .vec _ => true
  | .mule _ => false
  | .goose _ => false

/-- The capture sources of R335 without 0xFF. -/
def captureSourceWf (n : Nat) : Bool := decide (n ≤ 9) || (decide (0x10 ≤ n) && decide (n ≤ 0x27)) || decide (n = 0x30)

/-- Whether a domain carries the camera or display port that is hit (R40). -/
def bridgeWf (d : Nat) (port : Option (Fin 24)) : Bool :=
  match port with
  | some p => if d = 22 then decide (p.val < 4) else decide (16 ≤ d) && decide (d ≤ 21) && decide (p.val / 4 = d - 16)
  | none => true

/-- The words of the on-chip memories that exist (R223, R228). -/
def ScrubWord.wf : ScrubWord → Bool
  | .scratch _ row word => decide (row < 8192) && decide (word < 64)
  | .regionData _ _ => true
  | .regionTag _ set way => decide (set < 4096) && decide (way < 16)
  | .other _ => true

/-- Whether a command is one that the world can give. -/
def Instr.wf : Instr → Bool
  | .dialeFrameReceive c bytes => carrierWf c bytes.length
  | .read _ _ _ _ => true
  | .write _ _ _ _ _ => true
  | .segmentedRead _ _ _ _ => true
  | .segmentedWrite _ _ _ _ _ _ => true
  | .cancel _ _ _ => true
  | .transferTimeout n => decide (n < 8)
  | .packageWrite _ _ _ => true
  | .activate _ _ => true
  | .deactivate _ _ => true
  | .unload _ _ => true
  | .graphSetupComplete _ => true
  | .deactivationComplete _ => true
  | .windowCloseAck _ _ => true
  | .tileFetch u _ station => u.computes && decide (station < 256)
  | .expandTile m u _ _ => u.computes && decide (m.val / 4 = (match u with
      | .ox b => b.val / 8
      | .vec v => v.val / 2
      | .mule m => m.val / 4
      | .goose r => r.val))
  | .verificationTile _ _ _ => true
  | .accumulate _ flips => flips.all BeatFlip.wf
  | .accumulatorDrain _ _ _ => true
  | .tileComplete u _ => u.computes
  | .muleTransfer _ _ _ _ => true
  | .scratchpadRead _ _ _ _ _ => true
  | .regionCacheRead _ _ _ sectors _ err _ =>
    decide sectors.Nodup && decide (err.map fun p => p.1).Nodup && err.all fun p => sectors.contains p.1
  | .dramRead _ _ _ u err => burstErrWf err && (match u with
      | some u => u.computes
      | none => true)
  | .dramPartialWrite addr bytes _ _ err => burstErrWf err && decide (addr % 32 + bytes.length ≤ 32)
  | .onchipMemoryRead _ _ => true
  | .dramWriteInvalidate _ _ _ => true
  | .windowWrite _ _ _ station _ _ => decide (station < 256)
  | .handshakeStall _ _ => true
  | .bridgeOverflow d port => bridgeWf d.val port
  | .paceGateWindow _ _ => true
  | .pairCompare u => u.computes
  | .blockResetComplete u => u.computes
  | .gooseCompare _ _ => true
  | .taskBudgetExpiry _ _ => true
  | .taskAliveExpiry _ => true
  | .gateRelease _ station _ => decide (station < 256)
  | .gateWithholdTimeout _ station _ => decide (station < 256)
  | .recordTxStart _ => true
  | .ctrlWindowCompare _ _ _ _ => true
  | .vote _ _ _ _ => true
  | .dissentTimeout _ => true
  | .resyncComplete => true
  | .healthFuseWriteDone => true
  | .faultReset b => b.wf
  | .pendingClear _ _ _ raised => raised.all fun n => decide (n < 128)
  | .latchClear _ _ raised => raised.all fun n => decide (n < 128)
  | .reactionWrite _ _ _ => true
  | .suspectTimerExpiry u => u.computes
  | .iftDue _ => true
  | .iftOverdue _ => true
  | .iftSlotStart _ => true
  | .iftSlotEnd _ signatures _ => decide (signatures.map fun p => p.1).Nodup
  | .gooseTest _ _ => true
  | .testPackageWrite _ _ => true
  | .goldenSliceComplete _ _ _ => true
  | .portEnable _ _ => true
  | .portDisable _ _ => true
  | .portGearWrite _ _ _ => true
  | .portRateWrite _ _ _ _ => true
  | .portBind _ _ _ => true
  | .linkTrainingComplete _ _ => true
  | .aphyLinkLoss _ => true
  | .aphyRetransmission _ => true
  | .aphyPacketLost _ => true
  | .frameStart _ _ => true
  | .frameEnd _ _ => true
  | .pixelLine _ _ _ _ => true
  | .embeddedLine _ _ _ _ => true
  | .headerUncorrectable _ _ => true
  | .otherPacket _ _ _ => true
  | .lineTimeout _ => true
  | .i2cReq _ _ _ => true
  | .i2cDone _ status data => decide (status ≠ 1) && decide (data.length ≤ 32)
  | .pclPacket _ _ _ => true
  | .scanTimeout _ => true
  | .ispLineProcess _ memLane overflow => !(memLane && overflow)
  | .memoryLaneTakeFrame _ => true
  | .ispFrameDone _ _ => true
  | .paramHoldWrite _ _ _ => true
  | .ringFreeze _ => true
  | .ringRelease _ => true
  | .ringDataRead _ => true
  | .ringCursorWrite _ _ => true
  | .ringSizeWrite _ _ => true
  | .dramScrub _ err => burstErrWf err
  | .onchipScrub w _ => w.wf
  | .dramRefresh _ _ => true
  | .timeCommit _ _ => true
  | .timeCommitApply => true
  | .stagedTimeWrite _ idx _ _ => decide (0x6000 ≤ idx.toNat) && decide (idx.toNat < 0x6900)
  | .triggerFire _ => true
  | .ppsEdge _ => true
  | .ppsMissedSecond => true
  | .gptpSyncReceive _ _ => true
  | .gptpPdelayExchange _ _ _ => true
  | .gptpPdelayTransmit _ => true
  | .gptpSyncTransmit _ => true
  | .gptpAnnounceReceive _ => true
  | .gptpSyncTimeout _ => true
  | .captureEvent source => captureSourceWf source.toNat
  | .ethFrameReceive f => decide (64 ≤ f.size)
  | .arpRequest _ _ _ _ => true
  | .neighbourSolicitation _ _ _ _ => true
  | .echoRequest _ _ _ _ _ _ => true
  | .ethLinkLoss _ => true
  | .ethLinkUp _ => true
  | .canBusOff _ => true
  | .canBusRecovery _ => true
  | .lwTemplateRebuild => true
  | .frerWrite _ _ _ _ => true
  | .dspEnable _ _ _ => true
  | .dspTimingWrite _ _ sub _ => decide (2 ≤ sub.toNat) && decide (sub.toNat ≤ 8)
  | .dspFrameStart _ => true
  | .dspLineFetch _ => true
  | .dspLineScan _ => true
  | .dspFrameEnd _ => true
  | .dspLinkLoss _ => true
  | .planeSourceWrite _ _ _ _ => true
  | .coldBoot b => b.wf
  | .pinReset b => b.wf
  | .resetCmd _ _ b => b.wf
  | .ready => true
  | .fwImageWrite _ _ => true
  | .fwFlashWriteDone _ => true
  | .customerKeyWrite _ _ => true
  | .attestNonceWrite _ _ => true
  | .attestReportReady => true
  | .standbyCmd _ _ => true
  | .standbyEntryComplete => true
  | .wakeEvent _ b => b.wf
  | .avsLoopStep _ _ _ => true
  | .temperatureRead celsius => decide (celsius.length = 5)
  | .vectorLaneOperation _ _ _ _ a b c flips => a.wf && b.wf && c.wf && flips.all fun p => decide (p.1 < 512)
  | .resetNDeasserted => true
  | .powerDown => true
  | .dspLinkUp _ => true
  | .keyValidFuseBlown => true

end Sys2Proof
end

