-- ==== Sys2Proof/Tests/Slice0.lean ====
section
/-! SUPPORT. Small tests: operands that the world cannot give, witnesses for the hypotheses of the statements, and a few
results worked out by hand from the spec's rules. Each test is about one step. -/

namespace Sys2Proof.Tests

set_option Elab.async false

open Sys2Proof Sys2Proof.Machine

/-! ## Helpers -/

/-- A ready device with some dictionary values in force. -/
def up (l : List (Nat × Nat)) : State :=
  l.foldl (fun s p => s.setR p.1 p.2) { ({} : State) with sys := { phase := .ready, errLow := false, depotEn := true } }

/-- The state after a command. -/
def after (c : Instr) (s : State) : State :=
  match exec c s with
  | .next t => t
  | _ => State.reset

/-- A request on ETH-A, of the host with node number 5. -/
def q0 : Req := { port := 0, node := 5 }

/-- A request on ETH-M. -/
def qM : Req := { port := 2, node := 5 }

/-- A request on ETH-S. -/
def qS : Req := { port := 1, node := 5 }

/-- Every entry that a test touches is permitted by the dictionary's row and the state. -/
def accepts (s : State) (r : DReq) : Bool :=
  portLive s r.q.port.val && (decide (r.q.port ≠ 2) || s.sys.depotEn) && (keptFor s r).isNone

/-- Whether the checks of a write pass. -/
def permits (s : State) (r : DReq) : Bool :=
  match entryRow s r.idx r.sub with
  | .ok row => canWrite (row.acc r.q.cls) && (writeRefusal (s.forWhole r) row r.key r.payload false).isNone
  | .error _ => false

/-- What `accepts` and `permits` say: the hypotheses of the statements on requests. -/
theorem accepts_iff {s : State} {r : DReq} (h : accepts s r = true) : Accepts s r := by
  simp only [accepts, Bool.and_eq_true, Bool.or_eq_true, decide_eq_true_eq, Option.isNone_iff_eq_none] at h
  exact ⟨h.1.1, fun k => h.1.2.resolve_left (fun n => n k), h.2⟩

theorem permits_iff {s : State} {r : DReq} (h : permits s r = true) : ∃ row, Permits s r row := by
  unfold permits at h
  split at h
  · rename_i row hr
    simp only [Bool.and_eq_true, Option.isNone_iff_eq_none] at h
    exact ⟨row, hr, h.1, h.2⟩
  · cases h

/-- A request that both accept. -/
theorem both {s : State} {r : DReq} (h : (accepts s r && permits s r) = true) : Accepts s r
    ∧ ∃ row, Permits s r row := by
  rw [Bool.and_eq_true] at h
  exact ⟨accepts_iff h.1, permits_iff h.2⟩

/-- A complete write that fits into a frame. -/
theorem whole {s : State} {r : DReq} (h : (accepts s r && permits s r && decide
    (r.payload.length ≤ r.q.limit)) = true) :
    Accepts s r ∧ ∃ row, PermitsWhole s r row := by
  rw [Bool.and_eq_true, decide_eq_true_eq] at h
  obtain ⟨ha, row, hr⟩ := both h.1
  exact ⟨ha, row, ⟨hr, .inl h.2⟩⟩

/-! ## Operands that the world cannot give: each check refuses one -/

/-- What a boot meets on a good part. -/
def boot : BootInputs := ⟨List.replicate 32 8, true, true, true, List.replicate 5 [1300], 25, [], [2]⟩

theorem test_wf_boot : boot.wf = true ∧ ({ boot with density := [] } : BootInputs).wf = false
    ∧ ({ boot with readings := [[1300]] } : BootInputs).wf = false := by decide +kernel

theorem test_wf_requests : (Instr.dialeFrameReceive { port := 3 } (List.replicate 65 0#8)).wf = false
    ∧ (Instr.dialeFrameReceive { port := 0 } (List.replicate 1501 0#8)).wf = false
    ∧ (Instr.dialeFrameReceive { port := 3 } (List.replicate 64 0#8)).wf = true
    ∧ (Instr.transferTimeout 8).wf = false ∧ (Instr.stagedTimeWrite q0 0x6900 1 []).wf = false
    ∧ (Instr.stagedTimeWrite q0 0x5FFF 1 []).wf = false ∧ (Instr.dspTimingWrite q0 0 1 []).wf = false
    ∧ (Instr.dspTimingWrite q0 0 9 []).wf = false ∧ (Instr.pendingClear q0 0 0 [128]).wf = false
    ∧ (Instr.latchClear q0 1 [128]).wf = false := by decide +kernel

theorem test_wf_fabric : (Instr.tileFetch (.mule 0) 0 0).wf = false ∧ (Instr.tileFetch (.ox 0) 0 256).wf = false
    ∧ (Instr.expandTile 4 (.ox 0) ⟨0, 0, 0, 0⟩ []).wf = false
        ∧ (Instr.expandTile 0 (.goose 0) ⟨0, 0, 0, 0⟩ []).wf = false
    ∧ (Instr.accumulate 0 [.adder 127 63 0#32]).wf = false ∧ (Instr.accumulate 0 [.reg 0 .stagger 511 0#9]).wf = false
    ∧ (Instr.accumulate 0 [.adder 127 63 1#32, .reg 0 (.weightLatch 63) 0 256#9]).wf = true
    ∧ (Instr.tileComplete (.goose 0) ⟨0, 0, 0, 0⟩).wf = false
    ∧ (Instr.vectorLaneOperation 0 .add false .fp32 (.given (List.replicate 513 0#32)) .lanes .lanes []).wf = false
    ∧ (Instr.vectorLaneOperation 0 .add false .fp32 .lanes (.given (List.replicate 513 0#32)) .lanes []).wf = false
    ∧ (Instr.vectorLaneOperation 0 .add false .fp32 .lanes .lanes (.given (List.replicate 513 0#32)) []).wf = false
    ∧ (Instr.vectorLaneOperation 0 .add false .fp32 .lanes .lanes .lanes [(512, 1)]).wf = false := by decide +kernel

theorem test_wf_memories : (Instr.regionCacheRead 0 0 0 [1, 1] none [] .none).wf = false
    ∧ (Instr.regionCacheRead 0 0 0 [1] none [(1, .single), (1, .double)] .none).wf = false
    ∧ (Instr.regionCacheRead 0 0 0 [1] none [(2, .single)] .none).wf = false
    ∧ (Instr.dramRead 0 none 0 none [(4, 1), (4, 2)]).wf = false ∧ (Instr.dramRead 0 none 0 none [(4, 0)]).wf = false
    ∧ (Instr.dramRead 0 none 0 (some (.mule 0)) []).wf = false ∧ (Instr.dramPartialWrite 31 [1, 2] none 0 []).wf = false
    ∧ (Instr.dramPartialWrite 31 [1] none 0 []).wf = true ∧ (Instr.dramPartialWrite 0 [] none 0 [(4, 0)]).wf = false
    ∧ (Instr.dramScrub 0 [(4, 0)]).wf = false ∧ (Instr.onchipScrub (.scratch 0 8192 0) .none).wf = false
    ∧ (Instr.onchipScrub (.scratch 0 0 64) .none).wf = false
        ∧ (Instr.onchipScrub (.regionTag 0 4096 0) .none).wf = false
    ∧ (Instr.onchipScrub (.regionTag 0 0 16) .none).wf = false ∧ (Instr.windowWrite 0 0 0 256 ⟨0, 0⟩ []).wf = false := by
  decide +kernel

theorem test_wf_events : (Instr.bridgeOverflow 22 (some 4)).wf = false ∧ (Instr.bridgeOverflow 17 (some 0)).wf = false
    ∧ (Instr.bridgeOverflow 22 (some 3)).wf = true
    ∧ (Instr.bridgeOverflow 16 (some 3)).wf = true ∧ (Instr.pairCompare (.mule 0)).wf = false
    ∧ (Instr.blockResetComplete (.goose 0)).wf = false ∧ (Instr.gateRelease 0 256 0).wf = false
    ∧ (Instr.gateWithholdTimeout 0 256 0).wf = false ∧ (Instr.suspectTimerExpiry (.mule 0)).wf = false
    ∧ (Instr.iftSlotEnd (.ox 0) [(.ox 0, []), (.ox 0, [])] []).wf = false ∧ (Instr.i2cDone 0 1 []).wf = false
    ∧ (Instr.i2cDone 0 0 (List.replicate 33 0#8)).wf = false ∧ (Instr.ispLineProcess 0 true true).wf = false
    ∧ (Instr.captureEvent 10).wf = false ∧ (Instr.captureEvent 0x28).wf = false ∧ (Instr.captureEvent 0xFF).wf = false
    ∧ (Instr.captureEvent 0x30).wf = true ∧ (Instr.ethFrameReceive ⟨0, 0, 0, none, 63, .other⟩).wf = false
    ∧ (Instr.temperatureRead [1, 2, 3, 4]).wf = false := by decide +kernel

theorem test_wf_boots : (Instr.coldBoot { boot with readings := [] }).wf = false
    ∧ (Instr.pinReset { boot with readings := [] }).wf = false
    ∧ (Instr.faultReset { boot with readings := [] }).wf = false ∧ (Instr.wakeEvent 0 { boot with readings := [] }).wf = false
    ∧ (Instr.resetCmd q0 0xA55A { boot with readings := [] }).wf = false
        ∧ (Instr.coldBoot boot).wf = true := by decide +kernel

/-- The opcode table gives no row a word. -/
theorem test_no_words : decodeTableWord 8 0 = none ∧ (State.reset.withFetchWord 8 0) = State.reset := by decide +kernel

/-! ## The queue and the form of the state -/

/-- A link to the host, and one to a CAN bus that carries Diale. -/
def net : State := up [(Reg.NET_ENABLE 1, 1), (Reg.NET_LINK_STATE 1, 2), (Reg.NET_ENABLE 0, 1),
    (Reg.NET_LINK_STATE 0, 2), (Reg.NET_ENABLE 2, 1), (Reg.NET_LINK_STATE 2, 2),
  (Reg.CAN_ENABLE 0, 1), (Reg.CAN_DIALE, 1), (Reg.NODE_ID, 9), (Reg.DRAM_CONFIG_capacity, 128)]

theorem witness_IdleStep : (up []).pending = [] ∧ (up []).sys.phase ≠ .off ∧ (up []).sys.phase ≠ .heldInReset
    ∧ (∀ n ∈ List.range 8, followSource (up []) n = none ∧ (up []).r (Reg.T_RATE_ADJ n) = 0
        ∧ sget dflt0 (up []).rooster.frac n < 2 ^ 32)
    ∧ (after .powerDown State.reset).sys.phase = .off ∧ (after .powerDown State.reset).pending = [] := by decide +kernel

/-- R316: one idle cycle of Rooster is 2 ns on every base. -/
theorem test_idle_step : (match step State.reset with
    | .next t => [t.t 0, t.t3, t.t 7]
    | _ => []) = [2, 2, 2] := by decide +kernel

/-- R237: the first address outside the device, and the last one inside. -/
theorem witness_OnlyOutsideDramStops : outsideDram net (.dramRead (128 * 2 ^ 30) none 0 none [])
    ∧ ¬ outsideDram net (.dramRead (128 * 2 ^ 30 - 1) none 0 none []) := by
  simp only [outsideDram]; decide +kernel

theorem witness_StepKeepsCanonicalForm : net.canonical
    ∧ ∃ t, step net = .next t := ⟨⟨by decide +kernel, by decide +kernel, by decide +kernel⟩, _, rfl⟩

/-! ## Requests -/

/-- A value that a check finds in a result. -/
theorem okOf {ε α : Type} {x : Except ε α} {p : α → Bool} (h : (match x with
    | .ok a => p a
    | .error _ => false) = true) : ∃ a, x = .ok a ∧ p a = true := by
  cases x with
  | ok a => exact ⟨a, rfl, h⟩
  | error _ => cases h

/-- An abort code that a check finds in a result. -/
theorem errorOf {α : Type} {x : Except Abort α} {c : Abort} (h : (match x with
    | .ok _ => false
    | .error d => decide (d = c)) = true) : x = .error c := by
  cases x with
  | ok a => cases h
  | error d => simpa using h

/-- READ of NODE_ID, which fits, and of the whole index of the port's Diale settings. -/
theorem witness_ReadAnswersTheValue :
    (let r : DReq := { q := q0, op := 1, idx := 0x1010, sub := 1 }
     Accepts net r ∧ (∃ row, entryRow net 0x1010 1 = .ok row ∧ (canRead (row.acc q0.cls)
        && decide ((readValue net row 0x1010 1).length ≤ q0.limit)) = true) ∧ readRefusal net r.key = none)
    ∧ (let r : DReq := { q := q0, op := 1, idx := 0x1010, sub := 0, all := true }
       Accepts net r ∧ ∃ b, readAll net 0x1010 q0.cls = .ok b ∧ decide (b.length ≤ q0.limit) = true) :=
  ⟨⟨accepts_iff (by decide +kernel), okOf (by decide +kernel), by decide +kernel⟩, accepts_iff (by decide +kernel),
      okOf (by decide +kernel)⟩

/-- WRITE of RING_AUTOFREEZE, and of a whole index but that of RESET_CMD. -/
theorem witness_WriteAppliesTheValue :
    (let r : DReq := { q := qM, op := 2, idx := 0x4020, sub := 2, payload := [7, 0, 0, 0] }
     Accepts net r ∧ r.payload.length ≤ qM.limit ∧ (∃ row, Permits net r row) ∧ r.key ≠ Reg.RESET_CMD)
    ∧ (let r : DReq := { q := q0, op := 2, idx := 0x1010, sub := 0, all := true, payload := [10, 0, 0x68, 0x43, 0xF] }
       Accepts net r ∧ r.payload.length ≤ q0.limit
           ∧ allRefusal net 0x1010 q0.cls r.payload = none) :=   ⟨⟨(both (by decide +kernel)).1, by decide,
           (both (by decide +kernel)).2, by decide⟩, accepts_iff (by decide +kernel), by decide,
    by decide +kernel⟩

/-- R449, R456, R459, R465: no such subindex, no such index, no access, a wrong value, too long a value. -/
theorem witness_RefusedRequestsOnlyAbort :
    (let rd (i n : Nat) : DReq := { q := q0, op := 1, idx := i, sub := n }
     let wr (i n : Nat) (b : Bytes) : DReq := { q := q0, op := 2, idx := i, sub := n, payload := b }
     (Accepts net (rd 0x1010 4) ∧ entryRow net 0x1010 4 = .error 2 ∧ entryRow net 0x0FFF 0 = .error 1)
     ∧ (Accepts net { q := qS, op := 1, idx := 0x1010, sub := 1 } ∧ ∃ row, entryRow net 0x1010 1 = .ok row
         ∧ (!canRead (row.acc qS.cls)) = true)
     ∧ (Accepts net (wr 0x1010 4 []) ∧ ([] : Bytes).length ≤ q0.limit)
     ∧ (Accepts net (wr 0x1010 0 [1]) ∧ ∃ row, entryRow net 0x1010 0 = .ok row ∧ (!canWrite (row.acc q0.cls)) = true)
     ∧ (Accepts net (wr 0x1010 1 [0, 0]) ∧ ∃ row, entryRow net 0x1010 1 = .ok row
          ∧ (canWrite (row.acc q0.cls) && decide (writeRefusal net row 0x101001 [0, 0] false = some 5)) = true)
     ∧ q0.limit < (List.replicate 1401 0#8).length) :=
  ⟨⟨accepts_iff (by decide +kernel), errorOf (by decide +kernel), errorOf (by decide +kernel)⟩,
    ⟨accepts_iff (by decide +kernel), okOf (by decide +kernel)⟩, ⟨accepts_iff (by decide +kernel), by decide⟩,
    ⟨accepts_iff (by decide +kernel), okOf (by decide +kernel)⟩, ⟨accepts_iff (by decide +kernel),
        okOf (by decide +kernel)⟩,
    by decide +kernel⟩

theorem witness_Answering : net.safe = false ∧ errHeld (up [(Reg.ERR_HOLD 0, 2)]) = true
    ∧ (up [(Reg.DRAINED, 1)]).drained = true := by
  decide +kernel

/-- A request that has been answered once. -/
def asked : State := after (.read q0 0x1010 1 false) (after (.write q0 0x1010 1 false [9, 0]) net)

/-- R454: the last response of a source is the one kept, and it is sent again. -/
theorem witness_Repeated : portLive asked 0 = true
    ∧ (keptFor asked { q := q0, op := 1, idx := 0x1010, sub := 1 }).isSome = true
    ∧ (keptFor (after (.write q0 0x1010 1 false [9,
        0]) net) { q := q0, op := 2, idx := 0x1010, sub := 1, payload := [9, 0] }).isSome = true
    ∧ (after (.read q0 0x1010 1 false) asked).wire.length = 3
        ∧ (after (.read q0 0x1010 1 false) asked).r (Reg.REQUESTS 0) = 2
    ∧ portLive { net with sys := { net.sys with depotEn := false } } 2 = true ∧ qM.port = 2 := by decide +kernel

/-- R445, R448, R449: the answer to READ of NODE_ID without its check word: 0x81, nodes 9 and 5, the entry, two bytes. -/
theorem test_read_response : (match (after (.read q0 0x1010 1 false) net).wire with
    | [.diale _ _ _ b] => b.take 22
    | _ => []) = [0x44, 0x4C, 1, 0x81, 9, 0, 5, 0, 0, 0, 0x10, 0x10, 1, 0, 2, 0, 0, 0, 0, 0, 9, 0] := by decide +kernel

/-- A segmented read that is half served, and a segmented write that has been opened. -/
def halves : State := { net with diale := { net.diale with opened :=
  [⟨(3, 5, 0), Reg.MARKER_BITMAP, false, 40, List.replicate 2048 0#8, 0⟩, ⟨(0, 0, 0), Reg.TEST_PACKAGE, true, 3, [1,
      2, 3], 0⟩] } }

/-- A host on CAN0. -/
def qC : Req := { port := 3, node := 5 }

theorem witness_SegmentedTransfers :
    (let rd (o : Nat) : DReq := { q := qC, op := 3, idx := 0x4840, sub := 1, off := o }
     Accepts halves (rd 0) ∧ (∃ row, entryRow halves 0x4840 1 = .ok row ∧ canRead (row.acc qC.cls) = true)
       ∧ readRefusal halves (rd 0).key = none ∧ transfersFull halves (rd 0) = false
           ∧ (transferOf halves (rd 40)).isSome = true
       ∧ (∃ t, transferOf halves (rd 40) = some t ∧ t.isWrite = false ∧ t.off = 40))
    ∧ (let wr (o : Nat) (l : Bool)
        (b : Bytes) : DReq := { q := q0, op := 4, idx := 0x5040, sub := 1, off := o, last := l, payload := b }
       Accepts halves (wr 0 false [9]) ∧ (∃ row, entryRow halves 0x5040 1 = .ok row ∧ (canWrite (row.acc q0.cls)
           && decide (openingRefusal (wr 0 false [9]) row halves = none) && decide (4 ≤ maxSize row)
           && decide (writeRefusal (closeTransfer (wr 3 true [9]) halves) row Reg.TEST_PACKAGE [1, 2, 3,
               9] true = none)) = true)
         ∧ (wr 0 false []).key ≠ Reg.RESET_CMD ∧ (∃ t, transferOf halves (wr 3 true [9]) = some t ∧ t.isWrite = true
             ∧ t.buf.length = 3)) :=
  ⟨⟨accepts_iff (by decide +kernel), okOf (by decide +kernel), by decide +kernel, by decide +kernel, by decide +kernel,
    ⟨(3, 5, 0), Reg.MARKER_BITMAP, false, 40, List.replicate 2048 0#8, 0⟩, by decide +kernel, rfl, rfl⟩,
   accepts_iff (by decide +kernel), okOf (by decide +kernel), by decide, ⟨(0, 0, 0), Reg.TEST_PACKAGE, true, 3, [1, 2,
       3], 0⟩,
    by decide +kernel, rfl, rfl⟩

theorem witness_TransfersAreClosed :
    (let r : DReq := { q := q0, op := 5, idx := 0x5040, sub := 1 }
     Accepts halves r ∧ (∃ row, entryRow halves 0x5040 1 = .ok row ∧ true = true) ∧ (transferOf halves r).isSome = true)
    ∧ (let s := halves.setT 3 1000000000
       ∃ t, s.diale.opened[1]? = some t ∧ t.lastT3 + 1000000000 ≤ s.t3 ∧ s.diale.opened[2]? = none) :=
  ⟨⟨accepts_iff (by decide +kernel), okOf (by decide +kernel), by decide +kernel⟩, _, rfl, by decide +kernel, rfl⟩

/-- A READ of NODE_ID as a frame on UDP. -/
def readFrame : Bytes := withCheck (frameBody 9 5 0 0x1010 1 1 0 0 [])

theorem witness_Frames : (0 : Fin 7).val < 3 ∧ portLive net 0 = true ∧ net.r Reg.NODE_ID < 2 ^ 14
    ∧ net.r Reg.NODE_ID ≠ 0
    ∧ (List.replicate 1400 0#8).length ≤ 1400 ∧ frameBad net { port := 0 } readFrame = false
    ∧ (after (.dialeFrameReceive { port := 0 } readFrame) net).r (Reg.REQUESTS 0) = 1 := by decide +kernel

/-- R446: one wrong bit of a frame, and frames of the two kinds of identifier on CAN. -/
theorem witness_BadFrames : frameBad net { port := 0 } (readFrame.set 8 0x11) = true ∧ portLive net 3 = true
    ∧ bitsOf (6 * 2 ^ 26 + 8 * 2 ^ 12) 28 26 = 6
        ∧ frameBad net { port := 3, canId := BitVec.ofNat 29 (6 * 2 ^ 26 + 8 * 2 ^ 12) } readFrame = true
    ∧ bitsOf (7 * 2 ^ 26) 28 26 ≠ 6 := by decide +kernel

/-! ## The commands that are requests to one entry -/

/-- A package without stations. -/
def pkg0 : Package := ⟨7, false, false, [], [], [], [], [], [], []⟩

/-- A slot that holds it, in a state. -/
def slot0 (state : Nat) : State := (net.setR (Reg.GRAPH_STATE 0) state).setSlot 0 { pkg := some pkg0 }

theorem witness_GraphCommands :
    (let r (v : Nat) : DReq := numWrite q0 (Reg.GRAPH_CMD 0) 1 v
     (Accepts (slot0 1) (r 1) ∧ ∃ row, Permits (slot0 1) (r 1) row)
     ∧ (Accepts (slot0 3) (r 2) ∧ ∃ row, Permits (slot0 3) (r 2) row) ∧ (Accepts (slot0 2) (r 2)
         ∧ ∃ row, Permits (slot0 2) (r 2) row)
     ∧ (Accepts (slot0 1) (r 3) ∧ ∃ row, Permits (slot0 1) (r 3) row)
     ∧ gstate (slot0 3) 0 ≠ 2 ∧ gstate (slot0 2) 0 = 2 ∧ ((slot0 2).slot 0).pkg.isSome = true) :=
  ⟨both (by decide +kernel), both (by decide +kernel), both (by decide +kernel), both (by decide +kernel),
      by decide +kernel,
    by decide +kernel, by decide +kernel⟩

/-- R145: the graph is deactivating. -/
theorem test_graph_commands : (after (.deactivate q0 0) (slot0 3)).r (Reg.GRAPH_STATE 0) = 4 := by decide +kernel

theorem witness_PackageWrites :
    (Accepts net (wholeWrite q0 (Reg.PACKAGE 3) (List.replicate 12 0#8))
      ∧ ∃ row, PermitsWhole net (wholeWrite q0 (Reg.PACKAGE 3) (List.replicate 12 0#8)) row)
    ∧ (Accepts net (wholeWrite qM Reg.TEST_PACKAGE [1])
        ∧ ∃ row, PermitsWhole net (wholeWrite qM Reg.TEST_PACKAGE [1]) row)
    ∧ testCheck net.sys.running.signer (some net.sys.testPkg.version) [1] ≠ 0 :=
  ⟨whole (by decide +kernel), whole (by decide +kernel), by decide +kernel⟩

/-- R139: without an enrolled customer key a package is refused with reason 0x0002, and the slot is refused. -/
theorem test_bad_package : (after (.packageWrite q0 3 (List.replicate 12 0#8)) net).r (Reg.LOAD_STATUS 3) = 2
    ∧ (after (.packageWrite q0 3 (List.replicate 12 0#8)) net).r (Reg.GRAPH_STATE 3) = 5 := by decide +kernel

/-- A chip with faults pending and latched. -/
def faulty : State := [(Reg.PENDING 0, 6), (Reg.ERR_HOLD 0, 4),
    (Reg.FIRST_SOURCE, 1)].foldl (fun s p => s.setR p.1 p.2) net

theorem witness_CollectorWrites :
    (Accepts faulty (numWrite q0 (Reg.PENDING 0) 8 6) ∧ ∃ row, Permits faulty (numWrite q0 (Reg.PENDING 0) 8 6) row)
    ∧ (Accepts faulty (numWrite q0 Reg.LATCH_CLEAR 1 1) ∧ ∃ row, Permits faulty (numWrite q0 Reg.LATCH_CLEAR 1 1) row)
    ∧ (Accepts faulty (numWrite q0 (0x500200 + 2) 1 3) ∧ ∃ row, Permits faulty (numWrite q0 (0x500200 + 2) 1 3) row) :=
  ⟨both (by decide +kernel), both (by decide +kernel), both (by decide +kernel)⟩

theorem witness_PendingClears :
    (let r : DReq := numWrite q0 (Reg.PENDING 1) 8 (2 ^ 63)
     (2 ^ 63).testBit 63 = true ∧ isFaultSource (64 * 1 + 63) = false ∧ Accepts net r
       ∧ (∃ row, entryRow net r.idx r.sub = .ok row ∧ canWrite (row.acc q0.cls) = true)
           ∧ stateBars net r.key = false) :=
  ⟨by decide +kernel, by decide +kernel, accepts_iff (by decide +kernel), okOf (by decide +kernel), by decide +kernel⟩

/-- R428: writing 2 clears bit 1 alone. -/
theorem test_pending_clear : (after (.pendingClear q0 0 2 []) faulty).r (Reg.PENDING 0) = 4
    ∧ (after (.pendingClear q0 0 6 []) faulty).r (Reg.ERR_HOLD 0) = 0 := by decide +kernel

/-- A trained camera link on port 3. -/
def cam : State := [(Reg.CAM_ENABLE 3, 1), (Reg.CAM_LINK_STATE 3, 2)].foldl (fun s p => s.setR p.1 p.2) net

/-- An I2C read of four bytes. -/
def i2cRead : Bytes := [0x10, 1, 4, 0, 7, 0]

theorem witness_CameraWrites :
    (Accepts net (numWrite q0 (Reg.CAM_ENABLE 3) 1 1) ∧ ∃ row, Permits net (numWrite q0 (Reg.CAM_ENABLE 3) 1 1) row)
    ∧ (Accepts cam (numWrite q0 (Reg.CAM_ENABLE 3) 1 0) ∧ ∃ row, Permits cam (numWrite q0 (Reg.CAM_ENABLE 3) 1 0) row)
    ∧ (Accepts cam (numWrite q0 (Reg.CAM_GEAR 3) 1 3) ∧ ∃ row, Permits cam (numWrite q0 (Reg.CAM_GEAR 3) 1 3) row)
    ∧ net.on (Reg.CAM_ENABLE 3) = false
    ∧ (Accepts cam (wholeWrite q0 (Reg.CAM_WIDTH 3) [0, 8])
        ∧ ∃ row, PermitsWhole cam (wholeWrite q0 (Reg.CAM_WIDTH 3) [0, 8]) row)
    ∧ (Accepts net (numWrite q0 (Reg.CTX_PORT 35) 1 23) ∧ ∃ row, Permits net (numWrite q0 (Reg.CTX_PORT 35) 1 23) row)
    ∧ (Accepts cam (wholeWrite q0 (Reg.CAM_I2C_REQ 3) i2cRead)
        ∧ ∃ row, PermitsWhole cam (wholeWrite q0 (Reg.CAM_I2C_REQ 3) i2cRead) row)
    ∧ (Accepts net (wholeWrite q0 (Reg.CAM_I2C_REQ 3) i2cRead)
        ∧ ∃ row, PermitsWhole net (wholeWrite q0 (Reg.CAM_I2C_REQ 3) i2cRead) row)
    ∧ portUp cam 3 = true ∧ portUp net 3 = false
    ∧ (Accepts net (numWrite q0 (Reg.CTX_PARAM_HOLD 0) 1 1)
        ∧ ∃ row, Permits net (numWrite q0 (Reg.CTX_PARAM_HOLD 0) 1 1) row) :=
  ⟨both (by decide +kernel), both (by decide +kernel), both (by decide +kernel), by decide +kernel,
      whole (by decide +kernel),
    both (by decide +kernel), whole (by decide +kernel), whole (by decide +kernel), by decide +kernel,
        by decide +kernel,
    both (by decide +kernel)⟩

/-- A ring of 64 GiB: recording, with a record in progress, and frozen. -/
def ring (state : Nat) (recs : List RingRec) : State :=
  { [(Reg.RING_STATE, state), (Reg.RING_SIZE, 64)].foldl (fun s p => s.setR p.1 p.2) net with ring := { size := 64, recs := recs } }

theorem witness_RingWrites :
    (Accepts (ring 0 []) (numWrite q0 Reg.RING_CMD 1 1) ∧ ∃ row, Permits (ring 0 []) (numWrite q0 Reg.RING_CMD 1 1) row)
    ∧ (ring 0 []).r Reg.RING_STATE = 0 ∧ ringBusy (ring 0 [⟨0, 0, 4096, 3, false⟩]) = true
        ∧ ringBusy (ring 0 []) = false
    ∧ (Accepts (ring 2 []) (numWrite q0 Reg.RING_CMD 1 2)
        ∧ ∃ row, Permits (ring 2 []) (numWrite q0 Reg.RING_CMD 1 2) row)
    ∧ (Accepts (ring 2 []) (numWrite qM Reg.RING_CURSOR 8 64)
        ∧ ∃ row, Permits (ring 2 []) (numWrite qM Reg.RING_CURSOR 8 64) row)
    ∧ (Accepts net (numWrite q0 Reg.RING_SIZE 2 64) ∧ ∃ row, Permits net (numWrite q0 Reg.RING_SIZE 2 64) row) :=
  ⟨both (by decide +kernel), by decide +kernel, by decide +kernel, by decide +kernel, both (by decide +kernel),
    both (by decide +kernel), both (by decide +kernel)⟩

/-- R256, R257: a freeze ends at once when no record is in progress; a release resumes recording. -/
theorem test_ring_commands : (after (.ringFreeze q0) (ring 0 [])).r Reg.RING_STATE = 2
    ∧ (after (.ringFreeze q0) (ring 0 [⟨0, 0, 4096, 3, false⟩])).r Reg.RING_STATE = 1
    ∧ (after (.ringRelease q0) (ring 2 [])).r Reg.RING_STATE = 0 := by decide +kernel

/-- The row of NODE_ID, which applies at a reset and persists. -/
def nodeRow : DictRow := ⟨0x1010, 0x1010, 0x01, 0x01, .u16, .rw, .no, .rw, 1, .reset⟩

theorem witness_StagedValues : net.canonical ∧ nodeRow.ty.size.isSome = true ∧ appliesAtOnce nodeRow = false
    ∧ persists Reg.NODE_ID = true ∧ persists (Reg.TRG_START 0) = false :=
  ⟨⟨by decide +kernel, by decide +kernel, by decide +kernel⟩, by decide, by decide, by decide +kernel,
      by decide +kernel⟩

theorem witness_TimeStreamDisplayWrites :
    (Accepts net (numWrite q0 Reg.TIME_COMMIT 1 1) ∧ ∃ row, Permits net (numWrite q0 Reg.TIME_COMMIT 1 1) row)
    ∧ net.rooster.commitAt = none ∧ (scheduleCommit net).rooster.commitAt.isSome = true
    ∧ (Accepts net (wholeWrite q0 (Reg.TRG_WIDTH 31) [0x10, 0x27, 0, 0])
        ∧ ∃ row, PermitsWhole net (wholeWrite q0 (Reg.TRG_WIDTH 31) [0x10, 0x27, 0, 0]) row)
    ∧ (wholeWrite q0 (Reg.TRG_WIDTH 31) []).key ≠ Reg.RESET_CMD
    ∧ (Accepts net (wholeWrite q0 (Reg.STR_PORT 31) [1])
        ∧ ∃ row, PermitsWhole net (wholeWrite q0 (Reg.STR_PORT 31) [1]) row)
    ∧ (Accepts net (numWrite q0 (Reg.DSP_ENABLE 3) 1 1) ∧ ∃ row, Permits net (numWrite q0 (Reg.DSP_ENABLE 3) 1 1) row)
    ∧ (Accepts net (wholeWrite q0 ((0x4800 + 3) * 256 + 4) [0x38, 4])
        ∧ ∃ row, PermitsWhole net (wholeWrite q0 ((0x4800 + 3) * 256 + 4) [0x38, 4]) row)
    ∧ (Accepts net (numWrite q0 (Reg.PLN_SOURCE 15) 1 35)
        ∧ ∃ row, Permits net (numWrite q0 (Reg.PLN_SOURCE 15) 1 35) row) :=
  ⟨both (by decide +kernel), by decide +kernel, by decide +kernel, whole (by decide +kernel), by decide,
      whole (by decide +kernel),
    both (by decide +kernel), whole (by decide +kernel), both (by decide +kernel)⟩

theorem witness_ResetAndSystemWrites :
    (let r : DReq := { numWrite q0 Reg.RESET_CMD 2 0xA55A with boot := some boot }
     Accepts net r ∧ ∃ row, Permits net r row)
    ∧ (Accepts net (wholeWrite q0 Reg.FW_IMAGE [1]) ∧ ∃ row, PermitsWhole net (wholeWrite q0 Reg.FW_IMAGE [1]) row)
    ∧ (Accepts net (wholeWrite q0 Reg.ATTEST_NONCE (List.replicate 16 3#8))
        ∧ ∃ row, PermitsWhole net (wholeWrite q0 Reg.ATTEST_NONCE (List.replicate 16 3#8)) row)
    ∧ (Accepts net (numWrite q0 Reg.STANDBY_CMD 1 1) ∧ ∃ row, Permits net (numWrite q0 Reg.STANDBY_CMD 1 1) row) :=
  ⟨both (by decide +kernel), whole (by decide +kernel), whole (by decide +kernel), both (by decide +kernel)⟩

def keyValue : Bytes := beBytes 32 0x7cf27b188d034f7e8a52380304b51ac3c08969e277f21b35a60b48fc47669978
    ++ beBytes 32 0x7775510db8ed040293d9ac69f7430dbba7dade63ce982299e04b79d227873d1
    ++ beBytes 32 0x5ecbe4d1a6330a44c8f7ef951d4bf165e6c6b721efada985fb41661bc6e7fd6c
    ++ beBytes 32 0x1367ce490ae27164e30cb25b94c4d41dc12d6e041045862ce0319ae28dd9ee15
theorem witness_CustomerKey :
    (Accepts net (wholeWrite qM Reg.CUSTOMER_KEY keyValue)
        ∧ ∃ row, PermitsWhole net (wholeWrite qM Reg.CUSTOMER_KEY keyValue) row)
    ∧ net.fuses.bank0.used = false :=
  ⟨whole (by decide +kernel), by decide +kernel⟩
theorem witness_RingReadout : ringReadable (ring 2 [⟨0, 0, 4096, 3, true⟩]) qM = true
    ∧ (ring 2 []).r Reg.RING_STATE = 2 := by
  obtain ⟨row, he, hc⟩ := okOf (x := entryRow (ring 2 [⟨0, 0, 4096, 3,
      true⟩]) 0x4024 1) (p := fun row => canRead (row.acc qM.cls)) (by decide +kernel)
  exact ⟨ringReadable_of (accepts_iff (by decide +kernel)) he hc (by decide +kernel) (by decide +kernel),
      by decide +kernel⟩

/-! ## Graphs, tiles and windows -/

/-- A source, a vector station, a publish station on stream 31, an expansion and a paired matmul station that reads it. -/
def pkg1 : Package :=
  let st (n : Nat) (k : Params) (i o : List Nat) : Station :=
    ⟨n, k, 0, 2, 2, 2, false, false, false, 0, 0, 1, 0, 0, i, o, 0, 1, 8, {}⟩
  ⟨8, false, false,
    [st 0 (.source false 0) [] [0, 2], { st 1 (.vector []) [0] [1] with vblocks := 1 }, st 2 (.publish ⟨false, false,
        5, 31, none⟩) [1] [],
     st 3 (.expand ⟨1, 1, 1, 1, 1, 1, false, 0, 0, 0, 0, 1, 0, 1, 2, 2⟩) [2] [3],
     { st 4 (.matmul ⟨0, 0, 0xFFFFFFFF, 0, 0, 0, 0, 0x80000000, 0x7FFFFFFF, 2⟩) [3] [] with blocks := 3, paired := true }],
    [⟨0, [1], 2, 0, false⟩, ⟨1, [2], 2, 0, false⟩, ⟨0, [3], 2, 0, false⟩, ⟨3, [4], 2, 0, false⟩],
    [⟨2, false, 2, 1, 1, 2, 2⟩], [⟨1000, true, 0, 2000⟩],
    [.segments 4 0 1, .stream 2 31], List.replicate 64 0#8, []⟩

/-- The frame 0 of a station with its one tile of two elements done, its planes from device address 256 + `base` on. -/
def doneFrame (st base : Nat) : StFrame :=
  { station := st, frame := 0, next := 1, limit := 1, done := [0], lastSent := true, slotOpen := false, act0 := 2, act1 := 1, act2 := 1
    base := base, tensor := ⟨2, false, 2, 1, 1, 2, 2⟩, descs := [⟨0, 0, 0, 0, 2, 1, 1, 0, false, true, 0xFF, crc32c [3, 4]⟩] }

/-- The frame 0 of a station with nothing done. -/
def openFrame0 (st base : Nat) : StFrame :=
  { station := st, frame := 0, limit := 1, act0 := 2, act1 := 1, act2 := 1, base := base, tensor := ⟨2, false, 2, 1, 1, 2, 2⟩ }

/-- A tile of graph 0. -/
def tile (st : Nat) : TileRef := ⟨0, st, 0, 0⟩

/-- A checkpoint entry of such a tile. -/
def held (st : Nat) : LogEntry := { ref := tile st, pass := [0], inputs := [], hasInit := false, replay := false }

/-- The graph in a state of its slot: the source's frame 0 is complete, frame 0 is open on every other station; its task is on
monitor 255. -/
def graph (state : Nat) : State :=
  ((([(Reg.GRAPH_STATE 0, state), (Reg.MON_GRAPH 255, 1), (Reg.MON_BUDGET 255, 1000),
      (Reg.MON_ALIVE_MAX 255, 2000)].foldl
    (fun s p => s.setR p.1 p.2) net).memWrite 256 [3, 4]).setSlot 0
    { pkg := some pkg1, monitors := [255]
      frames := [doneFrame 0 0, openFrame0 1 0x1000, openFrame0 2 0, openFrame0 3 0, openFrame0 4 0x3000] })
    |>.setMon 255 { running := [(0, 0)] }

/-- That graph with other frames. -/
def withFrames (l : List StFrame) (s : State) : State := modSlot 0 (fun x => { x with frames := l }) s

/-- A window of block 31: 15 covers rows 0 to 7 of graph 0 (slot number 1), written by station 1. -/
def windows (state : WinState) (marked : Bool) (s : State) : State :=
  s.setWin (16 * 31 + 15) ⟨state, 1, 4, 0, 8, [1], marked, false⟩

theorem witness_GraphEvents :
    (((graph 2).slot 0).pkg = some pkg1 ∧ gstate (graph 2) 0 = 2 ∧ ((graph 2).slot 0).setupDone = false
        ∧ ((graph 2).slot 0).retained = [] ∧ pkg1.residency = false ∧ (∀ st ∈ pkg1.stations, st.tiling.reuse ≠ 2))
    ∧ (((graph 4).slot 0).pkg = some pkg1 ∧ gstate (graph 4) 0 = 4 ∧ framesLeft (graph 4) 0 = true)
    ∧ (let s := withFrames [doneFrame 0 0] (graph 4)
       (s.slot 0).pkg = some pkg1 ∧ gstate s 0 = 4 ∧ framesLeft s 0 = false ∧ (s.slot 0).closing = false
         ∧ (∀ k ∈ List.range 512, (s.win k).owner ≠ 0 + 1))
    ∧ (let s := windows .isOpen false (withFrames [doneFrame 0 0] (graph 4))
       framesLeft s 0 = false ∧ (s.slot 0).closing = false ∧ (s.win 511).owner = 1 ∧ (s.win 511).state ≠ .closed) := by
  decide +kernel

/-- R142: setup is done, and the graph waits for a frame tick. -/
theorem test_setup : (after (.graphSetupComplete 0) (graph 2)).r (Reg.GRAPH_STATE 0) = 2
    ∧ ((after (.graphSetupComplete 0) (graph 2)).slot 0).setupDone = true := by
  decide +kernel

theorem witness_Windows :
    (let s := windows .closing true (graph 3)
     (s.win (16 * 31 + 15)).state = .closing ∧ ((s.win 511).regionMark || false && (s.win 511).chipMark || true) = true
       ∧ (s.slot 0).closing = false)
    ∧ ((windows .closed false (graph 3)).win (16 * 31 + 15)).state = .closed
    ∧ (let s := modSlot 0 (fun x => { x with closing := true }) (windows .closing true (graph 4))
       (s.slot 0).closing = true ∧ windowsClosing (s.setWin 511 { s.win 511 with state := .closed, regionMark := false, chipMark := false }) 0 = false
         ∧ (s.slot 0).pkg.isSome = true) := by decide +kernel

theorem witness_WindowWrite :
    (let s := { windows .isOpen false (graph 3) with segs := [(64 * 31, ⟨1, 4, false⟩)] }
     let x := s.win (16 * 31 + 15)
     x.state ≠ .closed ∧ x.owner = (0 : Fin 64).val + 1 ∧ x.writers.contains 1 = true ∧ x.base ≤ x.limit
       ∧ 2040 + ([1, 2, 3, 4, 5, 6, 7, 8] : Bytes).length ≤ (x.limit - x.base) / 2 * 512 ∧ ([1, 2, 3, 4, 5, 6, 7, 8] : Bytes) ≠ []
       ∧ bankPower s 31 0 = 1 ∧ 2040 % 8 = 0 ∧ s.sram = []
       ∧ (x.limit - x.base) / 2 * 512 < 2041 + 8 ∧ x.writers.contains 2 = false ∧ x.owner ≠ (1 : Fin 64).val + 1) := by
  decide +kernel

theorem test_window_write :
    (let s := { windows .isOpen false (graph 3) with segs := [(64 * 31, ⟨1, 4, false⟩)] }
     (after (.windowWrite 31 15 0 1 ⟨1, 2040⟩ [1, 2, 3, 4, 5, 6, 7, 8]) s).padByte (padKey 31 7 511) = 8
     ∧ (after (.windowWrite 31 15 0 1 ⟨0, 2041⟩ [1, 2, 3, 4, 5, 6, 7, 8]) s).r (Reg.WINDOW_DROPS 31) = 1
     ∧ ((after (.windowCloseAck 31 ⟨15, false, true⟩) (windows .closing true (graph 3))).win 511).state = .closed
     ∧ ((after (.windowCloseAck 31 ⟨15, true, false⟩) (windows .closing true (graph 3))).win 511).state = .closing) := by
  decide +kernel

/-- The vector station, which runs on vector block 0, and the paired matmul station. -/
def st1 : Station := (pkg1.stations[1]?).getD ⟨9, .vector [], 0, 0, 0, 0, false, false, false, 0, 0, 0, 0, 0, [], [],
    0, 0, 0, {}⟩

theorem witness_TileFetch :
    Fetches (graph 3) (.vec 0) 0 1 pkg1 st1
    ∧ (let x := openFrame0 1 0x1000
       openSlots (graph 3) 0 1 = [x] ∧ (inputHeaders 0 pkg1 st1 0 [0, 1, 2, 3] (graph 3)).1 = none
         ∧ stFrame? (graph 3) 0 st1.number x.frame = some x
         ∧ skipCount (graph 3) 0 pkg1 st1 x = 0
         ∧ x.next < x.limit ∧ tileReady (graph 3) 0 pkg1 st1 x.frame x.next = true)
    ∧ (let s := (withFrames [doneFrame 0 0x2000, openFrame0 1 0x1000] (graph 3)).setBurstErr 256 [(4, 1), (5, 1)]
       openSlots s 0 1 = [openFrame0 1 0x1000] ∧ (inputHeaders 0 pkg1 st1 0 [0, 1, 2, 3] s).1 = some (.dram 1 0x100)) :=
  ⟨⟨by decide +kernel, by decide +kernel, by decide +kernel, by decide +kernel, by decide +kernel, by decide +kernel,
    by decide +kernel⟩, by decide +kernel, by decide +kernel⟩

/-- R130, R375: the tile is in the block's log, and the counter has moved past it. -/
theorem test_tile_fetch : ((after (.tileFetch (.vec 0) 0 1) (graph 3)).unit 32).log.map (fun e => e.ref) = [tile 1]
    ∧ (stFrame? (after (.tileFetch (.vec 0) 0 1) (graph 3)) 0 1 0).map (fun x => (x.next, x.issued)) = some (1,
        [0]) := by decide +kernel

/-- Vector block 0 and Ox block 0 hold their tile. -/
def busy : State := ((graph 3).setUnit 32 { log := [held 1], beat := 4 }).setUnit 0 { log := [held 4] }

theorem witness_TileComplete :
    (busy.slot 0).pkg = some pkg1 ∧ stationOf busy 0 1 = some st1 ∧ held 1 ∈ (busy.unit 32).log ∧ (held 1).ref = tile 1
    ∧ (∀ e ∈ ((graph 3).unit 32).log, e.ref ≠ tile 1) ∧ st1.number = (tile 1).station
    ∧ stFrame? busy 0 1 0 = some (openFrame0 1 0x1000)
    ∧ (let s := busy.setUnit 0 { log := [held 4, { held 4 with ref := ⟨0, 4, 0, 1⟩ }] }
       (UnitRef.ox 0).id < 32 ∧ (s.unit 0).log = held 4 :: [{ held 4 with ref := ⟨0, 4, 0, 1⟩ }] ∧ (held 4).ref ≠ ⟨0, 4, 0, 1⟩
         ∧ stFrame? s 0 4 0 = some (openFrame0 4 0x3000))
    ∧ (stFrame? (storeTile 0 pkg1 st1 0 0 0 (boxOf pkg1 st1 0).1 (validExtents busy 0 pkg1 st1 0 0) [3, 4] [] busy) 0 1 0).isSome = true := by
  decide +kernel

/-- R120, R133: the copied tile has the source's elements, and the frame is complete with its only tile. -/
theorem test_tile_complete :
    (let s := after (.tileComplete (.vec 0) (tile 1)) (after (.muleTransfer 0 (tile 1) (.fetch (.vec 0) 0 0) []) (after (.tileFetch (.vec 0) 0 1) (graph 3)))
     (stFrame? s 0 1 0).map (fun x => (x.descs.map fun d => (d.check, d.last), x.lastSent)) = some ([(crc32c [3, 4], true)], true)
       ∧ (s.unit 32).log = []) := by decide +kernel
/-- Station `n` of the package. -/
def stn (n : Nat) : Station := (pkg1.stations[n]?).getD st1

/-- Whether the first row of an operand is the two elements. -/
def brought : Except Ident (List (List Nat × List Nat)) → Bool
  | .ok rows => decide (rows.head? = some ([3, 4], []))
  | .error _ => false

theorem witness_ExpandTile :
    (busy.slot 0).pkg = some pkg1 ∧ stationOf busy 0 4 = some (stn 4)
    ∧ expansionOf pkg1 (stn 4) = some (stn 3, ⟨1, 1, 1, 1, 1, 1, false, 0, 0, 0, 0, 1, 0, 1, 2, 2⟩, stn 0)
    ∧ muleServes busy 0 (UnitRef.ox 0).region = true ∧ (stn 4).tiling.reuse ≠ 3
    ∧ (∀ v ∈ castActs (stn 4) 0, bufferRoom busy v (stn 4) (tile 4) = true) ∧ actsPresent busy 0 pkg1 (stn 4) (tile 4) = false
    ∧ (readHeaders 0 0 [3, 0] busy).1 = none
    ∧ (let s1 := (readHeaders 0 0 [3, 0] busy).2
       let c := expandShare (stn 4) ⟨1, 1, 1, 1, 1, 1, false, 0, 0, 0, 0, 1, 0, 1, 2, 2⟩ (tile 4)
       let pos := (List.range (sharePositions pkg1 (stn 4) (tile 4) 0)).map (positionOf s1 pkg1 (stn 4) (tile 4) 0)
       brought (expandRows 0 pkg1 (stn 3) ⟨1, 1, 1, 1, 1, 1, false, 0, 0, 0, 0, 1, 0, 1, 2, 2⟩ (stn 0) 0 0 c.1 c.2 pos s1).1 = true
         ∧ (pos.filter Option.isSome).length = 1)
    ∧ headerHit [] = false ∧ headerHit [(2 ^ 32, 1)] = true ∧ headerHit [(1, 1)] = false
    ∧ crc32c (flipFrom [(1, 1)] 0 [3, 4]) ≠ crc32c [3, 4]
    ∧ (readHeaders 0 0 [3, 0] ((withFrames [doneFrame 0 0x2000, openFrame0 3 0, openFrame0 4 0x3000] busy).setBurstErr 256 [(4, 1), (5, 1)])).1
        = some (.dram 1 0x100) := by
  decide +kernel

theorem witness_VerificationTile :
    (let y := doneFrame 0 0; let x := openFrame0 3 0
     stationOf busy 0 3 = some (stn 3) ∧ pkg1.producer? (stn 3) 0 = some (stn 0) ∧ stFrame? busy 0 3 0 = some x
       ∧ muleServes busy 0 (pkg1.regionOf (stn 3)) = true ∧ x.slotOpen = true ∧ x.abandoned = false ∧ x.stalled = false
       ∧ (readHeader 0 0 0 3 busy).1 = none ∧ skipCount busy 0 pkg1 (stn 3) x = 0
       ∧ x.next = 0 ∧ 0 < x.limit ∧ tileReady busy 0 pkg1 (stn 3) 0 0 = true ∧ queuesOpen busy 0 pkg1 (stn 3) = true
       ∧ (nth (0, 0) (pkg1.verTiles (stn 3) ⟨1, 1, 1, 1, 1, 1, false, 0, 0, 0, 0, 1, 0, 1, 2, 2⟩) 0).2 = 0
       ∧ (readWhole 0 pkg1 (stn 0) 0 0 0 [] busy).1 = .good (0, 0, 0) (2, 1, 1) [3, 4] []
       ∧ (readWhole 0 pkg1 (stn 0) 0 0 0 [(1, 1)] busy).1 = .wrong
       ∧ (y.descs.find? fun d => decide (d.index = 0)).isSome = true) := by
  decide +kernel

theorem witness_MuleFetch :
    muleServes busy 0 (UnitRef.vec 0).region = true ∧ pkg1.producer? st1 0 = some (stn 0) ∧ (stn 0).kind ≠ 2 ∧ st1.tiling.reuse ≠ 3
    ∧ castSource busy pkg1 st1 32 = [32] ∧ bufferRoom busy 32 st1 (tile 1) = true
    ∧ (wantedTiles busy 0 pkg1 st1 0 0).contains (0, 0) = true ∧ (bufOf busy 32 (tile 1)).got.contains (0, 0) = false
    ∧ (readHeader 0 0 0 3 busy).1 = none ∧ headerHit [(1, 1)] = false
    ∧ stationOf busy 0 0 = some (stn 0) ∧ (readWhole 0 pkg1 (stn 0) 0 0 0 [(1, 1)] busy).1 = .wrong
    ∧ (readWhole 0 pkg1 (stn 0) 0 0 0 [] busy).1 ≠ .wrong := by decide +kernel

/-- Whether a read brought its bytes. -/
def gotBytes (n : Nat) : Got → Bool
  | .data b => decide (b.length = n)
  | .lost _ => false

theorem witness_MuleWeights :
    (stn 4).params = .matmul ⟨0, 0, 0xFFFFFFFF, 0, 0, 0, 0, 0x80000000, 0x7FFFFFFF, 2⟩ ∧ (stn 4).tiling.reuse ≠ 2 ∧ (stn 4).shape ≠ 4
    ∧ (∀ v ∈ castWeights (stn 4) 0, bufferRoom busy v (stn 4) (tile 4) = true) ∧ (bufOf busy 0 (tile 4)).weights = none
    ∧ (let l := weightRanges pkg1 (stn 4) ⟨0, 0, 0xFFFFFFFF, 0, 0, 0, 0, 0x80000000, 0x7FFFFFFF, 2⟩ 0 (tile 4)
       l = [[(0, 512)], [], []] ∧ gotBytes 512 (readConstants 0 0 [(0, 512)] busy).1 = true
         ∧ ∀ s, readConstants 0 0 [] s = (.data [], s)) :=
  ⟨by decide +kernel, by decide +kernel, by decide +kernel, by decide +kernel, by decide +kernel, by decide +kernel, by decide +kernel,
    fun _ => rfl⟩

/-- The graph with REUSE 3 on its matmul station, which has 512 bytes for each half. -/
def stR : Station := { stn 4 with tiling := { reuse := 3, resident := 512 } }
def busyR : State := modSlot 0 (fun x => { x with
  pkg := some { pkg1 with stations := pkg1.stations.take 4 ++ [stR] }
  frames := [doneFrame 0 0, { doneFrame 3 0 with descs := [] }, openFrame0 4 0x3000] }) busy

theorem witness_MuleResident :
    (let p := { pkg1 with stations := pkg1.stations.take 4 ++ [stR] }
     (busyR.slot 0).pkg = some p ∧ stationOf busyR 0 4 = some stR ∧ muleServes busyR 0 0 = true ∧ p.producer? stR 0 = some (stn 3)
     ∧ stR.tiling.reuse = 3 ∧ (busyR.unit 0).resetting = false ∧ (busyR.unit 0).resident = [] ∧ held 4 ∈ (busyR.unit 0).log
     ∧ (∀ e ∈ (busyR.unit 0).log, e.ref.frame = 0) ∧ (stFrame? busyR 0 3 0).map (fun y => y.lastSent) = some true
     ∧ (expansionOf p stR).map (fun y => y.2.2.number) = some 0 ∧ (readHeaders 0 0 [3, 0] busyR).1 = none
     ∧ brought (frameOperand 0 (tile 4) [] p stR (stn 3) (readHeaders 0 0 [3, 0] busyR).2).1 = true) := by decide +kernel

/-- R158: the block has its copy of the frame's activations. -/
theorem test_resident : ((after (.muleTransfer 0 (tile 4) (.resident (.ox 0)) []) busyR).unit 0).resident = [(0, 4, 0)] := by decide +kernel
/-! ## Cells, lanes and memories -/

/-- Block 0 with the operands of its tile: activations 3 and 4, every weight 3. -/
def loaded : State := busy.setUnit 0 { log := [held 4], opBuf := [{ ref := tile 4, expanded := true, acts := [3, 4] ++ List.replicate 126 0#8
                                                                    weights := some (List.replicate 512 3#8, [], []) }] }

/-- The run of that tile, its one token, and a token of a load wave. -/
def run4 : Run := ((runOf loaded (held 4)).getD ⟨pkg1, st1, ⟨0, 0, 0, 0, 0, 0, 0, 0, 0, 0⟩, .int8, 0, 0, 0, 0, 0, 0⟩)
def tok4 : StagTok := (nextToken loaded 0 run4 (held 4)).getD { kind := .load, ref := tile 4, step := 0, last := true, fmt := .int8, data := [], scales := [] }
def loadTok : StagTok := { kind := .load, ref := tile 4, step := 0, last := true, fmt := .int8, data := protect (List.replicate 512 1#8), scales := [] }

theorem witness_Accumulate :
    (loaded.unit 0).status ≠ .slice ∧ (loaded.unit 0).log.head? = some (held 4) ∧ stationOf loaded 0 4 = some (stn 4)
    ∧ chainOf (stn 4) 0 = [0] ∧ mayBeat loaded [0] = true
    ∧ (let s1 := releaseActs 0 (releaseWeights 0 loaded)
       unfed? s1 0 = some (held 4) ∧ runOf s1 (held 4) = some run4 ∧ operandsIn s1 0 run4 (held 4) = true ∧ run4.count = 1
         ∧ nextToken s1 0 run4 (held 4) = some tok4 ∧ tok4.kind = .weights ∧ tok4.last = true ∧ canAdvance s1 [0] (some tok4) = true)
    ∧ operandsIn (releaseActs 0 (releaseWeights 0 busy)) 0 run4 (held 4) = false
    ∧ unfed? (releaseActs 0 (releaseWeights 0 (busy.setUnit 0 { log := [{ held 4 with fed := 1 }] }))) 0 = none
    ∧ mayBeat (loaded.setUnit 0 { loaded.unit 0 with resetting := true }) [0] = false
    ∧ (let s := loaded.setUnit 7 { status := .slice }
       (s.unit 7).status = .slice ∧ working s = true ∧ s.drained = false ∧ (s.unit 7).resetting = false)
    ∧ (loaded.unit 5).status ≠ .slice ∧ (loaded.unit 5).log = [] := by decide +kernel

theorem witness_Beat :
    (let toks := some tok4 :: List.replicate 15 none
     toks.length = 16 ∧ dueChecks loaded 0 = [] ∧ (∀ k ∈ List.range 16, (rowBeat loaded 0 k (nth none toks k) []).faults = [])
       ∧ (rowBeat loaded 0 0 (some tok4) []).entry.isSome = true)
    ∧ (let toks := List.replicate 16 (some loadTok)
       (∀ k ∈ List.range 16, (rowBeat loaded 0 k (nth none toks k) []).faults = []) ∧ toks.head? = some (some loadTok) ∧ loadTok.kind = .load
         ∧ loadTok.last = true)
    ∧ tok4.kind ≠ .load ∧ entryFor loaded 15 tok4.ref = some 0 ∧ nth false (maskBits loaded 0 tok4.ref) 1 = false
    ∧ nth false (maskBits loaded 15 tok4.ref) 63 = true ∧ tok4.fmt.isInt = true := by decide +kernel

/-- R53, R89: 3 times 3 plus 3 times 4 in cell 1 of row 0; cell 63, a channel beyond the two of the tile, is masked. -/
theorem test_accumulate : (let e := (after (.accumulate 0 []) loaded).accE (accKey 0 0)
    ((nth (0, 0) e.cells 1).1, (nth (0, 0) e.cells 63).1, e.state)) = (21, 0, .closed)
    ∧ (after (.accumulate 0 []) loaded).accE (accKey 1 0) = {} := by decide +kernel

/-- A closed entry of the tile in row 0 of block 0, all but one of its values gone or none, at a beat. -/
def closedEntry (quarter beat : Nat) : State :=
  (busy.setUnit 0 { log := [{ held 4 with fed := 1 }], beat := beat }).setAccE (accKey 0 31)
    { state := if quarter = 0 then .closed else .draining, owner := some (tile 4), cells := List.replicate 64 (15, 0), closedAt := 9, quarter := quarter
      masked := List.replicate 2 false ++ List.replicate 62 true }

theorem witness_Drain :
    rowDue busy 0 = none ∧ rowDue (closedEntry 0 12) 0 = some (31, 12) ∧ 12 ≤ ((closedEntry 0 12).unit 0).beat
    ∧ ((closedEntry 0 12).unit 0).resetting = false ∧ (closedEntry 0 12).drained = false ∧ ((closedEntry 0 12).unit 0).checks = []
    ∧ ((closedEntry 0 12).accE (accKey 0 31)).quarter < 3
    ∧ 3 ≤ ((closedEntry 3 12).accE (accKey 0 31)).quarter ∧ (rowDue (closedEntry 3 12) 0).map Prod.fst = some 31
    ∧ 12 > ((closedEntry 0 11).unit 0).beat ∧ awaitsEntry (closedEntry 0 11) 0 = false
    ∧ (let s := (closedEntry 0 12).setUnit 0 { (closedEntry 0 12).unit 0 with checks := [(14, 0, 5)] }
       (s.unit 0).checks.filter (fun c => decide (c.2.1 = 0)) ≠ [] ∧ rowDue s 0 = some (31, 12)) := by decide +kernel

/-- R55: the last quarter of a row leaves, its two values are in the output buffer, and the entry is free. -/
theorem test_drain : (let s := after (.accumulatorDrain 0 0 31) (closedEntry 3 12)
    ((s.accE (accKey 0 31)).state, (s.unit 0).outBuf.map fun o => (o.row, o.codes.length))) = (.free, [(0, 2)]) := by decide +kernel

/-- R100: 1.0 + 2.0 = 3.0 in lane 0; a defect flips bit 0 of lane 1. -/
theorem test_vector_lanes : (let t := after (.vectorLaneOperation 7 .add false .fp32 (.given [0x3F800000#32, 0x3F800000#32])
        (.given [0x40000000#32, 0x40000000#32]) .lanes [(1, 1)]) (up [])
     nth 0#32 (t.laneV 7) 0 = 0x40400000#32 ∧ nth 0#32 (t.laneV 7) 1 = 0x40400001#32) := by decide +kernel

theorem witness_VectorLanes : working (up []) = true ∧ ((up []).unit 39).resetting = false ∧ ((up []).unit 39).status = .inService
    ∧ (up []).drained = false ∧ mayAccept (up []) 39 = true ∧ (up [(Reg.DRAINED, 1)]).drained = true ∧ VOp.add ≠ .load ∧ VOp.add ≠ .store := by
  decide +kernel

theorem witness_Numbers : Fmt.int16.isInt = true ∧ (31 : Nat) < 32 ∧ 0x7E < 2 ^ Fmt.e4m3.width
    ∧ decodeElem .e4m3 0x7E ≠ .nan
    ∧ decodeElem .e4m3 0x7F = .nan ∧ 0xFFFF < 2 ^ Fmt.int16.width ∧ decodeElem .int16 0xFFFF ≠ .nan := by decide +kernel

/-- R82, R96: the largest E4M3 number is 448; FP16 65504 is too large for it and saturates. -/
theorem test_numbers : toElem .e4m3 (numOfInt 448) = 0x7E ∧ toElem .e4m3 (numOfInt 65504) = 0x7E
    ∧ toElem .int8 (numOfInt (-300)) = 0x80 := by
  decide +kernel

/-- One wrong data symbol, and two. -/
def oneBad : BurstErr := [(4, 0xFF)]
def twoBad : BurstErr := [(4, 0xFF), (35, 1)]

theorem witness_Dram : 128 * 2 ^ 30 - 1 < net.capacity ∧ net.capacity ≤ 128 * 2 ^ 30
    ∧ net.capacity ≤ 32 * (128 * 2 ^ 25)
    ∧ decodeBurst (mergeErr (net.burstErr 0) []) = .clean
        ∧ decodeBurst (mergeErr (net.burstErr 0) oneBad) = .corrected (4, 0xFF)
    ∧ decodeBurst (mergeErr (net.burstErr 0) twoBad) = .uncorrectable ∧ (4 : Nat) ≤ (39 : Fin 40).val
        ∧ (0x80 : Byte) ≠ 0#8 := by
  decide +kernel

/-- R243, R249: what is corrected is counted against channel 0, and a scrub leaves nothing wrong. -/
theorem test_dram : (after (.dramRead 0 none 0 none oneBad) net).r (Reg.DRAM_CORR 0) = 1
    ∧ (after (.dramRead 0 none 0 none twoBad) net).r (Reg.DRAM_UNCORR 0) = 1
    ∧ (after (.dramScrub 0 oneBad) net).burstErr 0 = []
        ∧ (after (.dramRead 0 none 0 none oneBad) net).burstErr 0 = oneBad := by decide +kernel

theorem witness_PartialWrites :
    (let b : Bytes := ([1, 2, 3] : Bytes).take (32 - 30 % 32)
     30 < net.capacity ∧ b = [1, 2] ∧ decodeBurst (mergeErr (net.burstErr 0) []) ≠ .uncorrectable
         ∧ mergeErr (net.burstErr 0) [] = []
       ∧ b.length < 32 ∧ decodeBurst (mergeErr (net.burstErr 0) twoBad) = .uncorrectable)
    ∧ ((List.replicate 32 7#8).take (32 - 32 % 32)).length = 32 := by decide +kernel

/-- R244: only the bytes that fall into the burst are stored. -/
theorem test_partial_write : (let t := after (.dramPartialWrite 30 [1, 2, 3] none 0 []) net
    (t.memByte 29, t.memByte 30, t.memByte 31, t.memByte 32) = (0, 1, 2, 0)) := by decide +kernel

/-- A cached line of graph 0 at address 0x1000 of region 0, its first sector valid. -/
def lineAt (dirty poison : Bool) : State :=
  net.setSet (setKey 0 0x1000) [⟨0x1000 / 128, 1, [true, false, false, false], [dirty, false, false, false], [poison,
      false, false, false],
    [List.replicate 32 1, [], [], []]⟩]

theorem witness_OutsideWrites : 0x1000 + 2 ≤ net.capacity ∧ net.lines = [] ∧ net.burstErr 0 = []
    ∧ ((lineAt false false).set (setKey 0 0x1000)).length = 1 ∧ net.capacity < 128 * 2 ^ 30 - 1 + 2
    ∧ (((lineAt false false).set (setKey 0 0x1000)).filter fun l => l.has 0x1000).length ≤ 1 := by decide +kernel

/-- A device with the output of the graph's vector station at 0x1000, which runs in region 0. -/
def placed : State := { graph 3 with space := [⟨.tensor 0 1, 0x1000, 512⟩] }

theorem witness_RegionCache :
    0x1000 < net.capacity ∧ net.space = [] ∧ lostSector (cachedRead 0 0 0x1000 [0] [] .none (lineAt false false)) 0 0x1000 true [0] = none
    ∧ lostSector (cachedRead 0 0 0x1000 [0] [] .none (lineAt true true)) 0 0x1000 true [0] = some 128
    ∧ ((placed.space.find? fun x => decide (x.base ≤ 0x11FF) && decide (0x11FF < x.base + x.size)).map fun x => x.owner) = some (.tensor 0 1)
    ∧ (placed.slot 0).pkg = some pkg1 ∧ stationOf placed 0 1 = some st1 ∧ st1.crossRegion = false ∧ st1.kind ≠ 1
    ∧ stationRegions pkg1 st1 = [0] ∧ stationRegions pkg1 st1 ≠ [3]
    ∧ (let s := modSlot 0 (fun x => { x with pkg := some { pkg1 with stations := pkg1.stations.take 1 ++ [{ st1 with crossRegion := true }] } }) placed
       (stationOf s 0 1).map (fun q => q.crossRegion) = some true)
    ∧ (∃ l, ((lineAt true false).set (setKey 0 0x1000))[0]? = some l ∧ l.has 0x1000 = true
        ∧ nth false l.valid 0 = true ∧ nth false l.poison 0 = false ∧ nth false l.dirty 0 = true)
    ∧ ((lineAt true false).set (setKey 0 0x1000)).findIdx? (fun l => l.has 0x1000) = some 0 ∧ 0 = 0x1000 / 32 % 4
    ∧ (∃ l, ((lineAt false false).set (setKey 0 0x1000))[0]? = some l ∧ nth false l.dirty 0 = false)
    ∧ secDed net .none = 0 ∧ secDed net .single = 1 ∧ secDed net .double = 2
    ∧ 0 < ((lineAt true false).set (4096 * 0 + setKey 0 0x1000 % 4096)).length :=
  ⟨by decide +kernel, by decide +kernel, by decide +kernel, by decide +kernel, by decide +kernel, by decide +kernel, by decide +kernel,
    by decide +kernel, by decide +kernel, by decide +kernel, by decide +kernel, by decide +kernel, ⟨_, rfl, by decide +kernel⟩,
    by decide +kernel, by decide, ⟨_, rfl, by decide +kernel⟩, by decide +kernel⟩

/-- R225: the valid sector is a hit, the next one a miss. -/
theorem test_region_cache : (after (.regionCacheRead 0 0 0x1000 [0] none [] .none) (lineAt false false)).r (Reg.RC_HITS 0) = 1
    ∧ (after (.regionCacheRead 0 0 0x1000 [1] none [] .none) (lineAt false false)).r (Reg.RC_HITS 0) = 0 := by decide +kernel

/-- A device whose block 31 has its last bank powered. -/
def banked : State := { net with segs := [(64 * 31 + 63, ⟨1, 4, false⟩)] }

theorem witness_Onchip :
    (let k := wordKey 31 8191 63
     bankPower banked 31 (8191 / 512) = 1 ∧ (banked.unit (UnitRef.ox 31).id).status ≠ .inTest ∧ wordVerdict banked k .none = 0
         ∧ wordVerdict banked k .single = 1
       ∧ wordVerdict banked k .double = 2 ∧ banked.sramErr k = 0)
    ∧ bankPower banked 31 (0 / 512) ≠ 1
        ∧ ((banked.setUnit 31 { status := .inTest }).unit (UnitRef.ox 31).id).status = .inTest := by decide +kernel

/-- R204, R229: one wrong bit is corrected and counted, two are reported. -/
theorem test_scratchpad : (after (.scratchpadRead 31 8191 63 ⟨(.ox 31), .other⟩ .single) banked).r (Reg.FAULT_COUNT
    (Src.SCRATCH_CORR - 1)) = 1
    ∧ (after (.scratchpadRead 31 8191 63 ⟨(.vec 7), .other⟩ .double) banked).r (Reg.FAULT_COUNT (Src.SCRATCH_UNCORR - 1)) = 1
    ∧ (after (.scratchpadRead 31 0 63 ⟨(.mule 15), .other⟩ .double) banked).r (Reg.FAULT_COUNT
        (Src.SCRATCH_UNCORR - 1)) = 0 := by decide +kernel

/-! ## Redundancy, tasks and the gate -/

/-- Both copies of the pair 0 and 1 have closed a window. -/
def windowsClosed (a b : BitVec 64) : State :=
    (busy.setUnit 0 { log := [held 4], closed := [(3, a)] }).setUnit 1 { log := [held 4], closed := [(3, b)] }

/-- A sample of the station's tile: one token, the slice of `tok4`, in row 0 with channel 1 alone unmasked. -/
def sample4 : Sample := { ref := tile 4, block := 31, codes := [0], scales := [], toks := [tok4]
                          masks := [[true, false] ++ List.replicate 62 true] }

theorem witness_Copies :
    (let s := windowsClosed 1 1
     partner s 0 = some 1 ∧ isCopyA s 0 = true ∧ (s.unit 0).closed = [(3, 1)] ∧ (s.unit 1).closed = [(3, 1)]
         ∧ s.drained = false
       ∧ (s.unit 0).resetting = false ∧ (s.unit 1).resetting = false)
    ∧ ((windowsClosed 1 2).unit 1).closed = [(3, 2)] ∧ partner (windowsClosed 1 2) 0 = some 1
    ∧ ((busy.setUnit 39 { resetting := true }).unit 39).resetting = true
        ∧ (busy.setUnit 39 { resetting := true }).drained = false
    ∧ ((busy.setGoose 3 { samples := [sample4] }).goose 3).samples = [sample4] ∧ (busy.setGoose 3 { samples := [sample4] }).drained = false
    ∧ gooseOutput (busy.setGoose 3 { samples := [sample4] }) sample4 = ([0], []) ∧ flipCodes [1] [0] ≠ [0] := by decide +kernel

/-- R372, R377: equal windows go on; different ones start a reset of both. -/
theorem test_pair_compare : ((after (.pairCompare (.ox 0)) (windowsClosed 1 1)).unit 1).compared = 4
    ∧ ((after (.pairCompare (.ox 0)) (windowsClosed 1 2)).unit 0).resetting = true
    ∧ ((after (.pairCompare (.ox 1)) (windowsClosed 1 2)).unit 1).resetting = true := by decide +kernel

theorem witness_TaskMonitors :
    (let s := graph 3; let late := s.setT 3 1000000; let done := late.setSlot 0 { late.slot 0 with frames := [doneFrame 0 0] }
     (s.mon 255).running.find? (fun p => p.1 = 0) = some (0, 0) ∧ s.t3 < 0 + 1000 * s.r (Reg.MON_BUDGET 255)
       ∧ s.drained = false ∧ (late.mon 255).running.find? (fun p => p.1 = 0) = some (0, 0)
           ∧ 0 + 1000 * late.r (Reg.MON_BUDGET 255) ≤ late.t3
       ∧ taskDone late 255 0 = false ∧ taskDone done 255 0 = true ∧ taskAbandoned done 255 0 = false
       ∧ (let gone := late.setSlot 0 { late.slot 0 with frames := [{ doneFrame 0 0 with abandoned := true }] }
          taskDone gone 255 0 = true ∧ taskAbandoned gone 255 0 = true)
       ∧ s.r (Reg.MON_GRAPH 255) ≠ 0 ∧ 1000 * s.r (Reg.MON_ALIVE_MAX 255) ≠ 0 ∧ 3 ≤ gstate s 0
           ∧ s.t3 < (s.mon 255).since + 2000000
       ∧ (s.mon 255).since + 2000000 ≤ (s.setT 3 2000000).t3) := by decide +kernel

/-- R359, R360: 1,000 µs after its start the frame is late, 1 ns before it is not. -/
theorem test_budget : (after (.taskBudgetExpiry 255 0) ((graph 3).setT 3 1000000)).r (Reg.MON_OVERRUNS 255) = 1
    ∧ (after (.taskBudgetExpiry 255 0) ((graph 3).setT 3 999999)).r (Reg.MON_OVERRUNS 255) = 0
    ∧ (after (.taskAliveExpiry 255) ((graph 3).setT 3 2000000)).r (Reg.MON_ALIVE_FAULTS 255) = 1 := by decide +kernel
/-- A record of the publish station: its input complete or not, its mark, its task's state, an earlier record. -/
def record (data : Bool) (mark : Option Nat) (running : Bool) (earlier : Bool) : State :=
  (withFrames ([doneFrame 0 0, { doneFrame 1 0 with lastSent := data }, { openFrame0 2 0 with markAt := mark }]
    ++ (if earlier then [{ station := 2, frame := 0xFFFFFFFF, limit := 1 }] else [])) (graph 3)).setMon 255 { running := if running then [(0, 0)] else [] }

/-- A change of every station frame of graph 0. -/
def frames (s : State) (f : StFrame → StFrame) : State := modSlot 0 (fun x => { x with frames := x.frames.map f }) s

/-- A record whose input's tile has another check word. -/
def spoilt : State := frames (record true none false false) fun x => { x with descs := x.descs.map fun d => { d with check := 0 } }

theorem witness_Gate :
    publishOf (record true none false false) 0 2 = some ⟨false, false, 5, 31, none⟩
    ∧ stFrame? (record true none false false) 0 2 0 = some (openFrame0 2 0)
    ∧ (record true none false false).drained = false ∧ dataComplete (record true none false false) 0 2 0 = true
    ∧ (let t := handRecord 0 2 0 (record true none false false)
       earlierWaits t 0 2 0 = false ∧ checksClosed t 0 2 0 = true)
    ∧ (let s := frames (record true none true false) fun x => if x.station = 0 then { x with lastSent := false } else x
       let t := handRecord 0 2 0 s
       earlierWaits t 0 2 0 = false ∧ checksClosed t 0 2 0 = false
           ∧ fswWithheld (recordWord t 0 2 0) (t.r (Reg.WITHHOLD 0)) = false)
    ∧ earlierWaits (frames
        (record true none false true) fun x => if x.frame = 0 then x else { x with station := 2 }) 0 2 0xFFFFFFFF = true
    ∧ dataComplete (record false none false false) 0 2 0 = false
    ∧ (record false (some 5) false false).t3 < 5 + 10000000
    ∧ 5 + 10000000 ≤ ((record false (some 5) false false).setT 3 10000005).t3
    ∧ stFrame? (record false (some 5) false false) 0 2 0 = some { openFrame0 2 0 with markAt := some 5 }
    ∧ dataComplete (record true (some 5) false false) 0 2 0 = true
    ∧ (match (recordPayload 0 2 0 (record true none false false)).1 with
       | .ok b => decide (b = [3, 4])
       | .error _ => false) = true
    ∧ (match (recordPayload 0 2 0 spoilt).1 with
       | .ok _ => false
       | .error w => decide (w = .tile (tile 1))) = true := by decide +kernel

/-- R350, R351, R487: the released record has VALID and the two elements of its input. -/
theorem test_gate_release : ((waitingOf (after (.gateRelease 0 2 0) (record true none false false)) 31).map
      fun x => (x.payload, fswHas x.word Fsw.VALID, x.kind)) = [([3, 4], true, 0)]
    ∧ ((waitingOf (after (.gateWithholdTimeout 0 2 0) ((record false (some 5) false false).setT 3 10000005)) 31).map
      fun x => (x.payload, fswHas x.word Fsw.VALID, x.kind)) = [([], false, 1)] := by decide +kernel

theorem witness_ReleasedRecords :
    (let p : PublishRec := ⟨false, false, 5, 31, none⟩; let s := record true none false false
     publishOf s 0 2 = some p ∧ p.overlayTarget = false ∧ p.stream < 32
       ∧ fswWithheld (recordWord s 0 2 0) (s.r (Reg.WITHHOLD 0)) = false ∧ s.safe = false ∧ s.drained = false
           ∧ (s.slot 0).admitAfter ≤ 0) := by
  decide +kernel

/-- A record that waits on stream 31, which goes to a port. -/
def waitingRec : Rec := ⟨31, 1, 0, 7, 0x80000000, 0, 0, 5, [3, 4], (2, 1, 1)⟩
def sending (port : Nat) : State :=
  setWaiting 31 [waitingRec] ([(Reg.STR_PORT 31, port), (Reg.CAN_ENABLE 3, 1)].foldl (fun s p => s.setR p.1 p.2) net)

/-- The same with queue 0 of ETH-S shaped to 1 Mb/s, at a credit. -/
def shaped (c : Int) : State := setCredit 1 0 ⟨c, 0⟩ ((sending 1).setBlob (Reg.TSN_IDLE_SLOPE 1) (leBytes 4 1000 ++ List.replicate 28 0#8))

theorem witness_TheOldestRecordStarts :
    waitingOf (sending 1) 31 = [waitingRec] ∧ (sending 1).r (Reg.STR_PORT 31) < 2
        ∧ (sending 1).on (Reg.STR_FRER 31) = false
    ∧ ethUp (sending 1) 1 = true ∧ alwaysOpen (sending 1) 1 (queueOf ((sending 1).r (Reg.STR_VLAN1 31))) = true
    ∧ ethUp ((sending 1).setR (Reg.NET_LINK_STATE 1) 1) 1 = false
    ∧ shaperOpen (sending 1) 1 0 = true ∧ shaperOpen (shaped (-1)) 1 0 = false ∧ shaperOpen (shaped 0) 1 0 = true
    ∧ ethUp (shaped (-1)) 1 = true ∧ alwaysOpen (shaped (-1)) 1 (queueOf ((shaped (-1)).r (Reg.STR_VLAN1 31))) = true
    ∧ 4 ≤ (sending 7).r (Reg.STR_PORT 31) ∧ (sending 7).r (Reg.STR_PORT 31) < 8 ∧ canUp (sending 7) 3 = true
        ∧ waitingOf (sending 7) 31 = [waitingRec]
    ∧ canUp ((sending 6).setR (Reg.CAN_ENABLE 2) 0) 2 = false := by decide +kernel

/-! ## The supervisor, fuses and faults -/

theorem witness_Supervisor :
    net.sys.handover = false ∧ net.sup.resync = none ∧ (1 : Nat) ≠ 2
    ∧ ({ net with sup := { net.sup with resync := some 2 } } : State).sup.resync = some 2 ∧ (1 : BitVec 64) ≠ 2
    ∧ (let s : State := { net with sup := { net.sup with dissentAt := [(2, 100)] } }
       sfind (2 : Fin 3).val s.sup.dissentAt = some 100 ∧ s.t3 < 100 ∧ 100 ≤ (s.setT 3 100).t3
           ∧ sfind (3 + (2 : Fin 3).val) s.sup.dissentAt = none)
    ∧ (let s : State := { net with sup := { net.sup with dissentAt := [(2, 100), (5, 1)] } }
       (sfind (3 + (2 : Fin 3).val) s.sup.dissentAt).isSome = true) := by decide +kernel

/-- R386: the two that agree are issued, the third is resynchronised. -/
theorem test_vote : (after (.vote (some 4) (some 4) (some 5) false) net).sup.issued = [4]
    ∧ (after (.vote (some 4) (some 4) (some 5) false) net).sup.resync = some 2
    ∧ (after (.vote (some 4) (some 5) (some 6) false) net).sys.handover = true
    ∧ (after (.vote (some 4) (some 4) (some 4) true) net).sys.handover = true := by decide +kernel

theorem witness_Fuses :
    ({ net with aon := { net.aon with health1 := true } } : State).aon.health1 = true ∧ net.fuses.health2 = false
    ∧ ({ net with sys := { net.sys with enrolling := true } } : State).sys.enrolling = true ∧ net.sys.enrolling = false
    ∧ ({ net.fuses with bank1 := { used := true } } : Fuses).bank1.used = true ∧ net.fuses.bank1.used = false
    ∧ ({ net with sys := { net.sys with faultReset := some 0 } } : State).sys.faultReset.isSome = true
        ∧ net.sys.faultReset = none
    ∧ (let s : State := { net with aon := { net.aon with suspect := [(39, 100)] } }
       (UnitRef.vec 7).id < 40 ∧ sfind (UnitRef.vec 7).id s.aon.suspect = some 100 ∧ s.t3 < 100
           ∧ 100 ≤ (s.setT 3 100).t3) := by decide +kernel

/-- Sources and the reactions that they have here. -/
def reacting (c : Nat) : State := net.setR (Reg.REACTION (Src.TILE_CHECK - 1)) c

theorem witness_Raising :
    isFaultSource Src.TILE_CHECK = true ∧ reactionOf (reacting 1) Src.TILE_CHECK = 1
        ∧ reactionOf (reacting 2) Src.TILE_CHECK = 2
    ∧ reactionOf (reacting 3) Src.TILE_CHECK = 3 ∧ reactionOf (reacting 4) Src.TILE_CHECK = 4
        ∧ reactionOf (reacting 5) Src.TILE_CHECK = 5
    ∧ reactionOf ((reacting 4).setR Reg.DRAINED 1) Src.TILE_CHECK = 5
        ∧ (net.setR Reg.FIRST_SOURCE 1).r Reg.FIRST_SOURCE ≠ 0
    ∧ net.r Reg.FIRST_SOURCE = 0 ∧ net.sys.handover = false
        ∧ ({ net with sys := { net.sys with handover := true } } : State).sys.handover = true
    ∧ (Ident.unit 39).unit? = some 39 ∧ (Ident.unit 40).unit? = none
    ∧ (let s : State := { reacting 4 with aon := { net.aon with lastFaultReset := some 100 } }
       s.aon.lastFaultReset = some 100 ∧ s.t3 < 100 ∧ 100 ≤ (s.setT 3 100).t3) := by decide +kernel

/-- R425, R426, R429, R431: the source counts, is pending, and is latched from reaction 2 on; its identity reaches the trio. -/
theorem test_raise : (let t := raise Src.TILE_CHECK (.tile (tile 1)) (reacting 2)
    (t.r (Reg.FAULT_COUNT (Src.TILE_CHECK - 1)), t.r (Reg.PENDING 0), t.r Reg.FIRST_SOURCE, t.safe) = (1, 2 ^ 0x20,
        0x20, false) ∧ t.sup.traps = [(Src.TILE_CHECK, .tile (tile 1))])
    ∧ (raise Src.TILE_CHECK (.unit 0) (reacting 5)).safe = true
        ∧ (raise Src.TILE_CHECK (.unit 0) (reacting 1)).r Reg.FIRST_SOURCE = 0 := by
  decide +kernel

theorem witness_SafeState :
    (let s := net.setR Reg.SAFE_STATE 1
     s.safe = true ∧ errHeld s = false ∧ s.drained = false ∧ errHeld (s.setR (Reg.ERR_HOLD 1) 1) = true
         ∧ (s.setR Reg.DRAINED 1).drained = true)
    ∧ canUp net 0 = true ∧ ethUp (net.setR (Reg.NET_LINK_STATE 0) 0) 0 = false
        ∧ canUp (net.setR (Reg.CAN_ENABLE 0) 0) 0 = false := by decide +kernel

/-- R338, R341: an uncleared source keeps the device in the safe state; a cleared one lets it go. -/
theorem test_safe_state : (after (.pendingClear q0 0 4 []) ((faulty.setR Reg.SAFE_STATE 1))).safe = false
    ∧ (after (.pendingClear q0 0 2 []) ((faulty.setR Reg.SAFE_STATE 1))).safe = true := by decide +kernel
/-- The links and buses of `net` with some more entries set. -/
def netWith (l : List (Nat × Nat)) : State := l.foldl (fun s p => s.setR p.1 p.2) net

/-! ## In-field test and monitors -/

/-- A device whose units were last tested when T3 was 0, with a pattern for Ox blocks, at an instant of T3. -/
def testing (t3 : Nat) (f : Ift → Ift) : State :=
  { (up []).setT 3 t3 with ift := f {}, sys := { (up []).sys with testPkg := { patterns := [⟨0, 0, 0, 1, 0, 64, 7, 0⟩, ⟨3, 0, 0, 1, 0, 64, 9, 0⟩] } } }

theorem witness_InFieldTest :
    (let s := testing 69999999 id
     s.drained = false ∧ working s = true ∧ s.ift.due.contains (UnitRef.goose 3).id = false
         ∧ (s.unit 59).status ≠ .inTest
       ∧ s.t3 < testStart s 59 + 70000000 ∧ testStart s 59 + 70000000 ≤ (testing 70000000 id).t3
       ∧ s.ift.overdue.contains 59 = false ∧ s.t3 < testStart s 59 + 100000000
           ∧ testStart s 59 + 100000000 ≤ (testing 100000000 id).t3)
    ∧ (let s := (testing 70000000 fun x => { x with due := [8] }).setUnit 8 { status := .withdrawn }
       (groupOf s 8).any (slicePending s) = false ∧ (groupOf s 8).any (fun v => s.ift.due.contains v) = true
         ∧ ∀ v ∈ groupOf s 8, (s.unit v).status = .withdrawn)
    ∧ (let s := testing 70000000 fun x => { x with slots := [⟨[8], [⟨0, 0, 0, 1, 0, 64, 7, 0⟩]⟩] }
       s.ift.slots.find? (fun x => x.units.contains 8) = some ⟨[8], [⟨0, 0, 0, 1, 0, 64, 7, 0⟩]⟩ ∧ (8 : Nat) < 60)
    ∧ (let s := testing 70000000 fun x => { x with due := [59] }
       s.ift.due.contains (56 + (3 : Fin 4).val) = true ∧ (s.goose 3).samples = []
         ∧ [] ≠ expected [⟨testKind 59, 0, 0, 1, 0, 64, 9, 0⟩] (56 + (3 : Fin 4).val)) := by decide +kernel

/-- R399, R402: a block whose signature is that of its pattern passes, any other drains the chip. -/
theorem test_slot_end : (let s := testing 0 fun x => { x with slots := [⟨[8], [⟨testKind 8, 0, 0, 1, 0, 64, 7, 0⟩]⟩] }
    ((after (.iftSlotEnd (.ox 8) [(.ox 8, [7])] []) s).drained, (after (.iftSlotEnd (.ox 8) [(.ox 8,
        [6])] []) s).drained,
      (after (.iftSlotEnd (.ox 8) [(.ox 8, [7])] []) s).r Reg.SLOTS_RUN)) = (false, true, 1) := by decide +kernel

/-- A golden slice on pipe 3, run by both units of its reference slice, its pipe word 1. -/
def goldenSlice (decided : Bool) : Slice :=
  { ctx := 27, seqNo := 0, expect := 0x200000001, taken := true, inDone := true, decided := decided, pipeWord := 1 }
def slice_ (decided wordBad : Bool) : State :=
  ((modPipe 3 (fun x => { x with slices := [goldenSlice decided], lastPipeWordBad := wordBad })
    (up [])).setUnit 31 { status := .slice }).setUnit 39 { status := .slice }

theorem witness_GoldenSlice :
    currentSlice (slice_ false true) 3 = some (goldenSlice false) ∧ currentSlice (slice_ true true) 3 = some (goldenSlice true)
    ∧ (slice_ false true).drained = false ∧ ((slice_ false true).unit (8 * 3 + 7)).status = .slice
    ∧ ((slice_ false true).unit (33 + 2 * 3)).status = .slice ∧ bitsOf 0x200000001 31 0 = 1
        ∧ bitsOf 0x200000001 63 32 = 2 := by decide +kernel

/-- R415: the pipe's word and the slice's word must both be those expected. -/
theorem test_golden : (after (.goldenSliceComplete 3 0 2) (slice_ false true)).r (Reg.GOLDEN_PASS 3) = 1
    ∧ (after (.goldenSliceComplete 3 0 3) (slice_ false true)).r (Reg.GOLDEN_MISMATCHES 3) = 1
    ∧ (after (.goldenSliceComplete 3 1 2) (slice_ false true)).r Reg.SUSPECT_PIPE = 8 := by decide +kernel

theorem witness_Monitors :
    stallLimit (.bridge 0) < 10001 ∧ 10000 ≤ stallLimit (.bridge 0) ∧ stallInTest net (.bridge 0) = false
    ∧ (16 : Fin 40).val = 16 + (3 : Fin 24).val / 4 ∧ (21 : Fin 40).val = 16 + (23 : Fin 24).val / 4
    ∧ 26 ≤ (34 : Fin 40).val ∧ (36 : Fin 40).val = 36 ∧ 23 ≤ (25 : Fin 40).val ∧ (15 : Fin 40).val < 16 ∧ 37 ≤ (39 : Fin 40).val
    ∧ (let s := { (netWith [(Reg.DSP_V_ACTIVE 3, 2)]) with disp := [(3, { active := true, line := 1 })] }
       (3 : Fin 24).val < 4 ∧ (s.dsp 3).active = true ∧ (s.dsp 3).line < s.r (Reg.DSP_V_ACTIVE 3))
    ∧ paced net = true ∧ sget dflt0 net.pace 4 + 1000 ≤ (net.setT 3 1000).t3 ∧ net.t3 < sget dflt0 net.pace 4 + 1000
    ∧ paced ({ net with sys := { net.sys with phase := .standby } } : State) = false
    ∧ corePowered net = true
    ∧ 650 ≤ net.r Reg.CORE_V_REQ ∧ net.r Reg.CORE_V_REQ ≤ 850
    ∧ (∀ i ∈ List.range 5,
        (net.setR Reg.PACE_SET 0).r Reg.PACE_SET ≤ (net.setR Reg.PACE_SET 0).r (Reg.PACE_LIVE i) + 25)
    ∧ (∃ i ∈ List.range 5, net.r (Reg.PACE_LIVE i) ≤ net.r Reg.PACE_SET + 25)
    ∧ corePowered ({ net with sys := { net.sys with phase := .standby } } : State) = false := by decide +kernel

/-- R37, R42, R550: one ns beyond the limit, one beat below the gate, one degree above 110 °C. -/
theorem test_monitors : (after (.handshakeStall (.bridge 0) 10001) net).r (Reg.FAULT_COUNT
    (Src.HANDSHAKE_STALL - 1)) = 1
    ∧ (after (.handshakeStall (.bridge 0) 10000) net).r (Reg.FAULT_COUNT (Src.HANDSHAKE_STALL - 1)) = 0
    ∧ (after (.paceGateWindow 4 1249) (net.setT 3 1000)).r (Reg.PACE_LOW 4) = 1
        ∧ (after (.paceGateWindow 4 1250) (net.setT 3 1000)).r (Reg.PACE_LOW 4) = 0
    ∧ (after (.temperatureRead [110, 111, -40, 0, 25]) net).r Reg.TJ_HIGH = 1
    ∧ (after (.temperatureRead [110, 111, -40, 0, 25]) net).r (Reg.TJ_LIVE 2) = 0xFFD8 := by decide +kernel

/-! ## Cameras, point clouds and the image pipeline -/

/-- A frame of two lines of four 12-bit pixels in progress on port 23, and the link's packets since T3 = 0. -/
def camFrame (pix : List Bytes) (truncated : Bool) : CamFrame :=
  { port := 23, ctx := 0xFF, params := { width := 4, lines := 2, embLines := 1 }, sof := 0, pix := pix, truncated := truncated }
def camera (f : Option CamFrame) : State :=
  (netWith [(Reg.CAM_ENABLE 23, 1), (Reg.CAM_LINK_STATE 23, 2)]).setPort 23 { cur := f, prevStart := some 0 }

theorem witness_CameraLinks :
    (netWith [(Reg.CAM_ENABLE 23, 1), (Reg.CAM_LINK_STATE 23, 1)]).on (Reg.CAM_ENABLE 23) = true
    ∧ (netWith [(Reg.CAM_ENABLE 23, 1), (Reg.CAM_LINK_STATE 23, 1)]).r (Reg.CAM_LINK_STATE 23) = 1
    ∧ portUp net 23 = false ∧ portUp (camera none) 23 = true ∧ ((camera none).port 23).cur = none
    ∧ ((camera (some (camFrame [] false))).port 23).cur = some (camFrame [] false)
    ∧ (0 : Fin 16).val = (camera none).r (Reg.CAM_VC 23) ∧ 2 ≤ (3 : Fin 64).val ∧ (15 : Fin 16).val ≠ (camera none).r (Reg.CAM_VC 23) := by
  decide +kernel

theorem witness_CameraFrames :
    (0 : Fin 16).val = (camera none).r (Reg.CAM_VC 23) ∧ (1 : Fin 16).val ≠ (camera none).r (Reg.CAM_VC 23)
    ∧ tooEarly (closeFrame 23 (touchPort 23 0 false (camera none))) 23 = true
    ∧ tooEarly (closeFrame 23 (touchPort 23 0 false ((camera none).setT 3 1000000000))) 23 = false
    ∧ tooEarly (closeFrame 23 (touchPort 23 0 true (camera none))) 23 = true
    ∧ tooEarly (closeFrame 23 (touchPort 23 0 true ((camera none).setT 3 1000000000))) 23 = false
    ∧ (0x2C : Fin 64).val = (camFrame [] false).params.dataType ∧ (0x2B : Fin 64).val ≠ (camFrame [] false).params.dataType
    ∧ (0x2C : Fin 64).val = (camera none).r (Reg.CAM_DATA_TYPE 23)
    ∧ (List.replicate 6 0#8).length = lineBytes (camFrame [] false).params
        ∧ [List.replicate 6 0#8].length < (camFrame [] false).params.lines
    ∧ (camFrame [] false).params.lines ≤ [List.replicate 6 0#8, []].length
        ∧ (List.replicate 5 0#8).length ≠ lineBytes (camFrame [] false).params
    ∧ (camFrame [] true).truncated = true ∧ (camFrame [] false).emb.length < (camFrame [] false).params.embLines
    ∧ (camFrame [] false).params.embLines ≤ [([] : Bytes)].length
        ∧ lineBytes (camFrame [] false).params < (List.replicate 7 0#8).length
    ∧ ((camera none).port 23).lastPkt + (camera none).r (Reg.CAM_LINE_TIMEOUT 23) * 1000 ≤
        ((camera none).setT 3 1000000).t3
    ∧ ((camera none).setT 3 999999).t3 < ((camera none).port 23).lastPkt + (camera none).r
        (Reg.CAM_LINE_TIMEOUT 23) * 1000 := by decide +kernel

/-- R265, R268, R270: a line of four 12-bit pixels has 6 bytes; a shorter one is lost and cuts the frame; the silence closes it. -/
theorem test_pixel_line : (((after (.pixelLine 23 (List.replicate 6 7#8) true ⟨0, 0x2C, false⟩) (camera (some
    (camFrame [] false)))).port 23).cur.map
      fun f => f.pix) = some [List.replicate 6 7#8]
    ∧ (((after (.pixelLine 23 (List.replicate 5 7#8) true ⟨0, 0x2C, false⟩) (camera (some (camFrame [] false)))).port 23).cur.map
      fun f => (f.pix, f.truncated)) = some ([], true)
    ∧ (after (.pixelLine 23 (List.replicate 6 7#8) true ⟨0, 0x2B, false⟩) (camera (some (camFrame [] false)))).r (Reg.CAM_OTHER_DROP 23) = 1
    ∧ (after (.lineTimeout ⟨23, false⟩) ((camera (some (camFrame [] false))).setT 3 1000000)).r
        (Reg.CAM_SHORT 23) = 1
    ∧ (after (.lineTimeout ⟨23, true⟩) ((camera (some (camFrame [] false))).setT 3 1000000)).r
        (Reg.CAM_SHORT 23) = 0 := by decide +kernel
/-- A point-cloud packet of stream 15 in scan 9: its number, its points, the LAST flag. -/
def pclPacket (no points last : Nat) : Bytes :=
  let head := [0x43#8, 0x50#8, 1#8] ++ leBytes 1 last ++ [15#8, 0#8, 0#8, 0#8] ++ leBytes 4 9 ++ leBytes 2 no
      ++ leBytes 2 points ++ List.replicate 12 0#8
  let body := List.replicate (16 * points) 5#8
  head ++ leBytes 4 (crc32c (head ++ body)) ++ body

/-- Stream 15 on ETH-S, with scan 9 open that holds packet 3. -/
def stream (open_ : Bool) : State :=
  ([(Reg.PCL_ENABLE 15, 1), (Reg.PCL_PORT 15, 1),
      (Reg.PCL_UDP 15, 4000)].foldl (fun s p => s.setR p.1 p.2) net).setScan 15
    { isOpen := open_, seq := 9, pkts := [3] }

/-- A transaction of port 23 that reads four bytes, at T3 = 10 ms. -/
def i2cBusy : State := (((camera none).setBlob (Reg.CAM_I2C_RESP 23) [1#8,
    0#8]).setBlob (Reg.CAM_I2C_REQ 23) i2cRead).setT 3 10000000

theorem witness_SideChannels :
    (nth 0#8 (i2cBusy.blob (Reg.CAM_I2C_RESP 23)) 0).toNat = 1 ∧ (0 : Fin 6) ≠ 1 ∧ (5 : Fin 6) ≠ 1
        ∧ (i2cBusy.port 23).i2cAt + 10000000 ≤ i2cBusy.t3
    ∧ bit (field (i2cBusy.blob (Reg.CAM_I2C_REQ 23)) 1 1) 0 = true
        ∧ (nth 0#8 (net.blob (Reg.CAM_I2C_RESP 23)) 0).toNat ≠ 1
    ∧ streamOf (stream true) 1 4000 = some 15 ∧ streamOf (stream true) 0 4000 = none
    ∧ pclBad 15 (pclPacket 3 90 0) = false ∧ pclBad 15 (pclPacket 3 91 0) = true
    ∧ (let b := pclPacket 3 1 0
       decide (crc32c (slice b 0 0x1C ++ b.drop 32) = field b 0x1C 4) = true ∧ field b 8 4 = ((stream true).scan 15).seq
         ∧ ((stream true).scan 15).pkts.contains (field b 0xC 2) = true)
    ∧ (let b := (pclPacket 3 1 0).set 32 6#8
       pclBad 15 b = false ∧ decide (crc32c (slice b 0 0x1C ++ b.drop 32) = field b 0x1C 4) = false)
    ∧ ((stream true).scan 15).pkts.contains 4 = false ∧ ((stream true).scan 15).isOpen = true
        ∧ ((stream false).scan 15).isOpen = false
    ∧ ((stream false).scan 15).lastSeq = none
    ∧ ((stream true).scan 15).lastPkt + (stream true).r (Reg.PCL_SCAN_TIMEOUT 15) * 1000 ≤
        ((stream true).setT 3 1000000000000).t3
    ∧ (stream true).t3 < ((stream true).scan 15).lastPkt + (stream true).r
        (Reg.PCL_SCAN_TIMEOUT 15) * 1000 := by decide +kernel

/-- R282, R283: a packet that came before, a new one, and the last one, which closes the scan with packets missing. -/
theorem test_pcl : (after (.pclPacket 1 4000 (pclPacket 3 1 0)) (stream true)).r (Reg.PCL_PKT_STALE 15) = 1
    ∧ ((after (.pclPacket 1 4000 (pclPacket 4 1 0)) (stream true)).scan 15).points = [List.replicate 16 5#8]
    ∧ (after (.pclPacket 1 4000 (pclPacket 4 1 1)) (stream true)).r (Reg.PCL_SCANS 15) = 1
    ∧ (after (.pclPacket 1 4000 (pclPacket 4 1 1)) (stream true)).r (Reg.PCL_PKT_LOST 15) = 1 := by decide +kernel

/-- A closed frame of one line of four pixels for context 27, the first of pipe 3. -/
def whole_ : CamFrame := { camFrame [List.replicate 6 7#8] false with ctx := 27, isClosed := true }

/-- Pipe 3 with that frame in its lanes, or ready. -/
def pipe (f : Pipe → Pipe) : State := modPipe 3 f (up [(Reg.DRAM_CONFIG_capacity, 128)])

theorem witness_Pipes :
    (nextLine (pipe fun x => { x with inl := { frame := some whole_ } }) 3 false).isSome = true
    ∧ (nextLine (pipe fun x => { x with mem := { frame := some whole_ } }) 3 true).isSome = true
    ∧ nextLine (pipe fun x => { x with mem := { frame := some whole_ } }) 3 false = none
    ∧ (let s := pipe fun x => { x with ready := [whole_], slices := [{ ctx := 27, seqNo := 0, expect := 0 }] }
       (s.pipe 3).mem.frame = none ∧ (s.pipe 3).mem.golden = false ∧ s.drained = false
         ∧ currentSlice s 3 = some { ctx := 27, seqNo := 0, expect := 0 })
    ∧ (let s := pipe fun x => { x with ready := [whole_] }
       currentSlice s 3 = none ∧ (s.pipe 3).ready = [whole_] ∧ bufferFree s whole_ = true)
    ∧ (let s := modCtx 27 (fun x => { x with bufs := (List.range 3).map fun n => { no := n, frameNo := n, frame := whole_, buf := n } })
         (pipe fun x => { x with ready := [whole_] })
       ∀ f ∈ (s.pipe 3).ready, bufferFree s f = false)
    ∧ (let s := pipe fun x => { x with mem := { frame := some { whole_ with ctx := 39, pix := [] }, golden := true } }
       (s.pipe 3).mem.golden = true ∧ laneThrough s 3 true = true)
    ∧ laneThrough (pipe fun x => { x with mem := { frame := some whole_, img := [[]] } }) 3 true = true
    ∧ laneThrough (pipe fun x => { x with mem := { frame := some whole_ } }) 3 true = false := by decide +kernel

theorem test_pipes : (after (.ispFrameDone 3 true) (pipe fun x => { x with
      mem := { frame := some { whole_ with ctx := 39, pix := [] }, golden := true } })).r (Reg.PIPE_GOLDEN_DONE 3) = 1
    ∧ (((after (.ispLineProcess 3 true false)
        (pipe fun x => { x with mem := { frame := some whole_ } })).pipe 3).mem.img.map fun l => l.length) = [4]
    ∧ ((after (.memoryLaneTakeFrame 3) (pipe fun x => { x with ready := [whole_] })).pipe 3).ready = [] := by decide +kernel

/-! ## Time -/

/-- Trigger 31 on base 7 from 1,000 ns, with a period of 1,000 ns; its next instant is number 2. -/
def trig (now : Nat) : State :=
  setInstant 31 2 ((netWith [(Reg.TRG_BASE 31, 7), (Reg.TRG_START 31, 1000), (Reg.TRG_PERIOD 31, 1000 * 65536),
      (Reg.TRG_ENABLE 31, 1)]).setT 7 now)

/-- T0 as PPS servo in a state, with a step before, and one missed second. -/
def ppsServo (state missed : Nat) (first : Bool) (t0 : Nat) : State :=
  (netWith [(Reg.T_MODE 0, 1), (Reg.T_STATE 0,
      state)]).setT 0 t0 |>.setServo 0 { first := first, missed := missed, nextSecond := 1000000000 }

theorem witness_TimeEvents :
    clocksRun (trig 3000) = true ∧ instant (trig 3000) 31 2 = 3000 ∧ (trig 3000).on (Reg.TRG_ENABLE 31) = true
    ∧ (trig 3000).t ((trig 3000).r (Reg.TRG_BASE 31)) = 3000 ∧ (trig 2999).t ((trig 2999).r (Reg.TRG_BASE 31)) < 3000
    ∧ (trig 3000).r (Reg.TRG_PINS 31) = 0 ∧ (trig 3000).r (Reg.TRG_PORTS 31) = 0
        ∧ (trig 3000).r (Reg.TRG_DISPLAYS 31) = 0
    ∧ subscribers (trig 3000) 31 = [] ∧ (trig 3000).on (Reg.TRG_ENABLE 0) = false ∧ net.rooster.commitAt = none
    ∧ (let s : State := { net with rooster := { net.rooster with commitAt := some 1000000 } }
       s.rooster.commitAt = some 1000000 ∧ s.t3 < 1000000 ∧ 1000000 ≤ (s.setT 3 1000000).t3)
    ∧ decide (net.r Reg.PPS_EDGE = 1) = false ∧ net.r (Reg.T_MODE 0) ≠ 1 ∧ (ppsServo 1 0 false 0).r (Reg.T_MODE 0) = 1
    ∧ (let s := ppsServo 2 2 true (1000000001 + 1000 * net.r Reg.PPS_WINDOW)
       (s.servo 0).first = true ∧ (s.servo 0).nextSecond + s.r Reg.PPS_WINDOW * 1000 < s.t 0 ∧ s.r (Reg.T_STATE 0) = 2)
    ∧ (ppsServo 2 2 true 0).r Reg.PPS_LOSS_N ≤ 3 ∧ 1 < (ppsServo 2 0 true 0).r Reg.PPS_LOSS_N
    ∧ (let s := ppsServo 2 2 true (1000000000 + 1000 * net.r Reg.PPS_WINDOW)
       s.t 0 ≤ (s.servo 0).nextSecond + s.r Reg.PPS_WINDOW * 1000)
    ∧ within (8#8).toNat 1 8 = true ∧ bit ((netWith [(Reg.FSYNC_DIR, 0x7F)]).r Reg.FSYNC_DIR) 7 = false
        ∧ (8#8 : BitVec 8) ≠ 0xFF
    ∧ bit ((netWith [(Reg.FSYNC_DIR, 0x80)]).r Reg.FSYNC_DIR) 7 = true
        ∧ within (9#8).toNat 1 8 = false := by decide +kernel

/-- R329: at I(2) the trigger fires, 1 ns before it does not; R323: the third missed second is a loss of the reference. -/
theorem test_trigger : (after (.triggerFire 31) (trig 3000)).r (Reg.TRG_LAST_INSTANT 31) = 3000
    ∧ (after (.triggerFire 31) (trig 2999)).r (Reg.TRG_FIRED 31) = 0
    ∧ (after .ppsMissedSecond (ppsServo 2 2 true 2000000000)).r (Reg.T_STATE 0) = 3
    ∧ (after .ppsMissedSecond (ppsServo 2 1 true 2000000000)).r (Reg.T_STATE 0) = 2 := by decide +kernel

/-- R335: capture channel 15 captures FSYNC7, an input here. -/
theorem test_capture : (after (.captureEvent 8) (netWith [(Reg.FSYNC_DIR, 0x80),
    (Reg.CAP_SOURCE 15, 8)])).r (Reg.CAP_COUNT 15) = 1
    ∧ (after (.captureEvent 8) (netWith [(Reg.FSYNC_DIR, 0x7F),
        (Reg.CAP_SOURCE 15, 8)])).r (Reg.CAP_COUNT 15) = 0 := by decide +kernel

/-- T2 as gPTP servo of ETH-S: its state, its progress, its link delay. -/
def gptp (mode state : Nat) (x : Servo) : State := (netWith [(Reg.T_MODE 2, mode), (Reg.T_STATE 2, state),
    (Reg.LINK_DELAY 1, 0)]).setServo 2 x

theorem witness_Gptp :
    clocksRun (gptp 1 1 {}) = true ∧ ethUp (gptp 1 1 {}) 1 = true
        ∧ ethUp ((gptp 1 1 {}).setR (Reg.NET_LINK_STATE 1) 1) 1 = false
    ∧ (gptp 2 0 {}).r (Reg.T_MODE 2) = 2 ∧ (gptp 3 0 {}).r (Reg.T_MODE 2) = 3 ∧ (gptp 1 1 {}).r (Reg.T_MODE 2) = 1
    ∧ asCapable (gptp 1 1 { asRun := 2 }) 1 = false ∧ asCapable (gptp 1 1 { asRun := 3 }) 1 = true
    ∧ ((gptp 1 1 { asRun := 3, first := true, good := 7 }).servo 2).good + 1 = 8
    ∧ (((gptp 1 1 { asRun := 3, first := true, good := 7 }).t 2 : Int) - 100).natAbs ≤ 100
    ∧ (let s := gptp 2 0 { syncSent := some 0, pdelaySent := some 0 }
       sendDue (s.servo 2).pdelaySent (pdelayInterval s 1) s.t3 = false
         ∧ sendDue (s.servo 2).syncSent (syncInterval s 1) s.t3 = false
         ∧ sendDue (s.servo 2).syncSent (syncInterval s 1) 125000000 = true
         ∧ sendDue (s.servo 2).pdelaySent (pdelayInterval s 1) 1000000000 = true)
    ∧ (let s := gptp 1 2 { first := true }
       (s.servo 2).nextSecond + s.r (Reg.SYNC_TIMEOUT 1) * (10 ^ 9 / 2 ^ (-(s.rI 8 (Reg.LOG_SYNC 1))).toNat) ≤
           (s.setT 3 3000000000).t3
         ∧ s.r (Reg.T_STATE 2) = 2
             ∧ s.t3 < (s.servo 2).nextSecond + s.r (Reg.SYNC_TIMEOUT 1) * (10 ^ 9 / 2 ^ (-(s.rI 8
             (Reg.LOG_SYNC 1))).toNat)) := by
  decide +kernel

/-- R325: the first Sync steps the base; the third completed exchange makes the port asCapable. -/
theorem test_gptp : (after (.gptpSyncReceive 1 77) (gptp 1 1 { asRun := 3 })).t 2 = 77
    ∧ (after (.gptpPdelayExchange 1 true 10) (gptp 1 1 { asRun := 2 })).r (Reg.AS_CAPABLE 1) = 1
    ∧ (after (.gptpPdelayExchange 1 true 10) (gptp 1 1 { asRun := 1 })).r (Reg.AS_CAPABLE 1) = 0 := by decide +kernel

/-! ## The network -/

/-- An Ethernet frame with a tag and a body. -/
def frame (port : Fin 3) (tag : Option (BitVec 16)) (size : Nat) (body : EthBody) : EthFrame := ⟨port, 0x0123456789AB,
    0x020000000005, tag, size, body⟩

/-- Filter 0 of ETH-S's table matches that destination with VID 7 and PCP 3, without a meter; no other frame passes. -/
def filtered : State :=
  (netWith [(Reg.TSN_QCI_DEFAULT 1, 0), (Reg.NET_IPV4 1, 0x0A000001),
      (Reg.NET_IPV4 2, 0x0A000002)]).setBlob (Reg.TSN_QCI_TABLE 1)
    ([0x01#8, 0x23#8, 0x45#8, 0x67#8, 0x89#8, 0xAB#8, 0x07#8, 0x60#8, 0xFF#8] ++ List.replicate 7 0#8
      ++ (List.replicate 63 (List.replicate 6 0#8 ++ [0xFF#8, 0xFF#8, 0xFF#8] ++ List.replicate 7 0#8)).flatten
          ++ List.replicate 512 0#8)
    |>.setBlob (Reg.NET_IPV6 1) (List.replicate 15 0#8 ++ [1#8])

theorem witness_FramesReceived :
    ethUp (filtered.setR (Reg.NET_LINK_STATE 1) 1) 1 = false ∧ ethUp filtered 1 = true ∧ portPowered filtered 1 = true
    ∧ ethUp filtered 2 = true ∧ portPowered filtered 2 = true ∧ (frame 2 none 1528 (.arp 5)).size ≤ 1528
    ∧ (let c := filtered.bump (Reg.NET_RX_FRAMES 1)
       (qciPass (frame 1 (some 0x6007) 64 (.arp 5)) c).1 = true
           ∧ (qciPass (frame 1 (some 0x6008) 64 (.arp 5)) c).1 = false
         ∧ (qciPass (frame 1 (some 0x7007) 1529 (.arp 5)) c).1 = true)
    ∧ ownIp filtered 1 false 0x0A000001 = true ∧ ownIp filtered 1 false 0x0A000002 = false
        ∧ ownIp filtered 1 true 1 = true
    ∧ ownIp filtered 1 true 2 = false := by decide +kernel

/-- R474, R481: a frame that no filter lets pass is dropped, one of 1,529 bytes discarded; R475: ARP is answered. -/
theorem test_frames : (after (.ethFrameReceive (frame 1 (some 0x6008) 64 (.arp 5))) filtered).r
    (Reg.TSN_QCI_DROPS 1) = 1
    ∧ (after (.ethFrameReceive (frame 1 (some 0x6007) 1529 (.arp 5))) filtered).r (Reg.NET_RX_DISCARDED 1) = 1
    ∧ (after (.ethFrameReceive (frame 1 (some 0x6007) 1528 (.arp 0x0A000001))) filtered).wire
        = [.reply 1 0x020000000005 0 ([0, 0, 0, 0, 0, 1] ++ [0x0A, 0, 0, 1])] := by decide +kernel

/-- The safe state with last-word frames held for both of their links. -/
def heldFrames : State :=
  { netWith [(Reg.SAFE_STATE, 1), (Reg.NET_LINK_STATE 0, 1), (Reg.CAN_ERR_STATE 0, 2)] with
    net := { heldLwEth := some ({}, [1#8]), heldLwCan := some ({}, [1#8]), lwDue := true } }

theorem witness_LinksAndBuses :
    ethUp net 0 = true ∧ ethUp net 2 = true ∧ ethUp heldFrames 0 = false ∧ heldFrames.on (Reg.NET_ENABLE 0) = true
    ∧ heldFrames.r (Reg.NET_LINK_STATE 0) ≠ 2 ∧ portPowered heldFrames 0 = true ∧ heldFrames.safe = true
    ∧ heldFrames.net.heldLwEth = some ({}, [1#8]) ∧ ({} : LwTemplate).vlan2 = 0xFFFF
    ∧ (netWith [(Reg.NET_LINK_STATE 0, 1)]).net.heldLwEth = none
        ∧ (netWith [(Reg.NET_ENABLE 0, 0)]).on (Reg.NET_ENABLE 0) = false
    ∧ clocksRun net = true ∧ canUp net 0 = true ∧ canUp (netWith [(Reg.CAN_ENABLE 3, 0)]) 3 = false
        ∧ heldFrames.on (Reg.CAN_ENABLE 0) = true
    ∧ heldFrames.r (Reg.CAN_ERR_STATE 0) = 2 ∧ heldFrames.net.heldLwCan = some ({}, [1#8])
        ∧ net.r (Reg.CAN_ERR_STATE 0) ≠ 2
    ∧ heldFrames.net.lwDue = true ∧ net.net.lwDue = false := by decide +kernel

/-- R493: the held frame leaves once the link is up. -/
theorem test_links : (after (.ethLinkUp 0) heldFrames).r Reg.LW_SENT = 1
    ∧ (after (.canBusRecovery 0) heldFrames).r Reg.LW_SENT = 1
    ∧ (after (.ethLinkLoss 1) net).r (Reg.FAULT_COUNT (Src.ETH_LINK_LOSS - 1)) = 1
    ∧ (after (.ethLinkLoss 2) net).r (Reg.FAULT_COUNT (Src.ETH_LINK_LOSS - 1)) = 0 := by decide +kernel

/-! ## Displays -/

/-- Display port 3 with two active lines of one pixel, its link in a state. -/
def display (link : Nat) (x : Disp) : State :=
  let s := netWith [(Reg.DSP_ENABLE 3, 1), (Reg.DSP_LINK_STATE 3, link), (Reg.DSP_V_ACTIVE 3, 2),
      (Reg.DSP_H_ACTIVE 3, 1), (Reg.DSP_FREEZE_N 3, 2)]
  { s with disp := [(3, x)] }

/-- An output frame whose camera plane shows another frame than the last time, at its end. -/
def shownFrame (repeats : Nat) : Disp :=
  { active := true, line := 2, fetchNext := 2, anyFrame := true, repeats := repeats, shown := [(some 2, none)], prevShown := [(some 1, none)]
    planes := [⟨true, 27, 0, 0, 0, 255, 0, false, none, none, none⟩] }

theorem witness_Displays :
    displayUp (display 2 {}) 3 = true ∧ ((display 2 {}).dsp 3).active = false ∧ vsyncOwner (display 2 {}) 3 = none
    ∧ displayUp (display 1 {}) 3 = false ∧ (vsyncOwner ((display 2 {}).setR (Reg.TRG_DISPLAYS 31) 8) 3).isSome = true
    ∧ (let s := display 2 { active := true, fetchNext := 1 }
       (s.dsp 3).active = true ∧ (s.dsp 3).fetchNext < s.r (Reg.DSP_V_ACTIVE 3)
           ∧ (s.dsp 3).fetchNext ≤ (s.dsp 3).line + 4
         ∧ (s.dsp 3).line < s.r (Reg.DSP_V_ACTIVE 3) ∧ (s.dsp 3).fetched.find? (fun l => l.1 = (s.dsp 3).line) = none)
    ∧ (let s := display 2 { active := true, fetchNext := 2, line := 1, fetched := [(1, [(1, 2, 3)])] }
       s.r (Reg.DSP_V_ACTIVE 3) ≤ (s.dsp 3).fetchNext
           ∧ (s.dsp 3).fetched.find? (fun l => l.1 = (s.dsp 3).line) = some (1, [(1, 2, 3)]))
    ∧ (let s := display 2 (shownFrame 0)
       (s.dsp 3).active = true ∧ (s.dsp 3).line = s.r (Reg.DSP_V_ACTIVE 3) ∧ showsChanged (s.dsp 3) = true
           ∧ (s.dsp 3).anyFrame = true
         ∧ ((s.dsp 3).crc ^^^ 0xFFFFFFFF#32).toNat = s.r (Reg.DSP_OUT_SIGNATURE 3)
             ∧ (s.dsp 3).repeats + 1 < s.r (Reg.DSP_FREEZE_N 3))
    ∧ (display 2 (shownFrame 1)).r (Reg.DSP_FREEZE_N 3) ≤ ((display 2 (shownFrame 1)).dsp 3).repeats + 1
    ∧ ((0x12345678#32 : BitVec 32) ^^^ 0xFFFFFFFF#32).toNat ≠ (display 2 {}).r (Reg.DSP_OUT_SIGNATURE 3)
    ∧ (display 1 {}).on (Reg.DSP_ENABLE 3) = true ∧ (display 1 {}).r (Reg.DSP_LINK_STATE 3) = 1
    ∧ (display 2 {}).r (Reg.DSP_LINK_STATE 3) ≠ 1 := by decide +kernel

/-- R511: the second repeat in a row is a freeze; R499, R510: a line that was not fetched is an underrun. -/
theorem test_displays : (after (.dspFrameEnd 3) (display 2 (shownFrame 1))).r (Reg.DSP_FREEZES 3) = 1
    ∧ (after (.dspFrameEnd 3) (display 2 (shownFrame 0))).r (Reg.DSP_FREEZES 3) = 0
    ∧ (after (.dspLineScan 3) (display 2 { active := true })).r (Reg.DSP_UNDERRUN 3) = 1
    ∧ (after (.dspLineScan 3) (display 2 { active := true, line := 1, fetched := [(1, [(1, 2, 3)])] })).wire
        = [.displayLine 3 1 [(1, 2, 3)]] := by decide +kernel

/-! ## Boot, standby, firmware -/

/-- A boot that meets nothing amiss on 128 GiB, but for a change. -/
def goodBoot : BootInputs := ⟨List.replicate 32 4, true, true, true, List.replicate 5 [1250], 25, [], []⟩

/-- A device in a phase of its life, with a boot's inputs. -/
def phased (p : Phase)
    (b : Option BootInputs) : State := { netWith [(Reg.RESET_KIND, 2)] with sys := { net.sys with phase := p, bootIn := b } }

theorem witness_Resets : net.sys.phase ≠ .off ∧ (phased .off none).sys.phase = .off
    ∧ (phased .heldInReset none).sys.phase = .heldInReset
    ∧ net.sys.phase ≠ .heldInReset := by decide +kernel

/-- R515: a cold boot loses the memory, the PIN reset keeps it and the counters of the safety chapter. -/
theorem test_resets : (after (.pinReset goodBoot) ((netWith [(Reg.FAULT_COUNT 7, 3)]))).r (Reg.FAULT_COUNT 7) = 3
    ∧ (after (.coldBoot goodBoot) ((netWith [(Reg.FAULT_COUNT 7, 3)]))).r (Reg.FAULT_COUNT 7) = 0
    ∧ (after (.pinReset goodBoot) net).r Reg.RESET_KIND = 2 := by decide +kernel

/-- A device on its way into standby. -/
def entering (wake : Bool) : State :=
  let s := netWith [(Reg.WAKE_SRC, 0x90), (Reg.CAN_ENABLE 3, 1)]
  { s with sys := { s.sys with phase := .enteringStandby, wakePending := wake } }

theorem witness_BootsAndStandby :
    (phased .booting (some goodBoot)).sys.phase = .booting
        ∧ (phased .booting (some goodBoot)).sys.bootIn = some goodBoot
    ∧ (phased .waking (some goodBoot)).sys.phase = .waking ∧ (phased .waking none).sys.bootIn = none
    ∧ errHeld net = false ∧ net.drained = false
    ∧ bootFailure net 2 goodBoot = none
        ∧ bootFailure net 2 { goodBoot with readings := List.replicate 5 [1250, 1249] } = some 0x0023
    ∧ bootFailure net 2 { goodBoot with density := List.replicate 32 8 } = some 0x0022
    ∧ bootFailure net 1 { goodBoot with initOk := false } = some 0x0024
    ∧ bootFailure (phased .waking
        (some { goodBoot with memoryOk := false })) 0 { goodBoot with memoryOk := false } = some 0x0020
    ∧ (entering false).sys.phase = .enteringStandby ∧ (∀ g ∈ List.range 64, framesLeft (entering false) g = false)
    ∧ ringBusy (entering false) = false ∧ (entering false).sys.wakePending = false
        ∧ (∀ p ∈ List.range 24, ((entering false).port p).cur = none)
    ∧ (∀ g ∈ List.range 64, ((graph 3).slot g).monitors.all (fun m => m < 256) = true)
        ∧ (graph 3).r (Reg.GRAPH_STATE 0) = 3
    ∧ ((graph 3).slot 0).pkg.isSome = true ∧ net.sys.phase ≠ .enteringStandby
    ∧ ringBusy ({ net with ring := { recs := [⟨0, 0, 4096, 23, false⟩] } } : State) = true
    ∧ wakeEnabled (entering false) 7 = true ∧ wakeEnabled (entering false) 4 = true
        ∧ wakeEnabled (entering false) 3 = false
    ∧ ({ entering false with sys := { (entering false).sys with phase := .standby } } : State).sys.phase = .standby
    ∧ (let s := (phased .waking none).setT 3 19999999
       s.t3 < s.sys.bootStart + 20000000) := by decide +kernel

/-- R518, R537: what an event in standby and the last step of a failed wake lead to. -/
theorem test_standby :
    (after (.wakeEvent 7 goodBoot) { entering false with sys := { (entering false).sys with phase := .standby } }).r Reg.WAKE_CAUSE = 0x80
    ∧ (after (.wakeEvent 3 goodBoot) { entering false with sys := { (entering false).sys with phase := .standby } }).sys.phase = .standby
    ∧ (after .ready (phased .waking
        (some { goodBoot with memoryOk := false }))).r Reg.BOOT_STATUS = 0x0020 := by decide +kernel

/-- R517: a boot in which nothing is amiss ends ready; with a pace of 1,249 it fails with code 0x0023. -/
theorem test_boot : (after .ready (phased .booting (some goodBoot))).sys.phase = .ready := by decide +kernel

theorem test_boot_pace : (after .ready (phased .booting
    (some { goodBoot with readings := List.replicate 5 [1250, 1249] }))).r Reg.BOOT_STATUS = 0x0023 := by
  decide +kernel

/-- A firmware image on its way into flash. -/
def flashing : State :=
  let s := netWith [(Reg.FW_UPDATE_STATE, 2)]
  { s with sys := { s.sys with fwPending := some { version := 0x00010203 }, attestBusy := some 20000000 } }

theorem witness_Firmware :
    flashing.sys.fwPending = some { version := 0x00010203 } ∧ flashing.r Reg.FW_UPDATE_STATE = 2
        ∧ net.sys.fwPending = none
    ∧ flashing.sys.attestBusy.isSome = true ∧ net.sys.attestBusy = none := by decide +kernel

/-- R528: what an image's end in flash leaves. -/
theorem test_firmware : (after (.fwFlashWriteDone true) flashing).r Reg.FW_PENDING_VERSION = 0x00010203
    ∧ (after (.fwFlashWriteDone false) flashing).r Reg.FW_LOAD_STATUS = 0x000F := by decide +kernel

/-- A step of a device that has the HEALTH 2 fuse to blow. -/
theorem witness_FusesOnlyBlow :
    (match step { net with pending := [.healthFuseWriteDone], aon := { net.aon with health1 := true } } with
      | .next t => t.fuses.health2
      | _ => false) = true := by decide +kernel

end Sys2Proof.Tests
end

section
/-! Integer accumulation (R89) and the modulo-3 residue check of an integer cell (R72). The check compares residues of
the exact sum and of the value written, so it passes exactly when the value written is congruent modulo 3 to the wrapped
sum; one flipped bit changes a two's complement value by a power of two, up to sign, and 3 divides none. -/

namespace Sys2Proof.Machine

open Sys2Proof

/-! ## One flipped bit of a two's complement word -/

theorem toInt_xor_of_and_eq_zero {n : Nat} (x y : BitVec n) (h : x &&& y = 0#n) :
    (x ^^^ y).toInt = x.toInt + y.toInt := by
  have hbit : ∀ i, ¬ (x.getLsbD i = true ∧ y.getLsbD i = true) := fun i hi => by
    simpa [hi] using congrArg (·.getLsbD i) h
  have hor : x ^^^ y = x ||| y := by
    ext i hi
    have := hbit i
    simp only [BitVec.getLsbD_eq_getElem hi] at this
    grind
  have hnat : (x ^^^ y).toNat = x.toNat + y.toNat := by
    rw [hor, ← BitVec.add_eq_or_of_and_eq_zero x y h, BitVec.toNat_add_of_and_eq_zero h]
  have hmsb : ¬ (x.msb = true ∧ y.msb = true) := by
    simpa only [BitVec.msb_eq_getLsbD_last] using hbit (n - 1)
  simp only [BitVec.toInt_eq_msb_cond, hnat, BitVec.msb_xor]
  grind

/-- A flipped bit is either gained or lost, with its weight in two's complement. -/
theorem toInt_xor_twoPow {n : Nat} (x : BitVec n) (i : Nat) :
    (x ^^^ BitVec.twoPow n i).toInt = x.toInt + (BitVec.twoPow n i).toInt
      ∨ x.toInt = (x ^^^ BitVec.twoPow n i).toInt + (BitVec.twoPow n i).toInt := by
  by_cases hx : x.getLsbD i = true
  · right
    have h := toInt_xor_of_and_eq_zero (x ^^^ BitVec.twoPow n i) (BitVec.twoPow n i) (by
      simp [BitVec.and_twoPow, hx, BitVec.lt_of_getLsbD hx])
    simpa [BitVec.xor_assoc] using h
  · left
    exact toInt_xor_of_and_eq_zero _ _ (by simp [BitVec.and_twoPow, hx])

theorem not_three_dvd_toInt_twoPow {n i : Nat} (hi : i < n) : ¬ (3 : Int) ∣ (BitVec.twoPow n i).toInt := by
  have hpow : ¬ (3 : Int) ∣ 2 ^ i := fun h => absurd (Int.prime_three.dvd_of_dvd_pow h) (by decide)
  rw [BitVec.toInt_twoPow, if_neg (by omega)]
  split
  · simpa using hpow
  · exact hpow

theorem toInt_xor_twoPow_not_modEq_three {n : Nat} (x : BitVec n) {i : Nat} (hi : i < n) :
    ¬ (x ^^^ BitVec.twoPow n i).toInt ≡ x.toInt [ZMOD 3] := by
  intro h
  apply not_three_dvd_toInt_twoPow hi
  have hdvd := h.dvd
  rcases toInt_xor_twoPow x i with hx | hx <;> omega

/-! ## Residues modulo 3 -/

@[simp] theorem natCast_res3 (v : Int) : (res3 v : Int) = v % 3 :=
  Int.toNat_of_nonneg (Int.emod_nonneg v (by decide))

theorem residueOfBeat_modEq (f : Fmt) (w b : BitVec 64) :
    (residueOfBeat f w b : Int) ≡ (intProducts f w b).sum [ZMOD 3] := by
  unfold residueOfBeat intProducts
  rw [Int.natCast_mod, Nat.cast_list_sum, List.map_map]
  refine (Int.mod_modEq _ 3).trans (Int.ModEq.listSum_map fun i _ => ?_)
  simpa using (Int.mod_modEq _ 3).mul (Int.mod_modEq _ 3)

/-- A word plus the carry-out of its 32-bit sum: 2^32 leaves 1 modulo 3, so the wrap does not show in the residue. -/
theorem wrapped_add_carry_modEq (exact : Int) :
    (BitVec.ofInt 32 exact).toInt + (exact - (BitVec.ofInt 32 exact).toInt) / 2 ^ 32 ≡ exact [ZMOD 3] := by
  have hdvd : (2 : Int) ^ 32 ∣ exact - (BitVec.ofInt 32 exact).toInt := by
    rw [BitVec.toInt_ofInt]
    exact Int.dvd_self_sub_bmod
  rw [Int.ModEq]
  omega

/-! ## One accumulate of an integer cell -/

theorem intAccumulate_value (f : Fmt) (acc : Option (BitVec 32 × Nat)) (w b : BitVec 64) (flip : BitVec 32) :
    (intAccumulate f acc w b flip).1
      = ((acc.map fun a => a.1).getD 0#32 + BitVec.ofInt 32 (intProducts f w b).sum) ^^^ flip := by
  cases acc with
  | none => simp [intAccumulate]
  | some a => simp [intAccumulate, BitVec.ofInt_add]

/-- The residue check passes exactly when what the cell writes agrees modulo 3 with the wrapped sum. -/
theorem intAccumulate_check_iff (f : Fmt) (a : BitVec 32) (w b : BitVec 64) (flip : BitVec 32) :
    (intAccumulate f (some (a, res3 a.toInt)) w b flip).2.2 = true
      ↔ ((a + BitVec.ofInt 32 (intProducts f w b).sum) ^^^ flip).toInt
          ≡ (a + BitVec.ofInt 32 (intProducts f w b).sum).toInt [ZMOD 3] := by
  have hsum : a + BitVec.ofInt 32 (intProducts f w b).sum = BitVec.ofInt 32 (a.toInt + (intProducts f w b).sum) := by
    simp [BitVec.ofInt_add]
  have hwrap := wrapped_add_carry_modEq (a.toInt + (intProducts f w b).sum)
  have hbeat := residueOfBeat_modEq f w b
  rw [hsum]
  simp only [intAccumulate, decide_eq_true_eq, ← Int.natCast_inj, Int.natCast_mod, Int.natCast_add, natCast_res3]
  simp only [Int.ModEq] at hwrap hbeat ⊢
  omega

/-- Settles O31: the value by the sum modulo 2^32, the check by its congruence modulo 3. -/
theorem integerAccumulationWrapsAndIsChecked : Obligations.IntegerAccumulationWrapsAndIsChecked := by
  unfold Obligations.IntegerAccumulationWrapsAndIsChecked
  refine ⟨fun f acc w b xw xa hf => ?_, fun f a w b i _ hi => ⟨?_, ?_⟩⟩
  · simp [cellAccumulate, hf, intAccumulate_value]
  · exact (intAccumulate_check_iff f a w b 0#32).2 (by rw [BitVec.xor_zero])
  · rw [Bool.eq_false_iff, Ne, intAccumulate_check_iff, ← BitVec.twoPow_eq]
    exact toInt_xor_twoPow_not_modEq_three _ hi

end Sys2Proof.Machine
end

section
/-! Writes of PENDING (R428): bits of a number after `clearBit`, the values that `clearPending` leaves, and the refusal of
a write that a check bars. -/

namespace Sys2Proof.Machine

open Sys2Proof

/-! ## Bits -/

theorem bit_eq_testBit (v i : Nat) : bit v i = v.testBit i := Nat.testBit_eq_decide_div_mod_eq.symm

/-- Halving moves both bits down by one, so the borrow of the subtraction never leaves bit `i`. -/
theorem testBit_sub_two_pow {v i : Nat} (h : v.testBit i = true) (j : Nat) :
    (v - 2 ^ i).testBit j = (v.testBit j && decide (j ≠ i)) := by
  induction i generalizing v j with
  | zero =>
    rw [Nat.testBit_zero, decide_eq_true_eq] at h
    cases j with
    | zero =>
      have hlow : (v - 1) % 2 = 0 := by omega
      simp [Nat.testBit_zero, hlow]
    | succ j =>
      have hhalf : (v - 1) / 2 = v / 2 := by omega
      simp [Nat.testBit_succ, hhalf]
  | succ i ih =>
    have hpow : 2 ^ (i + 1) = 2 * 2 ^ i := by rw [pow_succ, Nat.mul_comm]
    have hle := Nat.ge_two_pow_of_testBit h
    rw [Nat.testBit_succ] at h
    cases j with
    | zero =>
      have hlow : (v - 2 ^ (i + 1)) % 2 = v % 2 := by omega
      simp [Nat.testBit_zero, hlow]
    | succ j =>
      have hhalf : (v - 2 ^ (i + 1)) / 2 = v / 2 - 2 ^ i := by omega
      simp [Nat.testBit_succ, hhalf, ih h]

theorem testBit_clearBit (v i j : Nat) : (clearBit v i).testBit j = (v.testBit j && decide (j ≠ i)) := by
  unfold clearBit
  split
  next h => exact testBit_sub_two_pow (bit_eq_testBit v i ▸ h) j
  next h =>
    have hi : v.testBit i = false := by simpa [bit_eq_testBit] using h
    by_cases hj : j = i <;> simp [hj, hi]

theorem testBit_foldl_clearBit (l : List Nat) (v j : Nat) :
    (l.foldl clearBit v).testBit j = (v.testBit j && decide (j ∉ l)) := by
  induction l generalizing v with
  | nil => simp
  | cons i l ih => simp [ih, testBit_clearBit, Bool.and_assoc]

theorem testBit_setBit (v i j : Nat) : (setBit v i).testBit j = (v.testBit j || decide (j = i)) := by
  simp only [setBit, Nat.testBit_or, Nat.testBit_two_pow, eq_comm]

theorem mem_bitList {v n i : Nat} : i ∈ bitList v n ↔ i < n ∧ v.testBit i = true := by
  simp [bitList, bit_eq_testBit]

/-! ## What an accepted write clears -/

/-- The bits that a write of a PENDING word clears: DRAIN's is not among them on a drained chip (R428). -/
def clearedBits (word v : Nat) (s : State) : List Nat :=
  bitList (if word = 0 ∧ s.drained then clearBit v Src.DRAIN else v) 64

theorem mem_clearedBits {word v i : Nat} {s : State} (hi : i < 64) :
    i ∈ clearedBits word v s ↔ v.testBit i = true ∧ ¬ (word = 0 ∧ s.drained = true ∧ i = 0x3E) := by
  unfold clearedBits
  rw [mem_bitList]
  split
  next h => simp [hi, h, testBit_clearBit]
  next h => grind

theorem clearPending_eq (word v : Nat) (s : State) :
    clearPending word v s = (s.setR (Reg.PENDING word) ((clearedBits word v s).foldl clearBit (s.r (Reg.PENDING word)))).setR
      (Reg.ERR_HOLD word) ((clearedBits word v s).foldl clearBit (s.r (Reg.ERR_HOLD word))) := rfl

theorem PENDING_lt_ERR_HOLD (word : Nat) : Reg.PENDING word < Reg.ERR_HOLD word := by
  show 0x500300 + 1 + word < 0x500300 + 3 + word
  omega

theorem r_clearPending_PENDING (word v : Nat) (s : State) :
    (clearPending word v s).r (Reg.PENDING word) = (clearedBits word v s).foldl clearBit (s.r (Reg.PENDING word)) := by
  rw [clearPending_eq, State.r_setR_of_ne _ (Nat.ne_of_lt (PENDING_lt_ERR_HOLD word)), State.r_setR_self]

theorem r_clearPending_ERR_HOLD (word v : Nat) (s : State) :
    (clearPending word v s).r (Reg.ERR_HOLD word) = (clearedBits word v s).foldl clearBit (s.r (Reg.ERR_HOLD word)) := by
  rw [clearPending_eq, State.r_setR_self]

theorem r_clearPending_of_ne {word v : Nat} {s : State} {k : Key} (hp : k ≠ Reg.PENDING word) (hh : k ≠ Reg.ERR_HOLD word) :
    (clearPending word v s).r k = s.r k := by
  rw [clearPending_eq, State.r_setR_of_ne _ hh, State.r_setR_of_ne _ hp]

/-! ## The refusal of a reserved bit -/

theorem protoBad_numWrite (q : Req) (k v : Nat) {n : Nat} (hn : n ≤ 40) : protoBad (numWrite q k n v) = false := by
  refine protoBad_of_op (by simp [numWrite]) (by simp [numWrite]) rfl rfl ?_
  show (leBytes n v).length ≤ q.limit
  rw [leBytes_length]
  exact hn.trans (forty_le_limit q)

/-- A write of one number that a check refuses changes nothing and answers the check's abort code. -/
theorem handle_numWrite_refused {s : State} {q : Req} {k n v : Nat} {row : DictRow} {c : Abort}
    (he : entryRow s (numWrite q k n v).idx (numWrite q k n v).sub = .ok row) (ha : canWrite (row.acc q.cls) = true)
    (hc : writeRefusal s row k (leBytes n v) false = some c) (hn : n ≤ 40) :
    handle (numWrite q k n v) s = (.error c, s) := by
  have hw : handleWrite (numWrite q k n v) s = (.error c, s) := by
    unfold handleWrite
    rw [if_neg (by simp [numWrite]), he, numWrite_key]
    simp only [numWrite] at hc ⊢
    simp only [ha, hc, Bool.not_true, Bool.false_eq_true, if_false]
  unfold handle
  rw [protoBad_numWrite q k v hn]
  exact hw

theorem pendingReserved_of_testBit {word v i : Nat} (hi : i < 64) (hv : v.testBit i = true)
    (hs : isFaultSource (64 * word + i) = false) : pendingReserved word v = true :=
  List.any_eq_true.2 ⟨i, mem_bitList.2 ⟨hi, hv⟩, by rw [hs]; rfl⟩

theorem PENDING_index : ∀ i : Fin 2, Reg.PENDING i.val / 256 = 0x5003 := by decide

theorem PENDING_subindex : ∀ i : Fin 2, Reg.PENDING i.val % 256 - 1 = i.val := by decide

/-- The one check on a value of PENDING: no reserved bit (R428). -/
theorem numRefusal_PENDING {s t : State} {row : DictRow} {word : Fin 2} {v : Nat} (hty : row.ty = .u64)
    (h : pendingReserved word.val v = true) : numRefusal t s row (Reg.PENDING word.val) v = some 5 := by
  simp [numRefusal, numRefusalMid, PENDING_index, PENDING_subindex, hty, h, within]

theorem writeRefusal_PENDING_reserved {s : State} {row : DictRow} {word : Fin 2} {v i : Nat}
    (he : entryRow s (Reg.PENDING word.val / 256) (Reg.PENDING word.val % 256) = .ok row)
    (hb : stateBars s (Reg.PENDING word.val) = false) (hv64 : v < 256 ^ 8) (hi : i < 64) (hv : v.testBit i = true)
    (hs : isFaultSource (64 * word.val + i) = false) :
    writeRefusal s row (Reg.PENDING word.val) (leBytes 8 v) false = some 5 := by
  have hty : row.ty = .u64 := by rw [row_of_entry he (noHost_PENDING word) (dictRow_PENDING word)]
  have hsize : row.ty.size = some 8 := by rw [hty]; rfl
  have hval := numRefusal_PENDING (s := s) (t := asWritten (Reg.PENDING word.val) v s) hty (pendingReserved_of_testBit hi hv hs)
  simp only [writeRefusal, lengthOk, valueRefusal, hsize, leBytes_length, hb, leVal_leBytes 8 v hv64, hval]
  rfl

theorem exec_pendingClear (q : Req) (word : Fin 2) (v : BitVec 64) (raised : List Nat) (s : State) :
    exec (.pendingClear q word v raised) s = .next (serve (numWrite q (Reg.PENDING word.val) 8 v.toNat) raised s) := rfl

/-- Settles O20, by the list of bits that the write clears. -/
theorem pendingClearsWrittenBits : Obligations.PendingClearsWrittenBits := by
  unfold Obligations.PendingClearsWrittenBits
  intro q word v s
  have hkept (x i : Nat) (hi : i < 64) : ((clearedBits word.val v.toNat s).foldl clearBit x).testBit i
      = (x.testBit i && (!v.toNat.testBit i || (decide (word = 0) && s.drained && decide (i = 0x3E)))) := by
    simp only [testBit_foldl_clearBit, mem_clearedBits hi, Fin.val_eq_zero_iff]
    cases v.toNat.testBit i <;> simp [Bool.and_assoc]
  refine ⟨fun i hi => ⟨?_, ?_⟩, fun k hp hh => r_clearPending_of_ne hp hh, rfl, ?_⟩
  · rw [r_clearPending_PENDING, hkept _ i hi]
  · rw [r_clearPending_ERR_HOLD, hkept _ i hi]
  · intro row i hi hv hs haccepts he hacc hbars
    have hrefused := writeRefusal_PENDING_reserved he (by simpa using hbars) v.isLt hi hv hs
    rw [exec_pendingClear, serve_eq haccepts (handle_numWrite_refused he hacc hrefused (by decide)) isReset_error]

end Sys2Proof.Machine
end

section
/-! Raising a fault source (R421, R424 to R431): what the safe state leaves of the fault collector, what a raise reports, and
what its reaction adds. -/

namespace Sys2Proof.Machine

open Sys2Proof

/-! ## The safe state leaves the collector -/

/-- `t` has the dictionary values of `s` from the first of the fault collector's entries up to SAFE_STATE, and what `s` has
told the trio: `t` may have entered the safe state since, but nothing was raised. -/
structure KeepsCollector (s t : State) : Prop where
  values : ∀ k, 0x500000 ≤ k → k ≤ Reg.SAFE_STATE → t.r k = s.r k
  sup : t.sup = s.sup

theorem KeepsCollector.refl (s : State) : KeepsCollector s s := ⟨fun _ _ _ => rfl, rfl⟩

/-- An update of a value outside the collector's. -/
theorem KeepsCollector.setR {s t : State} (h : KeepsCollector s t) {k : Nat} (hk : k < 0x500000 ∨ Reg.SAFE_STATE < k) (v : Nat) :
    KeepsCollector s (t.setR k v) := by
  refine ⟨fun j hlo hhi => (State.r_setR_of_ne t ?_ v).trans (h.values j hlo hhi), h.sup⟩
  rintro rfl
  exact hk.elim hlo.not_gt hhi.not_gt

theorem KeepsCollector.bump {s t : State} (h : KeepsCollector s t) {k : Nat} (hk : k < 0x500000 ∨ Reg.SAFE_STATE < k) :
    KeepsCollector s (t.bump k) := h.setR hk _

/-- The same update of both states. -/
theorem KeepsCollector.setR_both {s t : State} (h : KeepsCollector s t) (k v : Nat) : KeepsCollector (s.setR k v) (t.setR k v) :=
  ⟨fun j hlo hhi => by rw [State.r_setR, State.r_setR, h.values j hlo hhi], h.sup⟩

/-- An update of the fields that an entry into the safe state may write, as the record it makes. -/
theorem KeepsCollector.upd {s t : State} (h : KeepsCollector s t) {blobs sys net wire} :
    KeepsCollector s (State.mk
      t.regs t.staged blobs t.stagedBlobs t.mem t.dramErr t.space t.sram t.pad t.fuses t.flash t.aon sys
      t.rooster t.ring t.ports t.ctxs t.pipes t.scans t.slots t.units t.acc t.rows t.lanes t.gooses t.lines t.plru t.wins
      t.segs t.mons t.pace t.ift t.sup net t.disp t.diale wire t.free t.pending) := ⟨h.values, h.sup⟩

theorem keepsCollector_captureSource {s t : State} (h : KeepsCollector s t) (src : Nat) :
    KeepsCollector s (captureSource src t) := by
  refine forEach_induct (P := KeepsCollector s) (fun c u hu => ?_) h
  split
  · have hkey : 0x501401 < (0x6200 + c) * 256 + 2 := by omega
    exact KeepsCollector.bump hu.upd (.inr hkey)
  · exact hu

theorem keepsCollector_emitLastWord {s t : State} (h : KeepsCollector s t) (x : LwTemplate) (vlan : Nat) (b : Bytes) :
    KeepsCollector s (emitLastWord x vlan b t) :=
  (KeepsCollector.bump h.upd (k := Reg.LW_SENT) (.inr (by decide))).bump (k := Reg.NET_TX_FRAMES 0) (.inr (by decide))

theorem keepsCollector_lastWordEth {s t : State} (h : KeepsCollector s t) (x : LwTemplate) (b : Bytes) :
    KeepsCollector s (lastWordEth x b t) := by
  unfold lastWordEth
  dsimp only
  split
  · exact keepsCollector_emitLastWord h _ _ _
  · exact keepsCollector_emitLastWord (keepsCollector_emitLastWord h _ _ _) _ _ _

theorem keepsCollector_lastWordCan {s t : State} (h : KeepsCollector s t) (x : LwTemplate) (b : Bytes) :
    KeepsCollector s (lastWordCan x b t) :=
  (KeepsCollector.bump h.upd (k := Reg.LW_SENT) (.inr (by decide))).bump (k := Reg.CAN_TX_FRAMES 0) (.inr (by decide))

theorem keepsCollector_sendLastWord {s t : State} (h : KeepsCollector s t) : KeepsCollector s (sendLastWord t) := by
  have heth (x b) : KeepsCollector s (if ethUp t 0 then lastWordEth x b t
      else { t with net := { t.net with heldLwEth := some (x, b) } }) := by
    split
    · exact keepsCollector_lastWordEth h x b
    · exact h.upd
  have hcan (x b u) (hu : KeepsCollector s u) : KeepsCollector s (if canUp u 0 then lastWordCan x b u
      else { u with net := { u.net with heldLwCan := some (x, b) } }) := by
    split
    · exact keepsCollector_lastWordCan hu x b
    · exact hu.upd
  exact hcan _ _ _ (heth _ _)

theorem keepsCollector_ringFreezeNow {s t : State} (h : KeepsCollector s t) : KeepsCollector s (ringFreezeNow t) := by
  have hfreeze : KeepsCollector s ((t.setR Reg.RING_STATE 1).setR Reg.RING_FREEZE_TIME (t.t 0)) :=
    (h.setR (.inl (by decide)) _).setR (.inl (by decide)) _
  unfold ringFreezeNow ringSettle
  split
  · split
    · exact hfreeze.setR (.inl (by decide)) _
    · exact hfreeze
  · exact h

/-- Of the collector's entries and the trio, an entry into the safe state changes SAFE_STATE alone. -/
theorem enterSafe_keepsCollector (s : State) : KeepsCollector (s.setR Reg.SAFE_STATE 1) (enterSafe s) := by
  have hpin : KeepsCollector s (if s.sys.errLow then s else captureSource 0x30 { s with sys := { s.sys with errLow := true } }) := by
    split
    · exact .refl s
    · exact keepsCollector_captureSource (KeepsCollector.refl s).upd _
  have hword (t) (h : KeepsCollector s t) : KeepsCollector (s.setR Reg.SAFE_STATE 1)
      (sendLastWord (clearWaiting ((t.setR Reg.SAFE_STATE 1).bump Reg.SAFE_ENTRIES))) :=
    keepsCollector_sendLastWord ((h.setR_both _ _).bump (.inr (by decide))).upd
  have hring (t) (h : KeepsCollector (s.setR Reg.SAFE_STATE 1) t) : KeepsCollector (s.setR Reg.SAFE_STATE 1)
      (if t.on Reg.RING_AUTOFREEZE then ringFreezeNow t else t) := by
    split
    · exact keepsCollector_ringFreezeNow h
    · exact h
  exact hring _ (hword _ hpin)

theorem safe_ensureSafe (s : State) : (ensureSafe s).safe = true := by
  unfold ensureSafe
  split
  next h => exact h
  next =>
    have hset : (enterSafe s).r Reg.SAFE_STATE = 1 := by
      rw [(enterSafe_keepsCollector s).values _ (by decide) le_rfl, State.r_setR_self]
    simp [State.safe, State.on, hset]

theorem r_ensureSafe (s : State) {k : Nat} (hlo : 0x500000 ≤ k) (hhi : k < Reg.SAFE_STATE) : (ensureSafe s).r k = s.r k := by
  unfold ensureSafe
  split
  · rfl
  · rw [(enterSafe_keepsCollector s).values k hlo hhi.le, State.r_setR_of_ne s (Nat.ne_of_lt hhi)]

@[simp] theorem sup_ensureSafe (s : State) : (ensureSafe s).sup = s.sup := by
  unfold ensureSafe
  split
  · rfl
  · exact (enterSafe_keepsCollector s).sup

/-! ## What a raise reports -/

theorem faultSource_bounds {src : Nat} (h : isFaultSource src = true) : 0 < src ∧ src < 128 := by
  have hall : ∀ p ∈ faultSources, 0 < p.1 ∧ p.1 < 128 := by decide
  obtain ⟨p, hp, heq⟩ := List.any_eq_true.1 h
  exact of_decide_eq_true heq ▸ hall p hp

theorem FAULT_COUNT_lt_PENDING {n : Nat} (hn : n < 128) (word : Nat) : Reg.FAULT_COUNT n < Reg.PENDING word := by
  show 0x500100 + 1 + n < 0x500300 + 1 + word
  omega

theorem latch_lt_FAULT_COUNT {k : Nat} (hk : k ≤ Reg.OVERFLOW) (n : Nat) : k < Reg.FAULT_COUNT n :=
  lt_of_le_of_lt hk (show 0x500002 < 0x500100 + 1 + n by omega)

/-- The counter and the PENDING bit of a raise (R426). -/
def flagged (src : Nat) (s : State) : State := sourceBit Reg.PENDING src (s.bump (Reg.FAULT_COUNT (src - 1)))

/-- The latch too, from reaction 2 on (R429). -/
def latched (c src : Nat) (s : State) : State := if 2 ≤ c then latchSource src (flagged src s) else flagged src s

/-- A raise under reaction `c` but for holding ERR_N and the safe state. -/
def reported (c src : Nat) (who : Ident) (s : State) : State := informTrio c src who (latched c src s)

theorem raiseCore_eq (src : Nat) (who : Ident) (s : State) :
    raiseCore src who s = if reactionOf s src = 4 ∨ reactionOf s src = 5
      then ensureSafe (sourceBit Reg.ERR_HOLD src (reported (reactionOf s src) src who s))
      else reported (reactionOf s src) src who s := rfl

/-! ### The counter and the flag -/

theorem r_flagged_of_ne {src : Nat} {s : State} {k : Key} (hc : k ≠ Reg.FAULT_COUNT (src - 1)) (hp : k ≠ Reg.PENDING (src / 64)) :
    (flagged src s).r k = s.r k := by
  rw [flagged, sourceBit, State.r_setR_of_ne _ hp, State.r_bump_of_ne s hc]

theorem r_flagged_FAULT_COUNT {src : Nat} (hsrc : src < 128) (s : State) :
    (flagged src s).r (Reg.FAULT_COUNT (src - 1)) = s.oneMore (Reg.FAULT_COUNT (src - 1)) := by
  have hne := Nat.ne_of_lt (FAULT_COUNT_lt_PENDING (n := src - 1) (by omega) (src / 64))
  rw [flagged, sourceBit, State.r_setR_of_ne _ hne, State.r_bump_self, State.oneMore]

theorem r_flagged_PENDING {src : Nat} (hsrc : src < 128) (s : State) :
    (flagged src s).r (Reg.PENDING (src / 64)) = setBit (s.r (Reg.PENDING (src / 64))) (src % 64) := by
  have hne := Nat.ne_of_gt (FAULT_COUNT_lt_PENDING (n := src - 1) (by omega) (src / 64))
  rw [flagged, sourceBit, State.r_setR_self, State.r_bump_of_ne s hne]

theorem r_flagged_of_le_OVERFLOW {src : Nat} (hsrc : src < 128) (s : State) {k : Nat} (hk : k ≤ Reg.OVERFLOW) :
    (flagged src s).r k = s.r k := by
  have hlt := latch_lt_FAULT_COUNT hk (src - 1)
  exact r_flagged_of_ne (Nat.ne_of_lt hlt) (Nat.ne_of_lt (hlt.trans (FAULT_COUNT_lt_PENDING (by omega) _)))

/-! ### The latch -/

theorem r_latched_of_ne {c src : Nat} {s : State} {k : Key} (hf : k ≠ Reg.FIRST_SOURCE) (ho : k ≠ Reg.OVERFLOW) :
    (latched c src s).r k = (flagged src s).r k := by
  unfold latched latchSource
  split_ifs
  · exact State.r_setR_of_ne _ hf _
  · exact State.r_setR_of_ne _ ho _
  · rfl

theorem r_latched_FIRST_SOURCE {c src : Nat} (hsrc : src < 128) (s : State) :
    (latched c src s).r Reg.FIRST_SOURCE = if 2 ≤ c ∧ s.r Reg.FIRST_SOURCE = 0 then src else s.r Reg.FIRST_SOURCE := by
  have hkept := r_flagged_of_le_OVERFLOW hsrc s (k := Reg.FIRST_SOURCE) (by decide)
  unfold latched latchSource
  rw [hkept]
  split_ifs <;> simp_all [State.r_setR]

theorem r_latched_OVERFLOW {c src : Nat} (hsrc : src < 128) (s : State) :
    (latched c src s).r Reg.OVERFLOW = if 2 ≤ c ∧ s.r Reg.FIRST_SOURCE ≠ 0 then 1 else s.r Reg.OVERFLOW := by
  have hkept := r_flagged_of_le_OVERFLOW hsrc s (k := Reg.OVERFLOW) (by decide)
  have hfirst := r_flagged_of_le_OVERFLOW hsrc s (k := Reg.FIRST_SOURCE) (by decide)
  unfold latched latchSource
  rw [hfirst]
  split_ifs <;> simp_all [State.r_setR]

/-- The counter, the flag and the latch are dictionary values. -/
theorem latched_withRegs (c src : Nat) (s : State) : latched c src s = s.withRegs (latched c src s).regs := by
  unfold latched latchSource
  split_ifs <;> rfl

/-! ### The trio -/

theorem informTrio_eq (c src : Nat) (who : Ident) (s : State) :
    informTrio c src who s = { s with sup := (informTrio c src who s).sup } := by
  unfold informTrio
  split_ifs <;> rfl

theorem informTrio_of_handover {s : State} (h : s.sys.handover = true) (c src : Nat) (who : Ident) :
    informTrio c src who s = s := if_pos h

theorem informTrio_four (src : Nat) (who : Ident) (s : State) : informTrio 4 src who s = s := by
  simp [informTrio]

theorem informTrio_trap {s : State} (h : s.sys.handover = false) (src : Nat) (who : Ident) :
    (informTrio 2 src who s).sup = { s.sup with traps := s.sup.traps ++ [(src, who)] } := by
  simp [informTrio, h]

theorem informTrio_interrupt {s : State} {c : Nat} (h : s.sys.handover = false) (h2 : c ≠ 2) (h4 : c ≠ 4) (src : Nat) (who : Ident) :
    (informTrio c src who s).sup = { s.sup with interrupts := s.sup.interrupts ++ [(src, who)] } := by
  simp [informTrio, h, h2, h4]

@[simp] theorem r_reported (c src : Nat) (who : Ident) (s : State) (k : Key) :
    (reported c src who s).r k = (latched c src s).r k := by
  rw [reported, informTrio_eq]
  rfl

theorem sup_reported (c src : Nat) (who : Ident) (s : State) : (reported c src who s).sup = (informTrio c src who s).sup := by
  rw [reported, latched_withRegs]
  unfold informTrio State.withRegs
  split_ifs <;> rfl

theorem reported_frame (c src : Nat) (who : Ident) (s : State) :
    { reported c src who s with regs := s.regs, sup := s.sup } = s := by
  rw [reported, informTrio_eq, latched_withRegs]
  rfl

/-! ### A raise and the safe state -/

theorem sup_raiseCore (src : Nat) (who : Ident) (s : State) :
    (raiseCore src who s).sup = (informTrio (reactionOf s src) src who s).sup := by
  rw [raiseCore_eq]
  split
  · rw [sup_ensureSafe]
    exact sup_reported _ _ _ _
  · exact sup_reported _ _ _ _

/-- The collector's entries but ERR_HOLD and SAFE_STATE read as reported, whatever the reaction. -/
theorem r_raiseCore {src : Nat} {who : Ident} {s : State} {k : Nat} (hlo : 0x500000 ≤ k) (hhi : k < Reg.SAFE_STATE)
    (hk : k ≠ Reg.ERR_HOLD (src / 64)) : (raiseCore src who s).r k = (latched (reactionOf s src) src s).r k := by
  rw [raiseCore_eq]
  split
  · rw [r_ensureSafe _ hlo hhi, sourceBit, State.r_setR_of_ne _ hk, r_reported]
  · exact r_reported _ _ _ _ _

theorem OVERFLOW_lt_PENDING (word : Nat) : Reg.OVERFLOW < Reg.PENDING word := by
  show 0x500002 < 0x500300 + 1 + word
  omega

theorem ERR_HOLD_lt_SAFE_STATE {word : Nat} (h : word < 2) : Reg.ERR_HOLD word < Reg.SAFE_STATE := by
  show 0x500300 + 3 + word < 0x501401
  omega

/-- As `r_raiseCore`, for the entries up to PENDING. -/
theorem r_raiseCore_of_le_PENDING {src : Nat} (hsrc : src < 128) {who : Ident} {s : State} {k : Nat} (hlo : 0x500000 ≤ k)
    (hk : k ≤ Reg.PENDING (src / 64)) : (raiseCore src who s).r k = (latched (reactionOf s src) src s).r k := by
  have hlt := lt_of_le_of_lt hk (PENDING_lt_ERR_HOLD (src / 64))
  exact r_raiseCore hlo (hlt.trans (ERR_HOLD_lt_SAFE_STATE (by omega))) (Nat.ne_of_lt hlt)

/-! ### The collector's entries -/

theorem r_raiseCore_FAULT_COUNT {src : Nat} (hsrc : src < 128) (who : Ident) (s : State) :
    (raiseCore src who s).r (Reg.FAULT_COUNT (src - 1)) = s.oneMore (Reg.FAULT_COUNT (src - 1)) := by
  have hover := latch_lt_FAULT_COUNT le_rfl (src - 1)
  have hfirst := latch_lt_FAULT_COUNT (k := Reg.FIRST_SOURCE) (by decide) (src - 1)
  rw [r_raiseCore_of_le_PENDING hsrc (hfirst.le.trans' (by decide)) (FAULT_COUNT_lt_PENDING (by omega) _).le,
    r_latched_of_ne (Nat.ne_of_gt hfirst) (Nat.ne_of_gt hover), r_flagged_FAULT_COUNT hsrc]

theorem r_raiseCore_PENDING {src : Nat} (hsrc : src < 128) (who : Ident) (s : State) :
    (raiseCore src who s).r (Reg.PENDING (src / 64)) = setBit (s.r (Reg.PENDING (src / 64))) (src % 64) := by
  have hover := OVERFLOW_lt_PENDING (src / 64)
  have hfirst : Reg.FIRST_SOURCE < Reg.PENDING (src / 64) := hover.trans' (by decide)
  rw [r_raiseCore_of_le_PENDING hsrc (hfirst.le.trans' (by decide)) le_rfl,
    r_latched_of_ne (Nat.ne_of_gt hfirst) (Nat.ne_of_gt hover), r_flagged_PENDING hsrc]

theorem r_raiseCore_FIRST_SOURCE {src : Nat} (hsrc : src < 128) (who : Ident) (s : State) :
    (raiseCore src who s).r Reg.FIRST_SOURCE
      = if 2 ≤ reactionOf s src ∧ s.r Reg.FIRST_SOURCE = 0 then src else s.r Reg.FIRST_SOURCE := by
  rw [r_raiseCore_of_le_PENDING hsrc (by decide) ((OVERFLOW_lt_PENDING _).le.trans' (by decide)), r_latched_FIRST_SOURCE hsrc]

theorem r_raiseCore_OVERFLOW {src : Nat} (hsrc : src < 128) (who : Ident) (s : State) :
    (raiseCore src who s).r Reg.OVERFLOW
      = if 2 ≤ reactionOf s src ∧ s.r Reg.FIRST_SOURCE ≠ 0 then 1 else s.r Reg.OVERFLOW := by
  rw [r_raiseCore_of_le_PENDING hsrc (by decide) (OVERFLOW_lt_PENDING _).le, r_latched_OVERFLOW hsrc]

/-! ## Reactions -/

theorem raiseCore_of_mild {src : Nat} {s : State} (h : reactionOf s src < 4) (who : Ident) :
    raiseCore src who s = reported (reactionOf s src) src who s := by
  rw [raiseCore_eq, if_neg (by omega)]

theorem raise_of_notRestartReset {src : Nat} {s : State} (h3 : reactionOf s src ≠ 3) (h4 : reactionOf s src ≠ 4) (who : Ident) :
    raise src who s = raiseCore src who s := by
  simp only [raise, h3, h4, if_false]

theorem raise_restart {src : Nat} {s : State} {who : Ident} {u : Nat} (h : reactionOf s src = 3) (hu : who.unit? = some u) :
    raise src who s = restart u (raiseCore src who s) := by
  simp only [raise, h, hu, if_true]

theorem raise_restart_none {src : Nat} {s : State} {who : Ident} (h : reactionOf s src = 3) (hu : who.unit? = none) :
    raise src who s = raiseCore src who s := by
  simp only [raise, h, hu, if_true]

theorem raise_drains {src : Nat} {s : State} {d : Nat} (h : reactionOf s src = 4) (hd : s.aon.lastFaultReset = some d) (ht : s.t3 < d)
    (who : Ident) : raise src who s = drainChip src (raiseCore src who s) := by
  simp [raise, h, hd, ht]

/-- Reaction 4 with no such reset in the last 600 s starts a chip reset; a reset that has started keeps its time (R424). -/
theorem raise_resets {src : Nat} {s : State} (h : reactionOf s src = 4) (ht : ∀ d, s.aon.lastFaultReset = some d → d ≤ s.t3)
    (who : Ident) : raise src who s = { raiseCore src who s with
      sys := { (raiseCore src who s).sys with faultReset := some (s.sys.faultReset.getD (s.t3 + 1000000)) } } := by
  have hany : (s.aon.lastFaultReset.any fun d => decide (s.t3 < d)) = false := by
    cases hl : s.aon.lastFaultReset with
    | none => rfl
    | some d => simpa using ht d hl
  simp [raise, h, hany]

section
variable {src : Nat} {s : State} (h : reactionOf s src = 4 ∨ reactionOf s src = 5) (who : Ident)
include h

theorem safe_raiseCore : (raiseCore src who s).safe = true := by
  rw [raiseCore_eq, if_pos h]
  exact safe_ensureSafe _

theorem errHeld_raiseCore (hsrc : src < 128) : errHeld (raiseCore src who s) = true := by
  have hword : src / 64 < 2 := by omega
  have hbit : ((raiseCore src who s).r (Reg.ERR_HOLD (src / 64))).testBit (src % 64) = true := by
    rw [raiseCore_eq, if_pos h, r_ensureSafe _ ((PENDING_lt_ERR_HOLD _).le.trans' ((OVERFLOW_lt_PENDING _).le.trans' (by decide)))
      (ERR_HOLD_lt_SAFE_STATE hword), sourceBit, State.r_setR_self, testBit_setBit]
    simp
  have hset : (raiseCore src who s).r (Reg.ERR_HOLD (src / 64)) ≠ 0 := by
    intro hzero
    simp [hzero] at hbit
  obtain hw | hw : src / 64 = 0 ∨ src / 64 = 1 := by omega
  all_goals
    rw [hw] at hset
    simp [errHeld, hset]

end

theorem reactionOf_drained {src : Nat} {s : State} (hd : s.drained = true)
    (hc : s.r (Reg.REACTION (src - 1)) = 3 ∨ s.r (Reg.REACTION (src - 1)) = 4) : reactionOf s src = 5 := if_pos ⟨hd, hc⟩

theorem reactionOf_running {src : Nat} {s : State} (hd : s.drained = false) : reactionOf s src = s.r (Reg.REACTION (src - 1)) :=
  if_neg (by simp [hd])

/-- Settles O46: the collector's entries entry by entry, then one law per reaction. -/
theorem raisingASourceReportsAndReacts : Obligations.RaisingASourceReportsAndReacts := by
  unfold Obligations.RaisingASourceReportsAndReacts
  refine ⟨fun src who s hs => ?_, fun src who s hs => ?_⟩
  · obtain ⟨-, hsrc⟩ := faultSource_bounds hs
    have hsup := sup_raiseCore src who s
    refine ⟨r_raiseCore_FAULT_COUNT hsrc who s, fun i _ => ?_, fun hc => ?_, fun hc hempty => ?_, fun hc hfull => ?_,
      fun hover => ?_, fun hover => ⟨fun hc => ?_, fun hc => ?_, fun hc => ?_⟩, fun hc => ⟨?_, fun k hcount hpend hfirst hlost => ?_, ?_⟩⟩
    · rw [r_raiseCore_PENDING hsrc, testBit_setBit]
    · rw [r_raiseCore_FIRST_SOURCE hsrc, r_raiseCore_OVERFLOW hsrc, if_neg (by omega), if_neg (by omega)]
      exact ⟨rfl, rfl⟩
    · rw [r_raiseCore_FIRST_SOURCE hsrc, r_raiseCore_OVERFLOW hsrc, if_pos ⟨hc, hempty⟩, if_neg (by simp [hempty])]
      exact ⟨rfl, rfl⟩
    · rw [r_raiseCore_FIRST_SOURCE hsrc, r_raiseCore_OVERFLOW hsrc, if_neg (by simp [hfull]), if_pos ⟨hc, hfull⟩]
      exact ⟨rfl, rfl⟩
    · rw [hsup, informTrio_of_handover hover]
    · rw [hsup, informTrio_interrupt hover (by omega) (by omega)]
    · rw [hsup, hc, informTrio_trap hover]
    · rw [hsup, hc, informTrio_four]
    · exact raise_of_notRestartReset (by omega) (by omega) who
    · rw [raiseCore_of_mild (by omega), r_reported, r_latched_of_ne hfirst hlost, r_flagged_of_ne hcount hpend]
    · rw [raiseCore_of_mild (by omega)]
      exact reported_frame _ _ _ _
  · obtain ⟨-, hsrc⟩ := faultSource_bounds hs
    refine ⟨reactionOf_drained, reactionOf_running, fun h => ?_, fun h => ⟨fun u hu => raise_restart h hu, raise_restart_none h⟩,
      fun h => ⟨fun d hd ht => raise_drains h hd ht who, fun ht => ?_⟩⟩
    · rw [raise_of_notRestartReset (by omega) (by omega)]
      exact ⟨rfl, safe_raiseCore (.inr h) who, errHeld_raiseCore (.inr h) who hsrc⟩
    · rw [raise_resets h ht]
      exact ⟨rfl, safe_raiseCore (.inl h) who⟩

end Sys2Proof.Machine
end

section
/-! What every step keeps: the queue, what has left the device, the canonical form of the stores, and the fuses. Each command
keeps it by the law of its meaning, an idle step because a tick only moves the Rooster; and every command but a DRAM access
outside the device completes. -/

namespace Sys2Proof.Machine

open Sys2Proof

/-! ## An idle step -/

theorem advanceBase_rooster (n : Nat) (s : State) : ∃ x, advanceBase n s = s.withRooster x := by
  unfold advanceBase
  split
  · exact ⟨s.rooster, rfl⟩
  · exact ⟨_, rfl⟩

theorem followBase_rooster (n : Nat) (s : State) : ∃ x, followBase n s = s.withRooster x := by
  unfold followBase
  split
  · exact ⟨_, rfl⟩
  · exact ⟨s.rooster, rfl⟩

theorem forEach_rooster {α : Type} {l : List α} {f : α → State → State} (hf : ∀ a s, ∃ x, f a s = s.withRooster x) (s : State) :
    ∃ x, forEach l f s = s.withRooster x := by
  refine forEach_induct (P := fun t => ∃ x, t = s.withRooster x) (fun a t ht => ?_) ⟨s.rooster, rfl⟩
  obtain ⟨y, rfl⟩ := ht
  obtain ⟨z, hz⟩ := hf a (s.withRooster y)
  exact ⟨z, hz⟩

theorem tick_rooster (s : State) : ∃ x, tick s = s.withRooster x := by
  unfold tick followAll
  split
  · exact ⟨s.rooster, rfl⟩
  · obtain ⟨y, hy⟩ := forEach_rooster advanceBase_rooster s (l := List.range 8)
    obtain ⟨z, hz⟩ := forEach_rooster followBase_rooster (s.withRooster y) (l := List.range 8)
    exact ⟨z, by rw [hy, hz]; rfl⟩

/-! ### The bases that run on their own -/

theorem cycleAdvance_of_not_adjusted {s : State} {n : Nat} (h : s.r (Reg.T_RATE_ADJ n) = 0) : cycleAdvance s n = 2 ^ 33 := by
  have hr : s.rI 32 (Reg.T_RATE_ADJ n) = 0 := by simp [State.rI, h, signed]
  simp [cycleAdvance, hr]

/-- `t` reads as `s` in what the advance of base `n` rests on. -/
structure SameBase (n : Nat) (s t : State) : Prop where
  regs : t.regs = s.regs
  ns : t.t n = s.t n
  frac : sget dflt0 t.rooster.frac n = sget dflt0 s.rooster.frac n

theorem SameBase.refl (n : Nat) (s : State) : SameBase n s s := ⟨rfl, rfl, rfl⟩

theorem SameBase.trans {n : Nat} {s t u : State} (h : SameBase n s t) (k : SameBase n t u) : SameBase n s u :=
  ⟨k.regs.trans h.regs, k.ns.trans h.ns, k.frac.trans h.frac⟩

theorem followSource_congr {s t : State} (h : t.regs = s.regs) (n : Nat) : followSource t n = followSource s n := by
  simp only [followSource, State.r_congr h]

theorem SameBase.advanceBase {n m : Nat} (h : n ≠ m) (s : State) : SameBase n s (advanceBase m s) := by
  unfold Machine.advanceBase
  split
  · exact .refl n s
  · exact ⟨rfl, sget_sset_of_ne _ _ h _, sget_sset_of_ne _ _ h _⟩

theorem SameBase.followBase {n m : Nat} {s : State} (h : n ≠ m ∨ followSource s n = none) : SameBase n s (followBase m s) := by
  unfold Machine.followBase
  split
  next src hsrc =>
    have hne : n ≠ m := h.elim id fun hnone heq => by simp [heq, hsrc] at hnone
    exact ⟨rfl, sget_sset_of_ne _ _ hne _, sget_sset_of_ne dflt0 s.rooster.frac hne 0⟩
  next => exact .refl n s

theorem SameBase.advanceLoop {n : Nat} {l : List Nat} (h : n ∉ l) (s : State) : SameBase n s (forEach l Machine.advanceBase s) := by
  induction l generalizing s with
  | nil => exact .refl n s
  | cons m l ih =>
    simp only [List.mem_cons, not_or] at h
    exact (SameBase.advanceBase h.1 s).trans (ih h.2 _)

theorem SameBase.followLoop {n : Nat} (l : List Nat) {s : State} (h : followSource s n = none) :
    SameBase n s (forEach l Machine.followBase s) :=
  forEach_induct (P := SameBase n s)
    (fun _ _ ht => ht.trans (.followBase (.inr ((followSource_congr ht.regs n).trans h)))) (.refl n s)

/-- 2 ns are 2^33 units of 2^-32 ns, so the fraction stays and the value moves by 2. -/
theorem t_advanceBase {s : State} {n : Nat} (hf : followSource s n = none) (hr : s.r (Reg.T_RATE_ADJ n) = 0)
    (hfrac : sget dflt0 s.rooster.frac n < 2 ^ 32) : (advanceBase n s).t n = (s.t n + 2) % 2 ^ 64 := by
  simp only [advanceBase, hf, cycleAdvance_of_not_adjusted hr, State.t, sget_sset_self]
  omega

theorem forEach_append {α σ : Type} (l m : List α) (f : α → σ → σ) (s : σ) :
    forEach (l ++ m) f s = forEach m f (forEach l f s) := List.foldl_append ..

theorem t_tick {s : State} {n : Nat} (hp : ¬ (s.sys.phase = .off ∨ s.sys.phase = .heldInReset)) (hn : n < 8)
    (hf : followSource s n = none) (hr : s.r (Reg.T_RATE_ADJ n) = 0) (hfrac : sget dflt0 s.rooster.frac n < 2 ^ 32) :
    (tick s).t n = (s.t n + 2) % 2 ^ 64 := by
  obtain ⟨l, m, hlm⟩ := List.append_of_mem (List.mem_range.2 hn)
  have hnodup := hlm ▸ List.nodup_range (n := 8)
  have hl : n ∉ l := by grind
  have hm : n ∉ m := by grind
  have hbefore := SameBase.advanceLoop hl s
  have hown : (advanceBase n (forEach l advanceBase s)).t n = (s.t n + 2) % 2 ^ 64 := by
    rw [t_advanceBase ((followSource_congr hbefore.regs n).trans hf) ((State.r_congr hbefore.regs _).trans hr)
      (hbefore.frac ▸ hfrac), hbefore.ns]
  have hafter := SameBase.advanceLoop hm (advanceBase n (forEach l advanceBase s))
  have hregs : (forEach (List.range 8) advanceBase s).regs = s.regs :=
    forEach_induct (P := fun t : State => t.regs = s.regs)
      (fun a t ht => by obtain ⟨x, hx⟩ := advanceBase_rooster a t; rw [hx]; exact ht) rfl
  have hfollow := SameBase.followLoop (List.range 8) ((followSource_congr hregs n).trans hf)
  rw [tick, if_neg hp, followAll, hfollow.ns, hlm, forEach_append, forEach_cons, hafter.ns, hown]

/-! ## A command -/

theorem exec_ev {s0 s : State} (h : Evolves s0 s) : (c : Instr) → EvolvesTo s0 (exec c s)
  | .dialeFrameReceive .. => execDialeFrameReceive_ev h
  | .read .. => execRead_ev h
  | .write .. => execWrite_ev h
  | .segmentedRead .. => execSegmentedRead_ev h
  | .segmentedWrite .. => execSegmentedWrite_ev h
  | .cancel .. => execCancel_ev h
  | .transferTimeout .. => execTransferTimeout_ev h
  | .packageWrite .. => execPackageWrite_ev h
  | .activate .. => execActivate_ev h
  | .deactivate .. => execDeactivate_ev h
  | .unload .. => execUnload_ev h
  | .graphSetupComplete .. => execGraphSetupComplete_ev h
  | .deactivationComplete .. => execDeactivationComplete_ev h
  | .windowCloseAck .. => execWindowCloseAck_ev h
  | .tileFetch .. => execTileFetch_ev h
  | .expandTile .. => execExpandTile_ev h
  | .verificationTile .. => execVerificationTile_ev h
  | .accumulate .. => execAccumulate_ev h
  | .accumulatorDrain .. => execAccumulatorDrain_ev h
  | .tileComplete .. => execTileComplete_ev h
  | .muleTransfer .. => execMuleTransfer_ev h
  | .scratchpadRead .. => execScratchpadRead_ev h
  | .regionCacheRead .. => execRegionCacheRead_ev h
  | .dramRead .. => execDramRead_ev h
  | .dramPartialWrite .. => execDramPartialWrite_ev h
  | .onchipMemoryRead .. => execOnchipMemoryRead_ev h
  | .dramWriteInvalidate .. => execDramWriteInvalidate_ev h
  | .windowWrite .. => execWindowWrite_ev h
  | .handshakeStall .. => execHandshakeStall_ev h
  | .bridgeOverflow .. => execBridgeOverflow_ev h
  | .paceGateWindow .. => execPaceGateWindow_ev h
  | .pairCompare .. => execPairCompare_ev h
  | .blockResetComplete .. => execBlockResetComplete_ev h
  | .gooseCompare .. => execGooseCompare_ev h
  | .taskBudgetExpiry .. => execTaskBudgetExpiry_ev h
  | .taskAliveExpiry .. => execTaskAliveExpiry_ev h
  | .gateRelease .. => execGateRelease_ev h
  | .gateWithholdTimeout .. => execGateWithholdTimeout_ev h
  | .recordTxStart .. => execRecordTxStart_ev h
  | .ctrlWindowCompare .. => execCtrlWindowCompare_ev h
  | .vote .. => execVote_ev h
  | .dissentTimeout .. => execDissentTimeout_ev h
  | .resyncComplete => execResyncComplete_ev h
  | .healthFuseWriteDone => execHealthFuseWriteDone_ev h
  | .faultReset .. => execFaultReset_ev h
  | .pendingClear .. => execPendingClear_ev h
  | .latchClear .. => execLatchClear_ev h
  | .reactionWrite .. => execReactionWrite_ev h
  | .suspectTimerExpiry .. => execSuspectTimerExpiry_ev h
  | .iftDue .. => execIftDue_ev h
  | .iftOverdue .. => execIftOverdue_ev h
  | .iftSlotStart .. => execIftSlotStart_ev h
  | .iftSlotEnd .. => execIftSlotEnd_ev h
  | .gooseTest .. => execGooseTest_ev h
  | .testPackageWrite .. => execTestPackageWrite_ev h
  | .goldenSliceComplete .. => execGoldenSliceComplete_ev h
  | .portEnable .. => execPortEnable_ev h
  | .portDisable .. => execPortDisable_ev h
  | .portGearWrite .. => execPortGearWrite_ev h
  | .portRateWrite .. => execPortRateWrite_ev h
  | .portBind .. => execPortBind_ev h
  | .linkTrainingComplete .. => execLinkTrainingComplete_ev h
  | .aphyLinkLoss .. => execAphyLinkLoss_ev h
  | .aphyRetransmission .. => execAphyRetransmission_ev h
  | .aphyPacketLost .. => execAphyPacketLost_ev h
  | .frameStart .. => execFrameStart_ev h
  | .frameEnd .. => execFrameEnd_ev h
  | .pixelLine .. => execPixelLine_ev h
  | .embeddedLine .. => execEmbeddedLine_ev h
  | .headerUncorrectable .. => execHeaderUncorrectable_ev h
  | .otherPacket .. => execOtherPacket_ev h
  | .lineTimeout .. => execLineTimeout_ev h
  | .i2cReq .. => execI2cReq_ev h
  | .i2cDone .. => execI2cDone_ev h
  | .pclPacket .. => execPclPacket_ev h
  | .scanTimeout .. => execScanTimeout_ev h
  | .ispLineProcess .. => execIspLineProcess_ev h
  | .memoryLaneTakeFrame .. => execMemoryLaneTakeFrame_ev h
  | .ispFrameDone .. => execIspFrameDone_ev h
  | .paramHoldWrite .. => execParamHoldWrite_ev h
  | .ringFreeze .. => execRingFreeze_ev h
  | .ringRelease .. => execRingRelease_ev h
  | .ringDataRead .. => execRingDataRead_ev h
  | .ringCursorWrite .. => execRingCursorWrite_ev h
  | .ringSizeWrite .. => execRingSizeWrite_ev h
  | .dramScrub .. => execDramScrub_ev h
  | .onchipScrub .. => execOnchipScrub_ev h
  | .dramRefresh c b => execDramRefresh_ev (_channel := c) (_bank := b) h
  | .timeCommit .. => execTimeCommit_ev h
  | .timeCommitApply => execTimeCommitApply_ev h
  | .stagedTimeWrite .. => execStagedTimeWrite_ev h
  | .triggerFire .. => execTriggerFire_ev h
  | .ppsEdge .. => execPpsEdge_ev h
  | .ppsMissedSecond => execPpsMissedSecond_ev h
  | .gptpSyncReceive .. => execGptpSyncReceive_ev h
  | .gptpPdelayExchange .. => execGptpPdelayExchange_ev h
  | .gptpPdelayTransmit .. => execGptpPdelayTransmit_ev h
  | .gptpSyncTransmit .. => execGptpSyncTransmit_ev h
  | .gptpAnnounceReceive .. => execGptpAnnounceReceive_ev h
  | .gptpSyncTimeout .. => execGptpSyncTimeout_ev h
  | .captureEvent .. => execCaptureEvent_ev h
  | .ethFrameReceive .. => execEthFrameReceive_ev h
  | .arpRequest _ _ _ ip => execArpRequest_ev (_senderIp := ip) h
  | .neighbourSolicitation _ _ _ ip => execNeighbourSolicitation_ev (_senderIp := ip) h
  | .echoRequest _ _ _ _ ip _ => execEchoRequest_ev (_senderIp := ip) h
  | .ethLinkLoss .. => execEthLinkLoss_ev h
  | .ethLinkUp .. => execEthLinkUp_ev h
  | .canBusOff .. => execCanBusOff_ev h
  | .canBusRecovery .. => execCanBusRecovery_ev h
  | .lwTemplateRebuild => execLwTemplateRebuild_ev h
  | .frerWrite .. => execFrerWrite_ev h
  | .dspEnable .. => execDspEnable_ev h
  | .dspTimingWrite .. => execDspTimingWrite_ev h
  | .dspFrameStart .. => execDspFrameStart_ev h
  | .dspLineFetch .. => execDspLineFetch_ev h
  | .dspLineScan .. => execDspLineScan_ev h
  | .dspFrameEnd .. => execDspFrameEnd_ev h
  | .dspLinkLoss .. => execDspLinkLoss_ev h
  | .planeSourceWrite .. => execPlaneSourceWrite_ev h
  | .coldBoot .. => execColdBoot_ev h
  | .pinReset .. => execPinReset_ev h
  | .resetCmd .. => execResetCmd_ev h
  | .ready => execReady_ev h
  | .fwImageWrite .. => execFwImageWrite_ev h
  | .fwFlashWriteDone .. => execFwFlashWriteDone_ev h
  | .customerKeyWrite .. => execCustomerKeyWrite_ev h
  | .attestNonceWrite .. => execAttestNonceWrite_ev h
  | .attestReportReady => execAttestReportReady_ev h
  | .standbyCmd .. => execStandbyCmd_ev h
  | .standbyEntryComplete => execStandbyEntryComplete_ev h
  | .wakeEvent .. => execWakeEvent_ev h
  | .avsLoopStep .. => execAvsLoopStep_ev h
  | .temperatureRead .. => execTemperatureRead_ev h
  | .vectorLaneOperation .. => execVectorLaneOperation_ev h
  | .resetNDeasserted => execResetNDeasserted_ev h
  | .powerDown => execPowerDown_ev h
  | .dspLinkUp .. => execDspLinkUp_ev h
  | .keyValidFuseBlown => execKeyValidFuseBlown_ev h

theorem exec_evolves {c : Instr} {s t : State} (e : exec c s = .next t) : Evolves s t := by
  simpa [e, EvolvesTo] using exec_ev (Evolves.refl s) c

/-! ## A step -/

theorem step_of_pending {s : State} {c : Instr} {rest : List Instr} (h : s.pending = c :: rest) :
    step s = exec c { s with pending := rest } := by
  simp only [step, h]

theorem step_of_idle {s : State} (h : s.pending = []) : step s = .next (tick s) := by
  simp only [step, h]

/-- A step is an idle one, or a command that runs with the rest of the queue. -/
theorem step_evolves {s t : State} (e : step s = .next t) : ∃ l, Evolves { s with pending := l } t := by
  cases hq : s.pending with
  | nil =>
    rw [step_of_idle hq] at e
    exact ⟨s.pending, Host.Outcome.next.inj e ▸ tick_ev (Evolves.refl s)⟩
  | cons c rest =>
    rw [step_of_pending hq] at e
    exact ⟨rest, exec_evolves e⟩

/-! ## Which commands complete -/

theorem exec_outsideDram {c : Instr} {s : State} (h : outsideDram s c) : exec c s = .fault .dramAddress := by
  cases c with
  | dramRead addr => exact if_pos h
  | dramPartialWrite addr => exact if_pos h
  | regionCacheRead _ _ addr => exact if_pos h
  | dramWriteInvalidate addr bytes => exact if_pos h
  | dramScrub burst => exact if_pos h
  | _ => exact h.elim

/-- Every branch of every meaning ends in a next state, but for the five guards of the device addresses. -/
theorem exec_completes {c : Instr} {s : State} (h : ¬ outsideDram s c) : ∃ t, exec c s = .next t := by
  cases c
  case dramRead => exact ⟨_, if_neg h⟩
  case dramPartialWrite => exact ⟨_, if_neg h⟩
  case regionCacheRead => exact ⟨_, if_neg h⟩
  case dramWriteInvalidate => exact ⟨_, if_neg h⟩
  case dramScrub => exact ⟨_, if_neg h⟩
  all_goals
    dsimp only [exec, execDialeFrameReceive, execRead, execWrite, execSegmentedRead, execSegmentedWrite, execCancel, execTransferTimeout,
      execPackageWrite, execActivate, execDeactivate, execUnload, execGraphSetupComplete, execDeactivationComplete,
      execWindowCloseAck, execTileFetch, execExpandTile, execVerificationTile, execAccumulate, execAccumulatorDrain,
      execTileComplete, execMuleTransfer, execScratchpadRead, execRegionCacheRead, execDramRead, execDramPartialWrite,
      execOnchipMemoryRead, execDramWriteInvalidate, execWindowWrite, execHandshakeStall, execBridgeOverflow,
      execPaceGateWindow, execPairCompare, execBlockResetComplete, execGooseCompare, execTaskBudgetExpiry,
      execTaskAliveExpiry, execGateRelease, execGateWithholdTimeout, execRecordTxStart, execCtrlWindowCompare, execVote,
      execDissentTimeout, execResyncComplete, execHealthFuseWriteDone, execFaultReset, execPendingClear, execLatchClear,
      execReactionWrite, execSuspectTimerExpiry, execIftDue, execIftOverdue, execIftSlotStart, execIftSlotEnd,
      execGooseTest, execTestPackageWrite, execGoldenSliceComplete, execPortEnable, execPortDisable, execPortGearWrite,
      execPortRateWrite, execPortBind, execLinkTrainingComplete, execAphyLinkLoss, execAphyRetransmission,
      execAphyPacketLost, execFrameStart, execFrameEnd, execPixelLine, execEmbeddedLine, execHeaderUncorrectable,
      execOtherPacket, execLineTimeout, execI2cReq, execI2cDone, execPclPacket, execScanTimeout, execIspLineProcess,
      execMemoryLaneTakeFrame, execIspFrameDone, execParamHoldWrite, execRingFreeze, execRingRelease, execRingDataRead,
      execRingCursorWrite, execRingSizeWrite, execDramScrub, execOnchipScrub, execDramRefresh, execTimeCommit,
      execTimeCommitApply, execStagedTimeWrite, execTriggerFire, execPpsEdge, execPpsMissedSecond, execGptpSyncReceive,
      execGptpPdelayExchange, execGptpPdelayTransmit, execGptpSyncTransmit, execGptpAnnounceReceive, execGptpSyncTimeout,
      execCaptureEvent, execEthFrameReceive, execArpRequest, execNeighbourSolicitation, execEchoRequest, execEthLinkLoss,
      execEthLinkUp, execCanBusOff, execCanBusRecovery, execLwTemplateRebuild, execFrerWrite, execDspEnable,
      execDspTimingWrite, execDspFrameStart, execDspLineFetch, execDspLineScan, execDspFrameEnd, execDspLinkLoss,
      execPlaneSourceWrite, execColdBoot, execPinReset, execResetCmd, execReady, execFwImageWrite, execFwFlashWriteDone,
      execCustomerKeyWrite, execAttestNonceWrite, execAttestReportReady, execStandbyCmd, execStandbyEntryComplete,
      execWakeEvent, execAvsLoopStep, execTemperatureRead, execVectorLaneOperation, execResetNDeasserted, execPowerDown,
      execDspLinkUp, execKeyValidFuseBlown]
    repeat' split
  all_goals exact ⟨_, rfl⟩

/-- Settles O1. -/
theorem stepRunsFrontCommand : Obligations.StepRunsFrontCommand := by
  unfold Obligations.StepRunsFrontCommand
  exact fun c rest s => step_of_pending (s := { s with pending := c :: rest }) rfl

/-- Settles O3, by `Evolves` of the command and of the step. -/
theorem commandsKeepTheQueueAndWhatWasSent : Obligations.CommandsKeepTheQueueAndWhatWasSent := by
  unfold Obligations.CommandsKeepTheQueueAndWhatWasSent
  refine ⟨fun c s t e => (exec_evolves e).pending, fun s t e => ?_⟩
  obtain ⟨l, h⟩ := step_evolves e
  exact ⟨h.wire, h.free⟩

/-- Settles O2: a tick only moves the Rooster, and one of its loops moves each base that runs on its own. -/
theorem idleStepOnlyMovesTime : Obligations.IdleStepOnlyMovesTime := by
  unfold Obligations.IdleStepOnlyMovesTime
  intro s hs
  obtain ⟨x, hx⟩ := tick_rooster s
  refine ⟨tick s, step_of_idle hs, by rw [hx]; rfl, fun hp => if_pos hp, fun hoff hheld n hn hf hr hfrac => ?_⟩
  exact t_tick (by simp [hoff, hheld]) hn hf hr hfrac

/-- Settles O4. -/
theorem onlyOutsideDramStops : Obligations.OnlyOutsideDramStops := by
  unfold Obligations.OnlyOutsideDramStops
  exact fun c s => ⟨exec_outsideDram, exec_completes⟩

/-- Settles O5, by `Evolves` of the step. -/
theorem stepKeepsCanonicalForm : Obligations.StepKeepsCanonicalForm := by
  unfold Obligations.StepKeepsCanonicalForm
  intro s t hs e
  obtain ⟨l, h⟩ := step_evolves e
  exact ⟨h.mem hs.mem, h.regs hs.regs, h.staged hs.staged⟩

/-- Settles O6, by `Evolves` of the step. -/
theorem fusesOnlyBlow : Obligations.FusesOnlyBlow := by
  unfold Obligations.FusesOnlyBlow
  intro s t e
  obtain ⟨l, h⟩ := step_evolves e
  exact h.fuses

end Sys2Proof.Machine
end

section
/-! Every code of a number format converts back to itself (R80, R82, R96, R97). An integer code is its two's complement
value, which no saturation touches. A float code is a sign and a magnitude code `ex * 2^m + man`; its exact value lies on
the grid of its own binade, so rounding changes nothing and puts the exponent and the mantissa back. -/

namespace Sys2Proof.Machine

open Sys2Proof

/-! ## Integer formats -/

theorem signed_bounds {w : Nat} (hw : 0 < w) (c : Nat) : -(2 : Int) ^ (w - 1) ≤ signed w c ∧ signed w c ≤ 2 ^ (w - 1) - 1 := by
  obtain ⟨n, rfl⟩ : ∃ n, w = n + 1 := ⟨w - 1, by omega⟩
  have hlt : c % 2 ^ (n + 1) < 2 ^ (n + 1) := Nat.mod_lt _ (by positivity)
  rw [pow_succ] at hlt
  simp only [signed, Nat.add_sub_cancel, pow_succ]
  generalize c % (2 ^ n * 2) = u at hlt ⊢
  have hpow : ((2 ^ n : Nat) : Int) = 2 ^ n := by push_cast; rfl
  split <;> omega

theorem unsigned_signed {w c : Nat} (hc : c < 2 ^ w) : unsigned w (signed w c) = c := by
  have hc' : (c : Int) < 2 ^ w := by exact_mod_cast hc
  simp only [unsigned, signed, Nat.mod_eq_of_lt hc]
  split
  · rw [Int.emod_eq_of_lt (by omega) hc', Int.toNat_natCast]
  · rw [Int.sub_emod_right, Int.emod_eq_of_lt (by omega) hc', Int.toNat_natCast]

@[simp] theorem roundGrid_self (m : Nat) (q : Int) : roundGrid m q q = m := by simp [roundGrid]

theorem toInt_numOfInt {f : Fmt} {v : Int} (hlo : -(2 : Int) ^ (f.width - 1) ≤ v) (hhi : v ≤ 2 ^ (f.width - 1) - 1) :
    toInt f (numOfInt v) = v := by
  have hv : (if decide (v < 0) = true then -(v.natAbs : Int) else v.natAbs) = v := by
    simp only [decide_eq_true_eq]
    split <;> omega
  simp only [toInt, numOfInt, roundGrid_self, hv]
  omega

theorem Fmt.width_pos (f : Fmt) : 0 < f.width := by cases f <;> decide

theorem toElem_decodeElem_int {f : Fmt} (hf : f.isInt = true) {c : Nat} (hc : c < 2 ^ f.width) :
    toElem f (decodeElem f c) = c := by
  obtain ⟨hlo, hhi⟩ := signed_bounds (Fmt.width_pos f) c
  simp only [toElem, decodeElem, hf, if_true, toInt_numOfInt hlo hhi, unsigned_signed hc]

/-! ## Rounding a value that lies on the grid -/

/-- Below the smallest normal exponent the grid is that of the mantissa itself. -/
theorem roundMag_subnormal {f : Fmt} {man : Nat} (h : man < 2 ^ f.shape.m) :
    roundMag f man (1 - (f.shape.bias : Int) - f.shape.m) = man := by
  unfold roundMag
  split
  next h0 => exact h0.symm
  next h0 =>
    have hlog := (Nat.log2_lt h0).2 h
    have htop : max ((Nat.log2 man : Int) + (1 - (f.shape.bias : Int) - f.shape.m)) (1 - (f.shape.bias : Int))
        = 1 - (f.shape.bias : Int) := by omega
    simp [htop]

/-- A normal value's leading bit is the hidden one, so its exponent and its mantissa come back as they were. -/
theorem roundMag_normal {f : Fmt} {man ex : Nat} (h : man < 2 ^ f.shape.m) (hex : 0 < ex) :
    roundMag f (2 ^ f.shape.m + man) ((ex : Int) - f.shape.bias - f.shape.m) = ex * 2 ^ f.shape.m + man := by
  have hpos : 0 < 2 ^ f.shape.m := by positivity
  have hlog : Nat.log2 (2 ^ f.shape.m + man) = f.shape.m := by
    rw [Nat.log2_eq_iff (by omega), pow_succ]
    omega
  have htop : max ((f.shape.m : Int) + ((ex : Int) - f.shape.bias - f.shape.m)) (1 - (f.shape.bias : Int))
      = (ex : Int) - f.shape.bias := by omega
  have hexp : ((ex : Int) - f.shape.bias - (1 - (f.shape.bias : Int))).toNat = ex - 1 := by omega
  unfold roundMag
  rw [if_neg (by omega)]
  simp only [hlog, htop, hexp, roundGrid_self]
  obtain ⟨e, rfl⟩ : ∃ e, ex = e + 1 := ⟨ex - 1, by omega⟩
  simp only [Nat.add_sub_cancel, Nat.add_mul]
  omega

/-! ## Float formats -/

/-- The magnitude of a code: the code without its sign bit. -/
theorem code_eq {m e c : Nat} (hc : c < 2 ^ (1 + e + m)) :
    c = (c / 2 ^ m % 2 ^ e) * 2 ^ m + c % 2 ^ m + (if bit c (m + e) then 2 ^ (m + e) else 0) := by
  have hdiv : c / 2 ^ (m + e) < 2 := Nat.div_lt_of_lt_mul (by rwa [← pow_succ, show m + e + 1 = 1 + e + m by omega])
  have hbit : (if bit c (m + e) then 2 ^ (m + e) else 0) = 2 ^ (m + e) * (c / 2 ^ m / 2 ^ e) := by
    rw [Nat.div_div_eq_div_mul, ← pow_add, bit]
    generalize c / 2 ^ (m + e) = q at hdiv ⊢
    obtain rfl | rfl : q = 0 ∨ q = 1 := by omega
    all_goals simp
  have hlow := Nat.div_add_mod c (2 ^ m)
  have hhigh := Nat.div_add_mod (c / 2 ^ m) (2 ^ e)
  rw [hbit]
  calc c = 2 ^ m * (2 ^ e * (c / 2 ^ m / 2 ^ e) + c / 2 ^ m % 2 ^ e) + c % 2 ^ m := by rw [hhigh, hlow]
    _ = _ := by rw [pow_add]; ring

theorem Fmt.width_of_float {f : Fmt} (hf : f.isInt = false) : f.width = 1 + f.shape.e + f.shape.m := by
  cases f <;> first | rfl | cases hf

theorem Fmt.maxCode_of_hasInf {f : Fmt} (h : f.hasInf = true) : f.maxCode + 1 = (2 ^ f.shape.e - 1) * 2 ^ f.shape.m := by
  cases f <;> first | rfl | cases h

/-- A magnitude code that stands for a finite value is at most that of the largest one. -/
theorem le_maxCode {f : Fmt} (hf : f.isInt = false) {ex man : Nat} (hex : ex < 2 ^ f.shape.e) (hman : man < 2 ^ f.shape.m)
    (hinf : ¬ (f.hasInf = true ∧ ex = 2 ^ f.shape.e - 1)) (hnan : ¬ (f = .e4m3 ∧ ex = 15 ∧ man = 7)) :
    ex * 2 ^ f.shape.m + man ≤ f.maxCode := by
  cases f with
  | int4 | int8 | int16 | int32 => cases hf
  | e4m3 =>
    simp only [Fmt.shape, Fmt.maxCode, true_and] at *
    omega
  | e5m2 | fp16 | bf16 | fp32 =>
    simp only [Fmt.shape, Fmt.maxCode, Fmt.hasInf, true_and] at *
    omega
  | fp6 | fp4 =>
    simp only [Fmt.shape, Fmt.maxCode] at *
    omega

theorem signCode_eq {f : Fmt} (hf : f.isInt = false) (neg : Bool) (mag : Nat) :
    signCode f neg mag = mag + (if neg then 2 ^ (f.shape.m + f.shape.e) else 0) := by
  have hw : f.width - 1 = f.shape.m + f.shape.e := by rw [Fmt.width_of_float hf]; omega
  cases neg <;> simp [signCode, hw]

theorem toFloat_decodeFloat {f : Fmt} (hf : f.isInt = false) {c : Nat} (hc : c < 2 ^ f.width) (hn : decodeFloat f c ≠ .nan) :
    toFloat f (decodeFloat f c) = c := by
  have hcode := code_eq (Fmt.width_of_float hf ▸ hc)
  have hman : c % 2 ^ f.shape.m < 2 ^ f.shape.m := Nat.mod_lt _ (by positivity)
  have hex : c / 2 ^ f.shape.m % 2 ^ f.shape.e < 2 ^ f.shape.e := Nat.mod_lt _ (by positivity)
  simp only [decodeFloat] at hn ⊢
  split_ifs at hn ⊢ with hinf hzero hnan hsub
  · have hmax := Fmt.maxCode_of_hasInf hinf.1
    rw [hinf.2, hzero] at hcode
    simp only [toFloat, hinf.1, if_true, hmax, signCode_eq hf]
    omega
  · exact absurd rfl hn
  · exact absurd rfl hn
  · have hmax := le_maxCode hf hex hman hinf hnan
    rw [hsub] at hcode hmax
    simp only [toFloat, roundMag_subnormal hman, signCode_eq hf]
    omega
  · have hmax := le_maxCode hf hex hman hinf hnan
    simp only [toFloat, roundMag_normal hman (Nat.pos_of_ne_zero hsub), signCode_eq hf]
    omega

/-- Settles O32, for an integer format by two's complement, for a float format by its binades. -/
theorem numberCodesSurviveConversion : Obligations.NumberCodesSurviveConversion := by
  unfold Obligations.NumberCodesSurviveConversion
  intro f c hc hn
  cases hf : f.isInt with
  | true => exact toElem_decodeElem_int hf hc
  | false =>
    simp only [toElem, decodeElem, hf, Bool.false_eq_true, if_false] at hn ⊢
    exact toFloat_decodeFloat hf hc hn

end Sys2Proof.Machine
end

section
/-! A Diale frame decodes to the request that it carries (R445, R446, R447), and one that fails its checks is only counted.
A header field reads back because the header's bytes stand at their offsets; the check reads back because a CRC-32C is
four bytes long. -/

namespace Sys2Proof.Machine

open Sys2Proof

/-! ## Fields of an encoded frame -/

@[simp] theorem slice_append_length (a m r : Bytes) : slice (a ++ (m ++ r)) a.length m.length = m := by
  simp [slice]

theorem leBytes_four (v : Nat) : leBytes 4 v = [BitVec.ofNat 8 v, BitVec.ofNat 8 (v / 256), BitVec.ofNat 8 (v / 256 / 256),
    BitVec.ofNat 8 (v / 256 / 256 / 256)] := rfl

/-- The 20 bytes before the payload (R446). -/
def frameHeader (node src txn idx sub op flags len off : Nat) : Bytes :=
  [0x44#8, 0x4C#8, 0x01#8, BitVec.ofNat 8 op, BitVec.ofNat 8 node, BitVec.ofNat 8 (node / 256), BitVec.ofNat 8 src,
    BitVec.ofNat 8 (src / 256), BitVec.ofNat 8 txn, BitVec.ofNat 8 (txn / 256), BitVec.ofNat 8 idx, BitVec.ofNat 8 (idx / 256),
    BitVec.ofNat 8 sub, BitVec.ofNat 8 flags, BitVec.ofNat 8 len, BitVec.ofNat 8 (len / 256)] ++ leBytes 4 off

section
variable (node src txn idx sub op flags off : Nat) (payload : Bytes)

theorem frameBody_eq : frameBody node src txn idx sub op flags off payload
    = frameHeader node src txn idx sub op flags payload.length off ++ payload := rfl

theorem frameHeader_length (len : Nat) : (frameHeader node src txn idx sub op flags len off).length = 20 := rfl

theorem withCheck_frameBody : withCheck (frameBody node src txn idx sub op flags off payload)
    = frameHeader node src txn idx sub op flags payload.length off
      ++ (payload ++ leBytes 4 (crc32c (frameBody node src txn idx sub op flags off payload))) := by
  rw [withCheck, frameBody_eq, List.append_assoc]

theorem crc32c_lt (b : Bytes) : crc32c b < 256 ^ 4 := BitVec.isLt _

/-- A field of the header does not see what follows the header. -/
theorem field_header {off n : Nat} (h : off + n ≤ 20) {hd : Bytes} (hl : hd.length = 20) (r : Bytes) :
    field (hd ++ r) off n = field hd off n := by
  have hn : n - (hd.length - off) = 0 := by omega
  simp [field, slice, List.drop_append, List.take_append, hn]

theorem field_append_leBytes {n v : Nat} (a : Bytes) (hv : v < 256 ^ n) : field (a ++ leBytes n v) a.length n = v := by
  rw [field, slice, List.drop_left, List.take_of_length_le (leBytes_length n v).le, leVal_leBytes n v hv]

/-- What a receiver reads of an encoded frame. -/
structure Encodes (b : Bytes) (node src txn idx sub op flags off : Nat) (payload : Bytes) : Prop where
  magic : slice b 0 2 = [0x44#8, 0x4C#8]
  version : field b 2 1 = 1
  op : field b 3 1 = op
  node : field b 4 2 = node
  src : field b 6 2 = src
  txn : field b 8 2 = txn
  idx : field b 0xA 2 = idx
  sub : field b 0xC 1 = sub
  flags : field b 0xD 1 = flags
  len : field b 0xE 2 = payload.length
  off : field b 0x10 4 = off
  body : slice b 0x14 payload.length = payload
  check : field b (20 + payload.length) 4 = crc32c (b.take (20 + payload.length))
  length : b.length = 24 + payload.length

theorem encodes_frame (hnode : node < 2 ^ 16) (hsrc : src < 2 ^ 16) (htxn : txn < 2 ^ 16) (hidx : idx < 2 ^ 16) (hsub : sub < 256)
    (hop : op < 256) (hflags : flags < 256) (hoff : off < 2 ^ 32) (hlen : payload.length < 2 ^ 16) :
    Encodes (withCheck (frameBody node src txn idx sub op flags off payload)) node src txn idx sub op flags off payload := by
  have hcrc := crc32c_lt (frameBody node src txn idx sub op flags off payload)
  have hl := frameHeader_length node src txn idx sub op flags off payload.length
  have hb := withCheck_frameBody node src txn idx sub op flags off payload
  have htake : (withCheck (frameBody node src txn idx sub op flags off payload)).take (20 + payload.length)
      = frameBody node src txn idx sub op flags off payload := by
    rw [withCheck, List.take_left']
    rw [frameBody_eq, List.length_append, hl]
  constructor
  case magic | version =>
    rw [hb]
    rfl
  case body =>
    rw [hb, ← hl]
    exact slice_append_length _ _ _
  case check =>
    rw [htake, hb, ← hl, ← List.append_assoc, ← List.length_append]
    exact field_append_leBytes _ hcrc
  case length =>
    rw [hb, List.length_append, List.length_append, hl, leBytes_length]
    omega
  all_goals
    rw [hb, field_header (by decide) hl]
    simp only [frameHeader, field, slice, leBytes_four, List.cons_append, List.nil_append, List.drop_succ_cons, List.drop_zero,
      List.take_succ_cons, List.take_zero, leVal, BitVec.toNat_ofNat]
    omega

end

/-! ## Decoding -/

section
variable {b : Bytes} {node src txn idx sub op flags off : Nat} {payload : Bytes} {c : Carrier} {s : State}

theorem requestOf_encoded (h : Encodes b node src txn idx sub op flags off payload) (hnode : node < 2 ^ 14) (hsrc : src < 2 ^ 14)
    (hflags : flags < 4) : requestOf c b
      = { q := { port := c.port, ip := c.ip, udp := c.udp, mac := c.mac, node := BitVec.ofNat 14 src, txn := BitVec.ofNat 16 txn, tag := c.tag }
          op := op, idx := idx, sub := sub, off := off, all := flags.testBit 0, last := flags.testBit 1, payload := payload } := by
  have hproto : (decide ((1 : Nat) ≠ 1) || decide (2 ^ 14 ≤ node) || decide (2 ^ 14 ≤ src) || decide (4 ≤ flags)) = false := by
    simp only [ne_eq, not_true_eq_false, decide_false, Bool.false_or, Bool.or_eq_false_iff, decide_eq_false_iff_not]
    omega
  simp only [requestOf, h.op, h.version, h.node, h.src, h.txn, h.idx, h.sub, h.flags, h.len, h.off, h.body, bit_eq_testBit, hproto]

theorem frameBad_encoded (h : Encodes b node src txn idx sub op flags off payload) (hnode : node < 2 ^ 14) (hown : s.r Reg.NODE_ID = node)
    (hport : c.port.val < 3) : frameBad s c b = false := by
  have hcan : ¬ 3 ≤ c.port.val := by omega
  simp only [frameBad, h.len, h.magic, h.node, h.check, hown, Nat.mod_eq_of_lt hnode, h.length, hcan]
  simp

theorem dialeReceive_eq_serve (hlive : portLive s c.port.val = true) (hdepot : c.port = 2 → s.sys.depotEn = true)
    (hgood : frameBad s c b = false) (hnode : field b 4 2 % 2 ^ 14 ≠ 0) : dialeReceive c b s = serve (requestOf c b) [] s := by
  have hd : ¬ (c.port = 2 ∧ (!s.sys.depotEn) = true) := fun x => by simp [hdepot x.1] at x
  simp only [dialeReceive, hlive, hd, hgood, hnode, Bool.not_true, Bool.false_eq_true, if_false]

theorem dialeReceive_of_bad (hlive : portLive s c.port.val = true) (hdepot : c.port = 2 → s.sys.depotEn = true)
    (hbad : frameBad s c b = true) : dialeReceive c b s = s.bump Reg.DISCARDED := by
  have hd : ¬ (c.port = 2 ∧ (!s.sys.depotEn) = true) := fun x => by simp [hdepot x.1] at x
  simp only [dialeReceive, hlive, hd, hbad, Bool.not_true, Bool.false_eq_true, if_false, if_true]

theorem exec_dialeFrameReceive_eth (hport : c.port.val < 3) : exec (.dialeFrameReceive c b) s = .next (dialeReceive c b s) := by
  have hcan : ¬ 3 ≤ c.port.val := by omega
  simp [exec, execDialeFrameReceive, hcan]

end

/-- Settles O15: every field reads back, so the frame is good and its request is the one encoded. -/
theorem framesDecodeToTheirRequest : Obligations.FramesDecodeToTheirRequest := by
  unfold Obligations.FramesDecodeToTheirRequest
  intro c op idx sub flags off src txn payload s hport hlive hdepot hnode hnode0 hop hidx hsub hflags hoff hlen
  have hsrc : src.toNat < 2 ^ 14 := src.isLt
  have henc := encodes_frame (s.r Reg.NODE_ID) src.toNat txn.toNat idx sub op flags off payload (by omega) (by omega) txn.isLt hidx
    hsub hop (by omega) hoff (by omega)
  rw [exec_dialeFrameReceive_eth hport, dialeReceive_eq_serve hlive hdepot (frameBad_encoded henc hnode rfl hport)
    (by rwa [henc.node, Nat.mod_eq_of_lt hnode]), requestOf_encoded henc hnode hsrc hflags, BitVec.ofNat_toNat, BitVec.ofNat_toNat,
    BitVec.setWidth_eq, BitVec.setWidth_eq]

/-! ## Frames that fail their checks -/

/-- The counter of received frames of a CAN controller, whatever the frame. -/
def canCounted (c : Carrier) (s : State) : State := s.bump (Reg.CAN_RX_FRAMES (c.port.val - 3))

theorem exec_dialeFrameReceive_can {c : Carrier} {s : State} (b : Bytes) (hport : 3 ≤ c.port.val) (hlive : portLive s c.port.val = true) :
    exec (.dialeFrameReceive c b) s
      = .next (if bitsOf c.canId.toNat 28 26 ≠ 6 then canCounted c s else dialeReceive c b (canCounted c s)) := by
  have h3 : ¬ c.port.val < 3 := by omega
  simp only [portLive, h3, if_false, Bool.and_eq_true] at hlive
  simp [exec, execDialeFrameReceive, hport, hlive, canCounted]

/-- One more dictionary value written, under a key that is not listed yet. -/
theorem Becomes.cons {s t u : State} {l : List (Key × Nat)} (h : Becomes s t u l) {k : Key} (hk : ∀ p ∈ l, p.1 ≠ k) (v : Nat) :
    Becomes s (t.setR k v) u ((k, v) :: l) := by
  refine ⟨fun p hp => ?_, fun j hj => ?_, ?_⟩
  · rcases List.mem_cons.1 hp with rfl | hp
    · exact State.r_setR_self _ _ _
    · rw [State.r_setR_of_ne _ (hk p hp), h.values p hp]
  · rw [State.r_setR_of_ne _ (hj _ List.mem_cons_self), h.others j fun p hp => hj p (List.mem_cons_of_mem _ hp)]
  · conv_lhs => rw [h.rest]
    rfl

theorem Becomes.consBump {s t u : State} {l : List (Key × Nat)} (h : Becomes s t u l) {k : Key} (hk : ∀ p ∈ l, p.1 ≠ k) :
    Becomes s (t.bump k) u ((k, s.oneMore k) :: l) := by
  have hr : t.r k = s.r k := h.others k fun p hp => (hk p hp).symm
  have hone : s.oneMore k = min (dictMax k) (t.r k + 1) := by rw [hr]; rfl
  rw [hone]
  exact h.cons hk _

theorem portLive_canCounted {c : Carrier} {s : State} (p : Nat) : portLive (canCounted c s) p = portLive s p := by
  have hr : ∀ k, k ≠ Reg.CAN_RX_FRAMES (c.port.val - 3) → (canCounted c s).r k = s.r k := fun k hk => State.r_bump_of_ne s hk
  simp only [portLive, ethUp, canUp, State.on, portPowered]
  rw [hr, hr, hr, hr, hr]
  · rfl
  all_goals grind

/-- Settles O16. -/
theorem badFramesAreDiscarded : Obligations.BadFramesAreDiscarded := by
  unfold Obligations.BadFramesAreDiscarded
  intro c b s hlive hdepot
  refine ⟨fun hport hbad => ⟨_, exec_dialeFrameReceive_eth hport, ?_⟩, fun hport hkind hbad => ⟨_, exec_dialeFrameReceive_can b hport hlive, ?_⟩,
    fun hport hkind => ⟨_, exec_dialeFrameReceive_can b hport hlive, ?_⟩⟩
  · rw [dialeReceive_of_bad hlive hdepot hbad]
    exact .bump s _
  · have hdepot' : c.port = 2 → (canCounted c s).sys.depotEn = true := hdepot
    have hnode : (canCounted c s).r Reg.NODE_ID = s.r Reg.NODE_ID := State.r_bump_of_ne s (by grind)
    have hbad' : frameBad (canCounted c s) c b = true := by rw [← hbad, frameBad, frameBad, hnode]
    rw [if_neg (by simp [hkind]), dialeReceive_of_bad ((portLive_canCounted _).trans hlive) hdepot' hbad']
    exact (Becomes.bump s _).consBump (by grind)
  · rw [if_pos hkind]
    exact .bump s _

end Sys2Proof.Machine
end

section
/-! READ, WRITE and their segmented forms (R448 to R465): what each operation answers and leaves, one law for each way that it
ends; a request is served by that law. -/

namespace Sys2Proof.Machine

open Sys2Proof

/-! ## Single reads and writes -/

section
variable {s : State} {r : DReq} {row : DictRow}

theorem handle_read (h : protoBad r = false) (hw : r.whole = false) (hop : r.op = 1) : handle r s = handleRead r s := by
  simp [handle, h, hw, hop]

theorem handle_write (h : protoBad r = false) (hw : r.whole = false) (hop : r.op = 2) : handle r s = handleWrite r s := by
  simp [handle, h, hw, hop]

theorem handle_segRead (h : protoBad r = false) (hw : r.whole = false) (hop : r.op = 3) : handle r s = handleSegRead r s := by
  simp [handle, h, hw, hop]

theorem handle_segWrite (h : protoBad r = false) (hw : r.whole = false) (hop : r.op = 4) : handle r s = handleSegWrite r s := by
  simp [handle, h, hw, hop]

theorem handle_of_protoBad (h : protoBad r = true) : handle r s = (.error 0xD, s) := if_pos h

theorem handleRead_entry_error {c : Abort} (hall : r.all = false) (he : entryRow s r.idx r.sub = .error c) :
    handleRead r s = (.error c, s) := by
  simp [handleRead, hall, he]

theorem handleRead_noAccess (hall : r.all = false) (he : entryRow s r.idx r.sub = .ok row) (ha : canRead (row.acc r.q.cls) = false) :
    handleRead r s = (.error 3, s) := by
  simp [handleRead, hall, he, ha]

theorem handleRead_served (hall : r.all = false) (he : entryRow s r.idx r.sub = .ok row) (ha : canRead (row.acc r.q.cls) = true)
    (hfit : (readValue s row r.idx r.sub).length ≤ r.q.limit) (hr : readRefusal s r.key = none) :
    handleRead r s = (.ok (readValue s row r.idx r.sub, false), noteRead r.key s) := by
  simp [handleRead, hall, he, ha, hr, Nat.not_lt.2 hfit]

theorem handleRead_index {b : Bytes} (hall : r.all = true) (hb : readAll s r.idx r.q.cls = .ok b) (hfit : b.length ≤ r.q.limit) :
    handleRead r s = (.ok (b, false), noteRead r.key s) := by
  simp [handleRead, hall, hb, Nat.not_lt.2 hfit]

theorem handleWrite_entry_error {c : Abort} (hall : r.all = false) (he : entryRow s r.idx r.sub = .error c) :
    handleWrite r s = (.error c, s) := by
  simp [handleWrite, hall, he]

theorem handleWrite_noAccess (hall : r.all = false) (he : entryRow s r.idx r.sub = .ok row) (ha : canWrite (row.acc r.q.cls) = false) :
    handleWrite r s = (.error 3, s) := by
  simp [handleWrite, hall, he, ha]

theorem handleWrite_refused {c : Abort} (hall : r.all = false) (he : entryRow s r.idx r.sub = .ok row)
    (ha : canWrite (row.acc r.q.cls) = true) (hc : writeRefusal s row r.key r.payload false = some c) :
    handleWrite r s = (.error c, s) := by
  simp [handleWrite, hall, he, ha, hc]

theorem handleWrite_permitted (hall : r.all = false) (h : Permits s r row) (hop : r.op ≠ 4) :
    handleWrite r s = (.ok ([], false), applyValue row r.key r.payload s) := by
  have hchecks := h.checks
  rw [forWhole_of_op hop] at hchecks
  simp [handleWrite, hall, h.entry, h.access, hchecks]

theorem handleWrite_index (hall : r.all = true) (h : allRefusal s r.idx r.q.cls r.payload = none) :
    handleWrite r s = (.ok ([], false), applyAll r.idx r.q.cls r.payload s) := by
  simp [handleWrite, hall, h]

end

/-! ## The requests of READ and WRITE -/

/-- The request of a READ of one entry. -/
abbrev readReq (q : Req) (idx : BitVec 16) (sub : BitVec 8) : DReq := { q := q, op := 1, idx := idx.toNat, sub := sub.toNat }

/-- The request of a WRITE of one entry. -/
abbrev writeReq (q : Req) (idx : BitVec 16) (sub : BitVec 8) (payload : Bytes) : DReq :=
  { q := q, op := 2, idx := idx.toNat, sub := sub.toNat, payload := payload }

theorem protoBad_readReq (q : Req) (idx : BitVec 16) (sub : BitVec 8) : protoBad (readReq q idx sub) = false :=
  protoBad_of_op (by simp) (by simp) rfl rfl (Nat.zero_le _)

theorem protoBad_writeReq {q : Req} {payload : Bytes} (h : payload.length ≤ q.limit) (idx : BitVec 16) (sub : BitVec 8) :
    protoBad (writeReq q idx sub payload) = false :=
  protoBad_of_op (by simp) (by simp) rfl rfl h

/-- A complete access of an index breaks no rule of the frame either: it names subindex 0 and is no segment. -/
theorem protoBad_index {r : DReq} (hop : r.op = 1 ∨ r.op = 2) (hp : r.proto = false) (hsub : r.sub = 0) (hl : r.payload.length ≤ r.q.limit) :
    protoBad r = false := by
  rcases hop with h | h <;> simp [protoBad, within, h, hp, hsub, hl]

theorem exec_read_of_handle {q : Req} {idx : BitVec 16} {sub : BitVec 8} {all : Bool} {s t : State} {a : Answer}
    (h : Accepts s { q := q, op := 1, idx := idx.toNat, sub := sub.toNat, all := all })
    (e : handle { q := q, op := 1, idx := idx.toNat, sub := sub.toNat, all := all } s = (a, t)) :
    exec (.read q idx sub all) s = .next (answered { q := q, op := 1, idx := idx.toNat, sub := sub.toNat, all := all } a s t) :=
  congrArg _ (serve_eq h e (isReset_of_op (by simp) (by simp)))

theorem exec_write_of_handle {q : Req} {idx : BitVec 16} {sub : BitVec 8} {payload : Bytes} {s t : State} {a : Answer}
    (h : Accepts s (writeReq q idx sub payload)) (e : handle (writeReq q idx sub payload) s = (a, t))
    (hr : isReset (writeReq q idx sub payload) a = false) :
    exec (.write q idx sub false payload) s = .next (answered (writeReq q idx sub payload) a s t) :=
  congrArg _ (serve_eq h e hr)

theorem noteRead_of_ne {k : Key} (h : k / 256 ≠ 0x8031) (s : State) : noteRead k s = s := if_neg h

/-- Settles O8. -/
theorem readAnswersTheValue : Obligations.ReadAnswersTheValue := by
  unfold Obligations.ReadAnswersTheValue
  constructor
  · intro q idx sub s row r v hacc he ha hfit hr
    refine ⟨exec_read_of_handle hacc ?_, fun hidx => noteRead_of_ne ?_ s⟩
    · rw [handle_read (protoBad_readReq q idx sub) rfl rfl, handleRead_served rfl he ha hfit hr]
    · have hsub : sub.toNat < 256 := sub.isLt
      show (idx.toNat * 256 + sub.toNat) / 256 ≠ 0x8031
      omega
  · intro q idx b s r hacc hb hfit
    refine exec_read_of_handle hacc ?_
    rw [handle_read (protoBad_index (.inl rfl) rfl rfl (Nat.zero_le _)) rfl rfl]
    exact handleRead_index (r := r) rfl hb hfit

/-- Settles O9. -/
theorem writeAppliesTheValue : Obligations.WriteAppliesTheValue := by
  unfold Obligations.WriteAppliesTheValue
  constructor
  · intro q idx sub payload s row r hacc hfit hp hk
    refine exec_write_of_handle hacc ?_ (isReset_of_key hk rfl)
    rw [handle_write (protoBad_writeReq hfit idx sub) rfl rfl, handleWrite_permitted rfl hp (by simp [r])]
  · intro q idx payload s r hacc hfit hp hidx
    have hreset : isReset r (.ok ([], false)) = false := by
      have hkey : r.key ≠ Reg.RESET_CMD := by
        show idx.toNat * 256 + 0 ≠ 0x103001
        omega
      simp [isReset, hkey, r, hidx]
    refine congrArg _ (serve_eq hacc ?_ hreset)
    rw [handle_write (protoBad_index (.inr rfl) rfl rfl hfit) rfl rfl, handleWrite_index rfl hp]

/-- Settles O10. -/
theorem refusedRequestsOnlyAbort : Obligations.RefusedRequestsOnlyAbort := by
  unfold Obligations.RefusedRequestsOnlyAbort
  intro q idx sub payload s rd wr
  have hread : handle rd s = handleRead rd s := handle_read (protoBad_readReq q idx sub) rfl rfl
  have hwrite (hfit : payload.length ≤ q.limit) : handle wr s = handleWrite wr s := handle_write (protoBad_writeReq hfit idx sub) rfl rfl
  refine ⟨fun c hacc he => ?_, fun row hacc he ha => ?_, fun c hacc hfit he => ?_, fun row hacc hfit he ha => ?_,
    fun row c hacc hfit he ha hc => ?_, fun hacc hlong => ?_⟩
  · exact exec_read_of_handle hacc (hread.trans (handleRead_entry_error rfl he))
  · exact exec_read_of_handle hacc (hread.trans (handleRead_noAccess rfl he ha))
  · exact exec_write_of_handle hacc ((hwrite hfit).trans (handleWrite_entry_error rfl he)) isReset_error
  · exact exec_write_of_handle hacc ((hwrite hfit).trans (handleWrite_noAccess rfl he ha)) isReset_error
  · exact exec_write_of_handle hacc ((hwrite hfit).trans (handleWrite_refused rfl he ha hc)) isReset_error
  · exact exec_write_of_handle hacc (handle_of_protoBad (by simp [protoBad, hlong])) isReset_error

/-! ## Requests that are not executed -/

theorem serve_of_repeated {s : State} {r : DReq} {x : Kept} (hlive : portLive s r.q.port.val = true)
    (hdepot : r.q.port = 2 → s.sys.depotEn = true) (hx : keptFor s r = some x) :
    serve r [] s = sendResponse r.q x.response (keepAgain x s) := by
  have hd : ¬ (r.q.port = 2 ∧ (!s.sys.depotEn) = true) := fun h => by simp [hdepot h.1] at h
  simp only [serve, hlive, hd, hx, Bool.not_true, Bool.false_eq_true, if_false]
  simp [raiseAll]

theorem serve_of_disabled {s : State} {r : DReq} (hport : r.q.port = 2) (hlive : portLive s 2 = true) (hdepot : s.sys.depotEn = false) :
    serve r [] s = s.bump Reg.M_DISCARDED := by
  simp [serve, hlive, hport, hdepot, raiseAll]

/-- Settles O12. -/
theorem repeatedAndDisabledRequestsAreNotExecuted : Obligations.RepeatedAndDisabledRequestsAreNotExecuted := by
  unfold Obligations.RepeatedAndDisabledRequestsAreNotExecuted
  refine ⟨fun q idx sub payload x s hlive hdepot => ⟨fun hx => ?_, fun hx => ?_⟩,
    fun q idx sub payload s hport hlive hdepot => ⟨⟨_, rfl, ?_⟩, ⟨_, rfl, ?_⟩⟩⟩
  · exact congrArg _ (serve_of_repeated hlive hdepot hx)
  · exact congrArg _ (serve_of_repeated hlive hdepot hx)
  all_goals
    rw [serve_of_disabled hport hlive hdepot]
    exact .bump s _

/-! ## Segments -/

theorem diale_raise {src : Nat} (hs : src < 256) (who : Ident) (s : State) : (raise src who s).diale = s.diale :=
  (reacts_raise (.refl s) hs who).diale

@[simp] theorem diale_countRead (g : Option (Fin 64)) (cls : Nat) (s : State) : (countRead g cls s).diale = s.diale := by
  cases g <;> rfl

@[simp] theorem diale_readBurst (n : Nat) (err : BurstErr) (s : State) : (readBurst n err s).2.diale = s.diale := by
  unfold readBurst
  dsimp only
  split
  · rfl
  · exact diale_raise (by decide) _ _
  · exact diale_raise (by decide) _ _

theorem diale_looseBursts (cls k n : Nat) (s : State) : (looseBursts cls k n s).2.diale = s.diale := by
  induction k generalizing n s with
  | zero => rfl
  | succ k ih =>
    simp only [looseBursts, ih]
    simp

theorem diale_ringRead (off len : Nat) (s : State) : (ringRead off len s).2.diale = s.diale := by
  simp only [ringRead, readLoose, diale_looseBursts]

theorem diale_noteRead (k : Key) (s : State) : (noteRead k s).diale = s.diale := by
  unfold noteRead
  split <;> rfl

section
variable (r : DReq) (v : Bytes) (s : State)

theorem readSegment_answer : (readSegment r v s).1 = .ok
    (if r.key = Reg.RING_DATA then (ringRead r.off (slice v r.off r.q.limit).length (closeTransfer r s)).1 else slice v r.off r.q.limit,
      decide (v.length ≤ r.off + (slice v r.off r.q.limit).length)) := by
  unfold readSegment
  dsimp only
  split_ifs with hlast hring hring <;> simp [hlast]

theorem readSegment_last (h : v.length ≤ r.off + (slice v r.off r.q.limit).length) :
    (readSegment r v s).2.diale.opened = (closeTransfer r s).diale.opened := by
  unfold readSegment
  dsimp only
  rw [if_pos h]
  split_ifs
  · rw [diale_ringRead]
  · rw [diale_noteRead]

end

section
variable {s : State} {r : DReq} {row : DictRow}

theorem handleSegRead_opening (he : entryRow s r.idx r.sub = .ok row) (ha : canRead (row.acc r.q.cls) = true)
    (hr : readRefusal s r.key = none) (h0 : r.off = 0) (hfull : transfersFull s r = false) :
    handleSegRead r s = readSegment r (readValue s row r.idx r.sub) s := by
  simp [handleSegRead, he, ha, hr, h0, hfull]

theorem handleSegRead_next {t : Transfer} (he : entryRow s r.idx r.sub = .ok row) (ha : canRead (row.acc r.q.cls) = true)
    (hr : readRefusal s r.key = none) (h0 : r.off ≠ 0) (ht : transferOf s r = some t) (hread : t.isWrite = false) (hoff : t.off = r.off) :
    handleSegRead r s = if readValue s row r.idx r.sub ≠ t.buf then (.error 9, closeTransfer r s)
      else readSegment r (readValue s row r.idx r.sub) s := by
  simp [handleSegRead, he, ha, hr, h0, ht, hread, hoff]

theorem handleSegWrite_opening (he : entryRow s r.idx r.sub = .ok row) (ha : canWrite (row.acc r.q.cls) = true) (h0 : r.off = 0)
    (hl : r.last = false) (ho : openingRefusal r row s = none) :
    handleSegWrite r s = (.ok ([], false), openTransfer r true r.payload.length r.payload (reserveSpace r (closeTransfer r s))) := by
  simp [handleSegWrite, he, ha, h0, hl, ho]

theorem handleSegWrite_middle {t : Transfer} (he : entryRow s r.idx r.sub = .ok row) (ha : canWrite (row.acc r.q.cls) = true)
    (h0 : r.off ≠ 0) (ht : transferOf s r = some t) (hw : t.isWrite = true) (hoff : r.off = t.buf.length)
    (hfit : (t.buf ++ r.payload).length ≤ maxSize row) (hl : r.last = false) :
    handleSegWrite r s = (.ok ([], false), openTransfer r true (t.buf ++ r.payload).length (t.buf ++ r.payload) (dropTransfer r s)) := by
  have hb : ¬ (r.off ≠ t.buf.length ∨ maxSize row < (t.buf ++ r.payload).length) := by omega
  simp only [handleSegWrite, he, ha, h0, ht, hw, hb, hl, Bool.not_true, Bool.false_eq_true, if_false]

theorem handleSegWrite_last {t : Transfer} (he : entryRow s r.idx r.sub = .ok row) (ha : canWrite (row.acc r.q.cls) = true)
    (h0 : r.off ≠ 0) (ht : transferOf s r = some t) (hw : t.isWrite = true) (hoff : r.off = t.buf.length)
    (hfit : (t.buf ++ r.payload).length ≤ maxSize row) (hl : r.last = true)
    (hc : writeRefusal (closeTransfer r s) row r.key (t.buf ++ r.payload) true = none) :
    handleSegWrite r s = (.ok ([], true), applyValue row r.key (t.buf ++ r.payload) (closeTransfer r s)) := by
  have hb : ¬ (r.off ≠ t.buf.length ∨ maxSize row < (t.buf ++ r.payload).length) := by omega
  simp only [handleSegWrite, he, ha, h0, ht, hw, hb, hl, Bool.not_true, Bool.false_eq_true, if_false, if_true, finishWrite, hc]

theorem handleSegWrite_outOfOrder {t : Transfer} (he : entryRow s r.idx r.sub = .ok row) (ha : canWrite (row.acc r.q.cls) = true)
    (h0 : r.off ≠ 0) (ht : transferOf s r = some t) (hw : t.isWrite = true) (hoff : r.off ≠ t.buf.length) :
    handleSegWrite r s = (.error 0xA, closeTransfer r s) := by
  simp [handleSegWrite, he, ha, h0, ht, hw, hoff]

end

/-- Settles O13. -/
theorem segmentedTransfersServeAndApply : Obligations.SegmentedTransfersServeAndApply := by
  unfold Obligations.SegmentedTransfersServeAndApply
  constructor
  · intro q idx sub off s row r v hacc he ha hr part x
    have hproto : protoBad r = false := protoBad_of_op (by simp [r]) (by simp [r]) rfl rfl (Nat.zero_le _)
    have hexec (a : Answer) (t : State) (e : handleSegRead r s = (a, t)) : exec (.segmentedRead q idx sub off) s = .next (answered r a s t) :=
      congrArg _ (serve_eq hacc ((handle_segRead hproto rfl rfl).trans e) (isReset_of_op (by simp [r]) (by simp [r])))
    refine ⟨fun h0 hfull => hexec _ _ (handleSegRead_opening he ha hr h0 hfull), fun hring => ?_, fun hring => ?_,
      fun hlast => readSegment_last r v s hlast, fun t h0 ht hread hoff => ⟨fun hbuf => hexec _ _ ?_, fun hbuf => hexec _ _ ?_⟩⟩
    · exact (readSegment_answer r v s).trans (by rw [if_neg hring])
    · exact (readSegment_answer r v s).trans (by rw [if_pos hring])
    · rw [handleSegRead_next he ha hr h0 ht hread hoff, if_neg (by simpa using hbuf.symm)]
    · rw [handleSegRead_next he ha hr h0 ht hread hoff, if_pos fun h => hbuf h.symm]
  · intro q idx sub off last payload s row r s1 hacc hfit he ha hk
    have hproto : protoBad r = false := protoBad_of_op (by simp [r]) (by simp [r]) rfl rfl hfit
    have hexec (a : Answer) (t : State) (e : handleSegWrite r s = (a, t)) :
        exec (.segmentedWrite q idx sub off last payload) s = .next (answered r a s t) :=
      congrArg _ (serve_eq hacc ((handle_segWrite hproto rfl rfl).trans e) (isReset_of_key hk rfl))
    refine ⟨fun h0 hl ho => hexec _ _ (handleSegWrite_opening he ha h0 hl ho), fun t h0 ht hw => ⟨fun hoff hmax hl => hexec _ _ ?_,
      fun hoff hmax hl hc => hexec _ _ ?_, fun hoff => hexec _ _ ?_⟩⟩
    · exact handleSegWrite_middle he ha h0 ht hw hoff hmax hl
    · exact handleSegWrite_last he ha h0 ht hw hoff hmax hl hc
    · exact handleSegWrite_outOfOrder he ha h0 ht hw hoff

end Sys2Proof.Machine
end

section
/-! Staged values (R18, R460, R464, R530): what staging a number leaves, what its apply point puts in force, and what the copy in the boot
flash then holds. A map in canonical form lists a key once, so folding over it writes a key's value once. -/

namespace Sys2Proof.Machine

open Sys2Proof

/-! ## Folding over a canonical map -/

section
variable {α σ β : Type} {step : σ → Nat × α → σ} {read : σ → β} {k : Nat}

theorem read_foldl_of_absent (hother : ∀ m p, p.1 ≠ k → read (step m p) = read m) {l : SMap α} (hl : ∀ p ∈ l, p.1 ≠ k) (m : σ) :
    read (l.foldl step m) = read m := by
  induction l generalizing m with
  | nil => rfl
  | cons p l ih =>
    rw [List.foldl_cons, ih (fun q hq => hl q (List.mem_cons_of_mem _ hq)), hother m p (hl p List.mem_cons_self)]

theorem lt_of_mem_sascFrom {n : Nat} {l : SMap α} (hl : sascFrom n l = true) {p : Nat × α} (hp : p ∈ l) : n ≤ p.1 := by
  induction l generalizing n with
  | nil => cases hp
  | cons q l ih =>
    simp only [sascFrom, Bool.and_eq_true, decide_eq_true_eq] at hl
    rcases List.mem_cons.1 hp with rfl | hp
    · exact hl.1
    · exact (Nat.le_succ_of_le hl.1).trans (ih hl.2 hp)

theorem read_foldl_of_sasc {out : α → β} (hself : ∀ m v, read (step m (k, v)) = out v)
    (hother : ∀ m p, p.1 ≠ k → read (step m p) = read m) {n : Nat} {l : SMap α} (hl : sascFrom n l = true) {v : α}
    (hv : sfind k l = some v) (m : σ) : read (l.foldl step m) = out v := by
  induction l generalizing n m with
  | nil => cases hv
  | cons p l ih =>
    obtain ⟨j, w⟩ := p
    simp only [sascFrom, Bool.and_eq_true] at hl
    rw [List.foldl_cons]
    by_cases hj : k = j
    · subst hj
      have hw : w = v := by simpa [sfind] using hv
      have habsent : ∀ p ∈ l, p.1 ≠ k := fun p hp heq => by
        have := lt_of_mem_sascFrom hl.2 hp
        omega
      rw [read_foldl_of_absent hother habsent, hself, hw]
    · exact ih hl.2 (by simpa [sfind, hj] using hv) _

end

/-! ## Staging a number -/

theorem storeWrite_flash (s : State) : ∃ f, storeWrite s = { s with flash := f } := by
  unfold storeWrite
  dsimp only
  split_ifs <;> exact ⟨_, rfl⟩

/-- The numbers that a copy written now holds (R530). -/
def storedNumbers (s : State) : SMap Nat :=
  (s.regs ++ s.staged).foldl (fun (m : SMap Nat) (p : Nat × Nat) => if persists p.1 then sinsert p.1 p.2 m else m) []

/-- The copy written is the newest one: it replaces the older of the two and counts on from the newer. -/
theorem newestStore_storeWrite (s : State) : (newestStore (storeWrite s)).map (fun c => c.vals) = some (storedNumbers s) := by
  unfold storeWrite newestStore
  dsimp only
  cases s.flash.storeA with
  | none => cases s.flash.storeB <;> simp [storedNumbers]
  | some a =>
    cases s.flash.storeB with
    | none => simp [storedNumbers]
    | some b => grind [storedNumbers]

section
variable {k v : Nat} {s : State}

theorem stageNum_frame (k v : Nat) (s : State) : ∃ f, stageNum k v s = { s with staged := sinsert k v s.staged, flash := f } := by
  unfold stageNum
  dsimp only
  split
  · obtain ⟨f, hf⟩ := storeWrite_flash { s with staged := sinsert k v s.staged }
    exact ⟨f, hf⟩
  · exact ⟨s.flash, rfl⟩

@[simp] theorem regs_stageNum : (stageNum k v s).regs = s.regs := by
  obtain ⟨f, hf⟩ := stageNum_frame k v s
  rw [hf]

@[simp] theorem staged_stageNum : (stageNum k v s).staged = sinsert k v s.staged := by
  obtain ⟨f, hf⟩ := stageNum_frame k v s
  rw [hf]

theorem r_stageNum (j : Key) : (stageNum k v s).r j = s.r j := State.r_congr regs_stageNum j

theorem rStaged_stageNum_self : (stageNum k v s).rStaged k = v := by
  rw [State.rStaged, staged_stageNum, sfind_sinsert_self, Option.getD_some]

theorem rStaged_stageNum_of_ne {j : Key} (h : j ≠ k) : (stageNum k v s).rStaged j = s.rStaged j := by
  rw [State.rStaged, staged_stageNum, sfind_sinsert_of_ne h, r_stageNum, State.rStaged]

theorem flash_stageNum (h : persists k = false) : (stageNum k v s).flash = s.flash := by
  simp [stageNum, h]

theorem sasc_sinsert (hs : sasc s.staged = true) : sascFrom 0 (sinsert k v s.staged) = true :=
  sascFrom_sinsert k v s.staged 0 (Nat.zero_le k) hs

theorem r_applyStaged_stageNum (hs : sasc s.staged = true) : ((stageNum k v s).applyStaged fun j => decide (j = k)).r k = v := by
  have hstaged : (stageNum k v s).staged = sinsert k v s.staged := staged_stageNum
  unfold State.r State.applyStaged
  rw [hstaged]
  refine read_foldl_of_sasc (read := fun m => sget dictDefault m k) (out := id) (fun m w => ?_) (fun m p hp => ?_)
    (sasc_sinsert hs) (sfind_sinsert_self k v s.staged) _
  · simp
  · simp [hp]

theorem sfind_newestStore_stageNum (hs : sasc s.staged = true) (hp : persists k = true) :
    ((newestStore (stageNum k v s)).bind fun c => sfind k c.vals) = some v := by
  have hnew := newestStore_storeWrite { s with staged := sinsert k v s.staged }
  have hstage : stageNum k v s = storeWrite { s with staged := sinsert k v s.staged } := if_pos hp
  obtain ⟨c, hc, hvals⟩ := Option.map_eq_some_iff.1 hnew
  rw [hstage, hc, Option.bind_some, hvals, storedNumbers, List.foldl_append]
  refine read_foldl_of_sasc (read := sfind k) (out := some) (fun m w => ?_) (fun m p hp => ?_)
    (sasc_sinsert hs) (sfind_sinsert_self k v s.staged) _
  · simp [hp, sfind_sinsert_self]
  · split
    · exact sfind_sinsert_of_ne (Ne.symm hp) _ _
    · rfl

end

theorem applyValue_staged {row : DictRow} (hs : row.ty.size.isSome = true) (ha : appliesAtOnce row = false) (k : Key) (b : Bytes) (s : State) :
    applyValue row k b s = stageNum k (leVal b) s := by
  obtain ⟨w, hw⟩ := Option.isSome_iff_exists.1 hs
  simp [applyValue, hw, ha]

/-- Settles O24. -/
theorem stagedValuesWaitForTheirApplyPoint : Obligations.StagedValuesWaitForTheirApplyPoint := by
  unfold Obligations.StagedValuesWaitForTheirApplyPoint
  intro row k b s hs hsize happ
  rw [applyValue_staged hsize happ]
  exact ⟨rStaged_stageNum_self, r_stageNum, fun j hj => rStaged_stageNum_of_ne hj, r_applyStaged_stageNum hs.staged,
    sfind_newestStore_stageNum hs.staged, flash_stageNum⟩

end Sys2Proof.Machine
end

section
/-! The commands that write one entry: graph commands (R140 to R147), the collector (R423 to R430), the ring (R250 to R259), the time
commit, streams and displays (R327, R491, R497 to R513). Each is the write of a number or of a whole value, served by its law;
what it does is the law of the entry. -/

namespace Sys2Proof.Machine

open Sys2Proof

/-! ## What a permitted write of a number says of its value -/

theorem numRefusal_of_writeRefusal {s : State} {row : DictRow} {k n v : Nat} {own : Bool} (hsize : row.ty.size = some n)
    (hv : v < 256 ^ n) (h : writeRefusal s row k (leBytes n v) own = none) : numRefusal (asWritten k v s) s row k v = none := by
  simp only [writeRefusal, lengthOk, valueRefusal, hsize, leBytes_length, leVal_leBytes n v hv] at h
  split_ifs at h with hlen hbars
  · exact h

theorem refusal_of_permits {s : State} {q : Req} {row : DictRow} {k n v : Nat} (h : Permits s (numWrite q k n v) row)
    (hsize : row.ty.size = some n) (hv : v < 256 ^ n) : numRefusal (asWritten k v s) s row k v = none := by
  have hchecks := h.checks
  rw [numWrite_key, forWhole_of_op (r := numWrite q k n v) (by simp [numWrite])] at hchecks
  exact numRefusal_of_writeRefusal hsize hv hchecks

/-! ## Graph commands -/

theorem GRAPH_CMD_index : ∀ g : Fin 64, Reg.GRAPH_CMD g.val / 256 = 0x3013 := by decide

theorem GRAPH_CMD_subindex : ∀ g : Fin 64, Reg.GRAPH_CMD g.val % 256 - 1 = g.val := by decide

theorem GRAPH_CMD_ne_RESET_CMD : ∀ g : Fin 64, Reg.GRAPH_CMD g.val ≠ Reg.RESET_CMD := by decide

theorem graphCmdRefusal_of_permits {s : State} {q : Req} {row : DictRow} {g : Fin 64} {v : Nat}
    (h : Permits s (numWrite q (Reg.GRAPH_CMD g.val) 1 v) row) (hv : v < 256 ^ 1) : graphCmdRefusal s g.val v = none := by
  have hrow := row_of_entry h.entry (noHost_GRAPH_CMD g) (dictRow_GRAPH_CMD g)
  have hn := refusal_of_permits h (by rw [hrow]; rfl) hv
  rw [hrow] at hn
  simpa [numRefusal, numRefusalLow, GRAPH_CMD_index, GRAPH_CMD_subindex, within] using hn

theorem serve_GRAPH_CMD {s : State} {q : Req} {row : DictRow} {g : Fin 64} {v : Nat} (hv : v < 256 ^ 1)
    (ha : Accepts s (numWrite q (Reg.GRAPH_CMD g.val) 1 v)) (h : Permits s (numWrite q (Reg.GRAPH_CMD g.val) 1 v) row) :
    serve (numWrite q (Reg.GRAPH_CMD g.val) 1 v) [] s
      = answered (numWrite q (Reg.GRAPH_CMD g.val) 1 v) (.ok ([], false)) s (graphCmd g.val v s) := by
  rw [serve_numWrite ha h (by decide) (GRAPH_CMD_ne_RESET_CMD g), apply_GRAPH_CMD h.entry hv]

theorem r_modSlot (g : Nat) (f : GraphSlot → GraphSlot) (s : State) (k : Key) : (modSlot g f s).r k = s.r k := rfl

theorem GRAPH_STATE_activateGraph {s : State} {g : Nat} (h : (s.slot g).pkg.isSome = true) :
    (activateGraph g s).r (Reg.GRAPH_STATE g) = 2 := by
  obtain ⟨p, hp⟩ := Option.isSome_iff_exists.1 h
  simp only [activateGraph, hp, r_settleUnits, r_modSlot]
  rw [State.r_setR_of_ne _ (by grind), State.r_setR_of_ne _ (by grind), State.r_setR_of_ne _ (by grind), State.r_setR_self]

theorem GRAPH_STATE_freeGraph {s : State} {g : Nat} (h : (s.slot g).pkg.isSome = true) :
    (freeGraph g s).r (Reg.GRAPH_STATE g) = 1 := by
  obtain ⟨p, hp⟩ := Option.isSome_iff_exists.1 h
  simp only [freeGraph, hp, r_settleUnits, r_modSlot, State.r_setR_self]

theorem pkg_of_activateRefusal {s : State} {g : Nat} (h : activateRefusal s g = none) : (s.slot g).pkg.isSome = true := by
  unfold activateRefusal at h
  split at h
  · cases h
  · split at h
    · cases h
    next p hp => rw [hp]; rfl

theorem slot_setR (s : State) (k : Key) (v g : Nat) : (s.setR k v).slot g = s.slot g := rfl

theorem slot_unloadGraph (g : Nat) (s : State) : (unloadGraph g s).slot g = {} := by
  rw [unloadGraph, slot_setR, slot_setR, State.slot_setSlot_self]

/-- Settles O17. -/
theorem graphCommandsMoveTheSlot : Obligations.GraphCommandsMoveTheSlot := by
  unfold Obligations.GraphCommandsMoveTheSlot
  intro q g s row r
  refine ⟨fun ha hp => ⟨congrArg _ (serve_GRAPH_CMD (by decide) ha hp), ?_⟩,
    fun ha hp => ⟨fun hstate => ?_, fun hstate => ⟨?_, GRAPH_STATE_freeGraph⟩⟩,
    fun ha hp => ⟨congrArg _ (serve_GRAPH_CMD (by decide) ha hp), ?_, State.r_setR_self _ _ _, ?_⟩⟩
  · exact GRAPH_STATE_activateGraph (pkg_of_activateRefusal (graphCmdRefusal_of_permits hp (by decide)))
  · refine congrArg _ ((serve_GRAPH_CMD (by decide) ha hp).trans ?_)
    simp [graphCmd, hstate, r]
  · refine congrArg _ ((serve_GRAPH_CMD (by decide) ha hp).trans ?_)
    simp [graphCmd, hstate, r]
  · have hne : Reg.GRAPH_STATE g.val ≠ Reg.PKG_ID g.val := by grind
    exact (State.r_setR_of_ne _ hne _).trans (State.r_setR_self _ _ _)
  · exact slot_unloadGraph g.val s

end Sys2Proof.Machine
end

section
/-! The collector's writes with what hardware raises in the same beat (R423, R428 to R430), the ring's writes and readout (R250 to R259,
R450), and the writes of the time commit, streams and displays (R317, R327, R491, R497 to R513). -/

namespace Sys2Proof.Machine

open Sys2Proof

/-! ## The collector -/

/-- A permitted write of one number, with what hardware raises in its beat. -/
theorem serve_numWrite_raised {s : State} {q : Req} {k n v : Nat} {row : DictRow} (raised : List Nat) (a : Accepts s (numWrite q k n v))
    (h : Permits s (numWrite q k n v) row) (hn : n ≤ 40) (hk : k ≠ Reg.RESET_CMD) :
    serve (numWrite q k n v) raised s = answered (numWrite q k n v) (.ok ([], false)) s
      (raiseAll (raised.filter isFaultSource) (applyValue row k (leBytes n v) s)) := by
  rw [serve_of_accepts a, serveNew_raised raised (handle_numWrite h hn) (isReset_of_key (by simpa using hk) rfl)]

theorem PENDING_ne_RESET_CMD : ∀ i : Fin 2, Reg.PENDING i.val ≠ Reg.RESET_CMD := by decide

theorem dictRow_REACTION_count : dictRow 0x5002 0 = some ⟨0x5002, 0x5002, 0x00, 0x00, .u8, .r, .r, .r, 0x53, .live⟩ := by decide

/-- No class may write the count of the reactions, so a permitted write names a source. -/
theorem source_pos_of_permits {s : State} {q : Req} {row : DictRow} {source v : Nat}
    (h : Permits s (numWrite q (0x500200 + source) 1 v) row) : 0 < source := by
  refine Nat.pos_of_ne_zero fun h0 => ?_
  subst h0
  have hrow := row_of_entry (row := row) (s := s) (idx := 0x5002) (sub := 0) h.entry rfl dictRow_REACTION_count
  have hacc := h.access
  rw [hrow] at hacc
  simp [DictRow.acc, canWrite] at hacc

/-- Settles O19. -/
theorem collectorWrites : Obligations.CollectorWrites := by
  unfold Obligations.CollectorWrites
  intro q s row raised beat
  refine ⟨?_, ?_, ?_⟩
  · intro word v r ha hp
    rw [exec_pendingClear, serve_numWrite_raised raised ha hp (by decide) (PENDING_ne_RESET_CMD word), apply_PENDING hp.entry v.isLt]
  · intro r ha hp
    refine congrArg _ ((serve_numWrite_raised raised ha hp (by decide) (by decide)).trans ?_)
    rw [apply_LATCH_CLEAR hp.entry (by decide)]
  · intro source v r ha hp
    have hpos := source_pos_of_permits hp
    have hsource : source.toNat < 256 := source.isLt
    have hkey : Reg.REACTION (source.toNat - 1) = 0x500200 + source.toNat := by
      show (0x500200 + 1 + (source.toNat - 1) : Nat) = _
      omega
    refine congrArg _ ((serve_numWrite ha hp (by decide) ?_).trans ?_)
    · show (0x500200 + source.toNat : Nat) ≠ 0x103001
      omega
    · rw [apply_REACTION hsource hp.entry v.isLt, hkey]

/-! ## The ring -/

theorem ringBusy_congr {s t : State} (h : t.ring = s.ring) : ringBusy t = ringBusy s := by simp only [ringBusy, h]

theorem becomes_ringFreezeNow {s : State} (h : s.r Reg.RING_STATE = 0) :
    Becomes s (ringFreezeNow s) s [(Reg.RING_STATE, if ringBusy s then 1 else 2), (Reg.RING_FREEZE_TIME, s.t 0)] := by
  have hbusy : ringBusy ((s.setR Reg.RING_STATE 1).setR Reg.RING_FREEZE_TIME (s.t 0)) = ringBusy s := ringBusy_congr rfl
  have hstate : ((s.setR Reg.RING_STATE 1).setR Reg.RING_FREEZE_TIME (s.t 0)).r Reg.RING_STATE = 1 := by
    rw [State.r_setR_of_ne _ (by decide), State.r_setR_self]
  rw [ringFreezeNow, if_pos h, ringSettle, hstate, hbusy]
  cases ringBusy s with
  | true =>
    refine ⟨by simp [State.r_setR], fun k hk => ?_, rfl⟩
    simp only [List.mem_cons, List.not_mem_nil, or_false, forall_eq_or_imp, forall_eq] at hk
    simp [State.r_setR, hk.1, hk.2]
  | false =>
    refine ⟨by simp [State.r_setR], fun k hk => ?_, rfl⟩
    simp only [List.mem_cons, List.not_mem_nil, or_false, forall_eq_or_imp, forall_eq] at hk
    simp [State.r_setR, hk.1, hk.2]

theorem apply_RING_SIZE {s t : State} {row : DictRow} {v : Nat}
    (h : entryRow s (Reg.RING_SIZE / 256) (Reg.RING_SIZE % 256) = .ok row) (hv : v < 256 ^ 2) :
    applyValue row Reg.RING_SIZE (leBytes 2 v) t = stageNum Reg.RING_SIZE v t := by
  rw [row_of_entry h rfl dictRow_RING_SIZE, applyValue_staged rfl rfl, leVal_leBytes 2 v hv]

theorem persists_RING_SIZE : persists Reg.RING_SIZE = true := by
  unfold persists applyOf
  rw [dictRow_RING_SIZE]
  rfl

theorem dictRow_RING_DATA : dictRow 0x4024 1 = some ⟨0x4024, 0x4024, 0x01, 0x01, .dom 65536, .no, .r, .r, 0, .live⟩ := by decide

/-- Only a frozen ring is read (R259). -/
theorem frozen_of_ringReadable {s : State} {q : Req} (h : ringReadable s q = true) : s.r Reg.RING_STATE = 2 := by
  by_contra hstate
  have hbars : readRefusal s (ringSegment q 0).key = some 8 := by
    simp [readRefusal, ringSegment, DReq.key, Reg.RING_DATA, hstate]
  have hproto : protoBad (ringSegment q 0) = false := by simp [protoBad, ringSegment, within]
  have herror : ∃ c, (handle (ringSegment q 0) s).1 = .error c := by
    rw [handle_segRead hproto rfl rfl]
    unfold handleSegRead
    rw [hbars]
    split
    · exact ⟨_, rfl⟩
    · dsimp only
      split_ifs <;> simp [ringSegment] at *
  obtain ⟨c, hc⟩ := herror
  simp [ringReadable, hc] at h

theorem ringData_length (s : State) : (ringData s).length = 65536 := by
  simp only [ringData, State.memRead, List.length_append, List.length_map, List.length_range]
  omega

/-- Settles O22. -/
theorem ringWritesAndReadout : Obligations.RingWritesAndReadout := by
  unfold Obligations.RingWritesAndReadout
  refine ⟨fun q s row => ⟨?_, ?_, ?_, ?_⟩, fun q s hread => ⟨?_, fun row he => ⟨frozen_of_ringReadable hread, ?_⟩⟩⟩
  · intro r ha hp
    refine ⟨congrArg _ ((serve_numWrite ha hp (by decide) (by decide)).trans ?_), becomes_ringFreezeNow⟩
    rw [apply_RING_CMD hp.entry (by decide)]
    rfl
  · intro r ha hp
    refine congrArg _ ((serve_numWrite ha hp (by decide) (by decide)).trans ?_)
    rw [apply_RING_CMD hp.entry (by decide)]
    rfl
  · intro v r ha hp
    refine congrArg _ ((serve_numWrite ha hp (by decide) (by decide)).trans ?_)
    rw [apply_RING_CURSOR hp.entry v.isLt]
  · intro v r ha hp
    refine ⟨congrArg _ ((serve_numWrite ha hp (by decide) (by decide)).trans ?_), rStaged_stageNum_self, r_stageNum _,
      fun hs => sfind_newestStore_stageNum hs.staged persists_RING_SIZE⟩
    rw [apply_RING_SIZE hp.entry v.isLt]
  · simp [exec, execRingDataRead, hread]
  · rw [row_of_entry he rfl dictRow_RING_DATA]
    exact ringData_length s

/-! ## Time, streams and displays -/

/-- A commit is scheduled at a whole millisecond of T3, 100 µs ahead at least (R327). -/
theorem scheduleCommit_instant {s : State} (h : s.rooster.commitAt = none) :
    ∃ d, (scheduleCommit s).rooster.commitAt = some d ∧ d % 1000000 = 0 ∧ s.t3 + 100000 ≤ d ∧ d < s.t3 + 1100000 := by
  refine ⟨ceilDiv (s.t3 + 100000) 1000000 * 1000000, by simp [scheduleCommit, h], ?_⟩
  unfold ceilDiv
  omega

theorem DSP_ENABLE_ne_RESET_CMD (d : Nat) : Reg.DSP_ENABLE d ≠ Reg.RESET_CMD := by grind

theorem PLN_SOURCE_ne_RESET_CMD (d : Nat) : Reg.PLN_SOURCE d ≠ Reg.RESET_CMD := by grind

/-- Settles O23. -/
theorem timeStreamAndDisplayWrites : Obligations.TimeStreamAndDisplayWrites := by
  unfold Obligations.TimeStreamAndDisplayWrites
  refine ⟨fun q s row => ⟨?_, ?_, ?_⟩, fun q d p v s row => ⟨?_, ?_, ?_⟩⟩
  · intro r ha hp
    refine ⟨congrArg _ ((serve_numWrite ha hp (by decide) (by decide)).trans ?_), scheduleCommit_instant, fun h => if_pos h⟩
    rw [apply_TIME_COMMIT hp.entry (by decide)]
  · intro idx sub b r ha hp hk
    rw [wholeWrite_key] at hk ⊢
    exact congrArg _ (serve_wholeWrite ha hp hk)
  · intro n sub b r ha hp
    rw [wholeWrite_key]
    exact congrArg _ (serve_wholeWrite ha hp (by grind))
  · intro r ha hp
    refine congrArg _ ((serve_numWrite ha hp (by decide) (DSP_ENABLE_ne_RESET_CMD d)).trans ?_)
    rw [apply_DSP_ENABLE hp.entry v.isLt]
  · intro sub b r ha hp
    rw [wholeWrite_key]
    exact congrArg _ (serve_wholeWrite ha hp (by grind))
  · intro r ha hp
    refine congrArg _ ((serve_numWrite ha hp (by decide) (PLN_SOURCE_ne_RESET_CMD _)).trans ?_)
    rw [apply_PLN_SOURCE (i := ⟨4 * d.val + p.val, by omega⟩) hp.entry v.isLt]

end Sys2Proof.Machine
end

section
/-! The code of a burst (R242, R243). Multiplication by α runs through all 255 nonzero symbols, so two different places of a
codeword never scale a symbol alike and one wrong symbol is found in its place. -/

namespace Sys2Proof.Machine

open Sys2Proof

/-! ## Multiplication by powers of α -/

theorem gfShift_eq_iterate (n : Nat) (a : Byte) : gfShift n a = gfDouble^[n] a := by
  induction n generalizing a with
  | zero => rfl
  | succ n ih => exact ih _

theorem gfShift_gfDouble (n : Nat) (a : Byte) : gfShift n (gfDouble a) = gfDouble (gfShift n a) := by
  rw [gfShift_eq_iterate, gfShift_eq_iterate, ← Function.iterate_succ_apply, Function.iterate_succ_apply']

theorem gfDouble_xor (a b : Byte) : gfDouble (a ^^^ b) = gfDouble a ^^^ gfDouble b := by
  unfold gfDouble
  rw [BitVec.getLsbD_xor, BitVec.shiftLeft_xor_distrib]
  cases a.getLsbD 7 <;> cases b.getLsbD 7 <;> simp only [Bool.xor_self, Bool.xor_true, Bool.xor_false, Bool.not_false,
    Bool.false_eq_true, if_true, if_false]
  · ac_rfl
  · ac_rfl
  · rw [show a <<< 1 ^^^ 0x1D#8 ^^^ (b <<< 1 ^^^ 0x1D#8) = a <<< 1 ^^^ b <<< 1 ^^^ (0x1D#8 ^^^ 0x1D#8) by ac_rfl, BitVec.xor_self,
      BitVec.xor_zero]

theorem gfShift_xor (n : Nat) (a b : Byte) : gfShift n (a ^^^ b) = gfShift n a ^^^ gfShift n b := by
  induction n generalizing a b with
  | zero => rfl
  | succ n ih => rw [gfShift, gfDouble_xor, ih]; rfl

theorem eq_zero_of_gfShift {n : Nat} {a : Byte} (h : gfShift n a = 0#8) : a = 0#8 := by
  have hdouble : ∀ a : Byte, gfDouble a = 0#8 → a = 0#8 := by decide
  induction n generalizing a with
  | zero => exact h
  | succ n ih => exact hdouble a (ih h)

/-- A symbol is the sum of the powers of α that its bits name. -/
theorem eq_sum_of_bits : ∀ v : Byte,
    v = (List.range 8).foldl (fun x i => if v.getLsbD i then x ^^^ gfShift i 1#8 else x) 0#8 := by decide

/-- What holds of 0 and 1 and is kept by sums and by multiplication by α holds of every symbol. -/
theorem symbol_induction {P : Byte → Prop} (h0 : P 0#8) (h1 : P 1#8) (hdouble : ∀ a, P a → P (gfDouble a))
    (hsum : ∀ a b, P a → P b → P (a ^^^ b)) (v : Byte) : P v := by
  have hpow (i : Nat) : P (gfShift i 1#8) := by
    induction i with
    | zero => exact h1
    | succ i ih => rw [gfShift, gfShift_gfDouble]; exact hdouble _ ih
  rw [eq_sum_of_bits v]
  refine foldl_keeps (P := P) (fun x i hx => ?_) _ h0
  split
  · exact hsum _ _ hx (hpow i)
  · exact hx

theorem gfShift_zero_symbol (n : Nat) : gfShift n 0#8 = 0#8 := by
  simpa using gfShift_xor n 0#8 0#8

theorem gfShift_255 (v : Byte) : gfShift 255 v = v := by
  refine symbol_induction (P := fun v => gfShift 255 v = v) (gfShift_zero_symbol 255) (by decide +kernel) (fun a ha => ?_) (fun a b ha hb => ?_) v
  · rw [gfShift_gfDouble, ha]
  · rw [gfShift_xor, ha, hb]

/-- Where α^d + 1 is the power α^m, no nonzero symbol is fixed by α^d. -/
theorem gfShift_ne_self {d m : Nat} (h : gfShift d 1#8 ^^^ 1#8 = gfShift m 1#8) {v : Byte} (hv : v ≠ 0#8) : gfShift d v ≠ v := by
  have hall : gfShift d v ^^^ v = gfShift m v := by
    refine symbol_induction (P := fun v => gfShift d v ^^^ v = gfShift m v) ?_ h (fun a ha => ?_) (fun a b ha hb => ?_) v
    · simp [gfShift_zero_symbol]
    · rw [gfShift_gfDouble, gfShift_gfDouble, ← ha, gfDouble_xor]
    · rw [gfShift_xor, gfShift_xor, ← ha, ← hb]
      ac_rfl
  intro hfix
  rw [hfix, BitVec.xor_self] at hall
  exact hv (eq_zero_of_gfShift hall.symm)

/-- The period of multiplication by α divides 255 = 3·5·17 and none of its three largest divisors. -/
theorem minimalPeriod_gfDouble {v : Byte} (hv : v ≠ 0#8) : Function.minimalPeriod gfDouble v = 255 := by
  have hperiod {n : Nat} : Function.IsPeriodicPt gfDouble n v ↔ gfShift n v = v := by rw [gfShift_eq_iterate]; rfl
  have hdvd : Function.minimalPeriod gfDouble v ∣ 255 := (hperiod.2 (gfShift_255 v)).minimalPeriod_dvd
  have hnot {d m : Nat} (h : gfShift d 1#8 ^^^ 1#8 = gfShift m 1#8) : ¬ Function.minimalPeriod gfDouble v ∣ d := fun hd =>
    gfShift_ne_self h hv (hperiod.1 ((Function.isPeriodicPt_minimalPeriod gfDouble v).trans_dvd hd))
  have h15 := hnot (d := 15) (m := 33) (by decide +kernel)
  have h51 := hnot (d := 51) (m := 238) (by decide +kernel)
  have h85 := hnot (d := 85) (m := 170) (by decide +kernel)
  have hmem : Function.minimalPeriod gfDouble v ∈ Nat.divisors 255 := Nat.mem_divisors.2 ⟨hdvd, by decide⟩
  rw [show Nat.divisors 255 = {1, 3, 5, 15, 17, 51, 85, 255} by decide] at hmem
  simp only [Finset.mem_insert, Finset.mem_singleton] at hmem
  rcases hmem with h | h | h | h | h | h | h | h <;> rw [h] at h15 h51 h85 ⊢ <;> omega

theorem gfShift_injective {v : Byte} (hv : v ≠ 0#8) {a b : Nat} (ha : a < 255) (hb : b < 255) (h : gfShift a v = gfShift b v) : a = b := by
  rw [gfShift_eq_iterate, gfShift_eq_iterate] at h
  rwa [Function.iterate_eq_iterate_iff_of_lt_minimalPeriod] at h
  all_goals rwa [minimalPeriod_gfDouble hv]

/-! ## Decoding -/

theorem syndrome_single (j : Nat) (i : Fin 40) (v : Byte) : syndrome j [(i, v)] = gfShift (j * (39 - i.val)) v := by
  simp [syndrome]

theorem decodeBurst_nil : decodeBurst [] = .clean := by decide

theorem decodeBurst_single {i : Fin 40} {v : Byte} (hi : 4 ≤ i.val) (hv : v ≠ 0#8) : decodeBurst [(i, v)] = .corrected (i, v) := by
  have hfind : (List.finRange 40).find? (fun k => (List.range 4).all fun j =>
      decide (gfShift (j * (39 - i.val)) v = gfShift (j * (39 - k.val)) v)) = some i := by
    obtain ⟨k, hk⟩ : ∃ k, (List.finRange 40).find? (fun k => (List.range 4).all fun j =>
        decide (gfShift (j * (39 - i.val)) v = gfShift (j * (39 - k.val)) v)) = some k :=
      Option.isSome_iff_exists.1 (List.find?_isSome.2 ⟨i, List.mem_finRange i, by simp⟩)
    have hfits := List.find?_some hk
    have h1 : gfShift (39 - i.val) v = gfShift (39 - k.val) v := by
      simpa using of_decide_eq_true (List.all_eq_true.1 hfits 1 (by decide))
    have hsame := gfShift_injective hv (by omega) (by omega) h1
    rw [hk, show k = i from Fin.ext (by omega)]
  have h0 : gfShift (0 * (39 - i.val)) v = v := by rw [Nat.zero_mul]; rfl
  have hsmall : ¬ i.val < 4 := by omega
  simp only [decodeBurst, syndrome_single, h0, hv, false_and, if_false, hfind, hsmall, or_self]

theorem residual_nil : residual [] = [] := by
  simp [residual, decodeBurst_nil]

theorem mergeErr_nil : mergeErr [] [] = [] := by
  simp [mergeErr]

theorem residual_single {i : Fin 40} {v : Byte} (hi : 4 ≤ i.val) (hv : v ≠ 0#8) : residual [(i, v)] = [] := by
  simp only [residual, decodeBurst_single hi hv, mergeErr, List.filterMap_eq_nil_iff]
  intro k _
  by_cases hk : i = k <;> simp [hk]

end Sys2Proof.Machine
end

section
/-! Bursts of DRAM as commands meet them (R242 to R246, R249): what a read reports, what a scrub writes back, which bytes a partial write
stores; and reads of on-chip words (R204, R228, R229). -/

namespace Sys2Proof.Machine

open Sys2Proof

/-! ## Counting and reading a burst -/

@[simp] theorem mem_countRead (g : Option (Fin 64)) (cls : Nat) (s : State) : (countRead g cls s).mem = s.mem := by cases g <;> rfl

@[simp] theorem dramErr_countRead (g : Option (Fin 64)) (cls : Nat) (s : State) : (countRead g cls s).dramErr = s.dramErr := by
  cases g <;> rfl

@[simp] theorem burstErr_countRead (g : Option (Fin 64)) (cls : Nat) (s : State) (n : Nat) :
    (countRead g cls s).burstErr n = s.burstErr n := by
  simp only [State.burstErr, dramErr_countRead]

@[simp] theorem mem_countWrite (g : Option (Fin 64)) (cls : Nat) (s : State) : (countWrite g cls s).mem = s.mem := by cases g <;> rfl

/-- The state in which a read of burst `n` decodes it: what is found wrong is recorded (R243). -/
def burstFound (n : Nat) (err : BurstErr) (s : State) : State := s.setBurstErr n (mergeErr (s.burstErr n) err)

section
variable {n : Nat} {err : BurstErr} {s : State}

theorem readBurst_clean (h : decodeBurst (mergeErr (s.burstErr n) err) = .clean) : readBurst n err s = (.clean, burstFound n err s) := by
  simp only [readBurst, h, burstFound]

theorem readBurst_corrected {f : Fin 40 × Byte} (h : decodeBurst (mergeErr (s.burstErr n) err) = .corrected f) :
    readBurst n err s = (.corrected f, raise Src.DRAM_CORR (.channel (channelOf (32 * n)))
      ((burstFound n err s).bump (Reg.DRAM_CORR (channelOf (32 * n))))) := by
  simp only [readBurst, h, burstFound]

theorem readBurst_uncorrectable (h : decodeBurst (mergeErr (s.burstErr n) err) = .uncorrectable) :
    readBurst n err s = (.uncorrectable, raise Src.DRAM_UNCORR (burstIdent n)
      ((burstFound n err s).bump (Reg.DRAM_UNCORR (channelOf (32 * n))))) := by
  simp only [readBurst, h, burstFound, burstIdent]

theorem readBurst_outcome : (readBurst n err s).1 = decodeBurst (mergeErr (s.burstErr n) err) := by
  cases h : decodeBurst (mergeErr (s.burstErr n) err) with
  | clean => rw [readBurst_clean h]
  | corrected f => rw [readBurst_corrected h]
  | uncorrectable => rw [readBurst_uncorrectable h]

/-- A read changes the record of wrong symbols as found, and no byte. -/
theorem readBurst_stores : (readBurst n err s).2.mem = s.mem ∧ (readBurst n err s).2.dramErr = (burstFound n err s).dramErr := by
  have hraise {src : Nat} (hs : src < 256) (who : Ident) (k : Key) :
      (raise src who ((burstFound n err s).bump k)).mem = s.mem
        ∧ (raise src who ((burstFound n err s).bump k)).dramErr = (burstFound n err s).dramErr := by
    have h := reacts_raise (.refl ((burstFound n err s).bump k)) hs who
    exact ⟨h.mem, h.dramErr⟩
  cases h : decodeBurst (mergeErr (s.burstErr n) err) with
  | clean => rw [readBurst_clean h]; exact ⟨rfl, rfl⟩
  | corrected f => rw [readBurst_corrected h]; exact hraise (by decide) _ _
  | uncorrectable => rw [readBurst_uncorrectable h]; exact hraise (by decide) _ _

theorem memByte_readBurst (a : Nat) : (readBurst n err s).2.memByte a = s.memByte a := by
  simp only [State.memByte, readBurst_stores.1]

theorem burstErr_readBurst : (readBurst n err s).2.burstErr n = mergeErr (s.burstErr n) err := by
  simp only [State.burstErr, readBurst_stores.2]
  exact State.burstErr_setBurstErr_self s n _

end

/-! ## DRAM_READ and DRAM_SCRUB -/

section
variable {addr : Nat} {g : Option (Fin 64)} {cls : Fin 5} {err : BurstErr} {s : State}

theorem exec_dramRead (unit : Option UnitRef) (h : addr < s.capacity) : exec (.dramRead addr g cls unit err) s
    = .next (match (readBurst (addr / 32) err (countRead g cls.val s)).1, unit with
      | .uncorrectable, some u => replayCurrent u.id (burstIdent (addr / 32)) (readBurst (addr / 32) err (countRead g cls.val s)).2
      | _, _ => (readBurst (addr / 32) err (countRead g cls.val s)).2) := if_neg (by omega)

theorem exec_dramScrub {n : Nat} (h : 32 * n < s.capacity) : exec (.dramScrub n err) s
    = .next (match readBurst n err (countRead none 4 s) with
      | (.corrected f, s1) => s1.setBurstErr n (mergeErr (s1.burstErr n) [f])
      | (_, s1) => s1) := if_neg (by omega)

end

/-- Settles O33: each outcome of the decoding as the two commands meet it, and the code itself. -/
theorem dramReadsAndScrubs : Obligations.DramReadsAndScrubs := by
  unfold Obligations.DramReadsAndScrubs
  refine ⟨?_, decodeBurst_nil, fun i v hi hv => ⟨decodeBurst_single hi hv, residual_single hi hv⟩⟩
  intro addr g cls unit err s n e c d
  have hc : c = burstFound n err (countRead g cls.val s) := by simp only [c, e, burstFound, burstErr_countRead]
  have hd : d = burstFound n err (countRead none 4 s) := by simp only [d, e, burstFound, burstErr_countRead]
  have hec : mergeErr ((countRead g cls.val s).burstErr n) err = e := by rw [burstErr_countRead]
  have hed : mergeErr ((countRead none 4 s).burstErr n) err = e := by rw [burstErr_countRead]
  refine ⟨fun haddr => ?_, fun haddr => if_pos haddr, fun haddr => if_pos haddr, mem_countRead _ _ _, mem_countRead _ _ _,
    fun j hj => (State.burstErr_setBurstErr_of_ne _ _ hj).trans (burstErr_countRead _ _ _ _)⟩
  have hn : 32 * n < s.capacity := by
    have := Nat.mul_div_le addr 32
    omega
  rw [exec_dramRead unit haddr, exec_dramScrub hn, hc, hd]
  refine ⟨fun he => ?_, fun f he => ?_, fun he => ?_⟩
  · rw [readBurst_clean (hec ▸ he), readBurst_clean (hed ▸ he)]
    exact ⟨rfl, rfl⟩
  · have hfound := burstErr_readBurst (n := n) (err := err) (s := countRead none 4 s)
    rw [readBurst_corrected (hed ▸ he), hed] at hfound
    rw [readBurst_corrected (hec ▸ he), readBurst_corrected (hed ▸ he)]
    dsimp only at hfound ⊢
    rw [hfound]
    exact ⟨rfl, _, rfl, rfl⟩
  · rw [readBurst_uncorrectable (hec ▸ he), readBurst_uncorrectable (hed ▸ he)]
    cases unit <;> simp [burstIdent, n]

/-! ## DRAM_PARTIAL_WRITE -/

/-- What the controller delivers of a burst without a remaining error is what is stored. -/
theorem deliveredBytes_of_residual_nil {s : State} {n : Nat} (h : residual (s.burstErr n) = []) : deliveredBytes s n = s.memRead (32 * n) 32 := by
  simp only [deliveredBytes, h, List.foldl_nil, List.zipIdx_map_fst]

theorem deliveredBytes_length (s : State) (n : Nat) : (deliveredBytes s n).length = 32 := by
  simp [deliveredBytes, State.memRead]

section
variable {old new : Bytes} {off : Nat}

theorem overlay_length (h : off + new.length ≤ old.length) : (overlay old off new).length = old.length := by
  simp only [overlay, List.length_append, List.length_take, List.length_drop]
  omega

theorem overlay_inside {i : Nat} (h : off + new.length ≤ old.length) (hi : i < new.length) :
    (overlay old off new)[off + i]? = some new[i] := by
  have htake : (old.take off).length = off := by rw [List.length_take]; omega
  rw [overlay, List.append_assoc, List.getElem?_append_right (by omega), htake, Nat.add_sub_cancel_left, List.getElem?_append_left hi,
    List.getElem?_eq_getElem hi]

theorem overlay_outside {i : Nat} (h : off + new.length ≤ old.length) (hi : i < off ∨ off + new.length ≤ i) :
    (overlay old off new)[i]? = old[i]? := by
  have htake : (old.take off).length = off := by rw [List.length_take]; omega
  rw [overlay, List.append_assoc]
  rcases hi with hi | hi
  · rw [List.getElem?_append_left (by omega), List.getElem?_take_of_lt hi]
  · rw [List.getElem?_append_right (by omega), htake, List.getElem?_append_right (by omega), List.getElem?_drop]
    congr 1
    omega

end

/-- A store read byte by byte: the stored byte, or what stood there. -/
theorem memByte_memWrite_getD (s : State) (a : Nat) (bs : Bytes) (i : Nat) {b : Byte} (h : bs[i]? = some b) :
    (s.memWrite a bs).memByte (a + i) = b := by
  obtain ⟨hi, hb⟩ := List.getElem?_eq_some_iff.1 h
  rw [State.memByte_memWrite_inside bs s a i hi, hb]

theorem memRead_getElem? (s : State) (a n : Nat) {i : Nat} (h : i < n) : (s.memRead a n)[i]? = some (s.memByte (a + i)) := by
  simp [State.memRead, List.getElem?_range h]

theorem memByte_congr {s t : State} (h : t.mem = s.mem) (a : Nat) : t.memByte a = s.memByte a := by simp only [State.memByte, h]

/-- How a write of part of a burst ends: nothing to write, a whole burst, an uncorrectable burst, or a read-modify-write (R244). -/
inductive WritesBurst (addr : Nat) (b : Bytes) (err : BurstErr) (s t : State) : Prop where
  | nothing (h : b = []) (same : t = s)
  | whole (h : b.length = 32) (aligned : addr % 32 = 0) (mem : t.mem = (s.memWrite addr b).mem) (clean : t.burstErr (addr / 32) = [])
  | lost (h : b.length < 32) (found : decodeBurst (mergeErr (s.burstErr (addr / 32)) err) = .uncorrectable) (mem : t.mem = s.mem)
  | part (h : b.length < 32) (nonempty : b ≠ []) (found : decodeBurst (mergeErr (s.burstErr (addr / 32)) err) ≠ .uncorrectable)
      (old : Bytes) (len : old.length = 32)
      (kept : mergeErr (s.burstErr (addr / 32)) err = [] → old = s.memRead (32 * (addr / 32)) 32)
      (mem : t.mem = (s.memWrite (32 * (addr / 32)) (overlay old (addr % 32) b)).mem) (clean : t.burstErr (addr / 32) = [])

theorem writesBurst_writeBurst {addr : Nat} {b : Bytes} (hfit : addr % 32 + b.length ≤ 32) (g : Option (Fin 64)) (cls : Nat) (err : BurstErr)
    (s : State) : WritesBurst addr b err s (writeBurst addr b g cls err s) := by
  unfold writeBurst
  dsimp only
  split_ifs with hnil hwhole
  · exact .nothing hnil rfl
  · refine .whole hwhole.2 hwhole.1 ?_ (State.burstErr_setBurstErr_self _ _ _)
    simp [State.memWrite]
  · have hpos : 0 < b.length := List.length_pos_of_ne_nil hnil
    have hlen : b.length < 32 := by omega
    have hout := readBurst_outcome (n := addr / 32) (err := err) (s := countRead g cls s)
    have hmem := (readBurst_stores (n := addr / 32) (err := err) (s := countRead g cls s)).1
    have herr := burstErr_readBurst (n := addr / 32) (err := err) (s := countRead g cls s)
    rw [burstErr_countRead] at hout herr
    rw [mem_countRead] at hmem
    split
    next s1 heq =>
      rw [heq] at hout hmem
      exact .lost hlen hout.symm hmem
    next o s1 ho heq =>
      rw [heq] at hout hmem herr
      refine .part hlen hnil (fun hun => ho (hout.trans hun)) (deliveredBytes s1 (addr / 32)) (deliveredBytes_length _ _)
        (fun hclean => ?_) ?_ (State.burstErr_setBurstErr_self _ _ _)
      · rw [deliveredBytes_of_residual_nil (by rw [herr, hclean, residual_nil])]
        exact List.map_congr_left fun i _ => memByte_congr hmem _
      · have hs1 : s1.mem = s.mem := hmem
        simp [State.memWrite, hs1]

/-- Settles O34, by the four ways in which a write of part of a burst ends. -/
theorem partialWritesStoreTheirBytes : Obligations.PartialWritesStoreTheirBytes := by
  unfold Obligations.PartialWritesStoreTheirBytes
  intro addr bytes g cls err s n b e
  refine ⟨fun haddr => ⟨_, if_neg (by omega), ?_⟩, fun haddr => if_pos haddr⟩
  have hb : b.length ≤ 32 - addr % 32 := List.length_take_le _ _
  have hdm : 32 * n + addr % 32 = addr := Nat.div_add_mod addr 32
  have hmod : addr % 32 < 32 := Nat.mod_lt _ (by decide)
  have hw := writesBurst_writeBurst (addr := addr) (b := b) (by omega) g cls.val err s
  cases hw with
  | nothing h same =>
    rw [same]
    have hlen : b.length = 0 := by rw [h]; rfl
    exact ⟨fun _ _ => rfl, fun _ => ⟨fun i hi => by omega, fun hne => absurd h hne⟩, fun _ _ _ => rfl, fun _ _ _ => rfl⟩
  | whole h aligned mem clean =>
    have hout (a : Nat) (ha : a < addr ∨ addr + b.length ≤ a) : (writeBurst addr b g cls.val err s).memByte a = s.memByte a := by
      rw [memByte_congr mem, State.memByte_memWrite_of_outside s b ha]
    refine ⟨fun a ha => hout a (by omega), fun _ => ⟨fun i hi => ?_, fun _ => clean⟩, fun _ a ha => hout a ha, fun hlt => by omega⟩
    rw [memByte_congr mem, State.memByte_memWrite_inside b s addr i hi]
  | lost h found mem =>
    have hsame (a : Nat) : (writeBurst addr b g cls.val err s).memByte a = s.memByte a := memByte_congr mem a
    exact ⟨fun a _ => hsame a, fun hgood => hgood.elim (fun h32 => by omega) (fun hne => absurd found hne), fun _ a _ => hsame a,
      fun _ _ a => hsame a⟩
  | part h nonempty found old len kept mem clean =>
    have hfit : addr % 32 + b.length ≤ old.length := by omega
    have hlen : (overlay old (addr % 32) b).length = 32 := (overlay_length hfit).trans len
    have hout (a : Nat) (ha : a < 32 * n ∨ 32 * n + 32 ≤ a) : (writeBurst addr b g cls.val err s).memByte a = s.memByte a := by
      rw [memByte_congr mem, State.memByte_memWrite_of_outside s _ (by omega)]
    refine ⟨hout, fun _ => ⟨fun i hi => ?_, fun _ => clean⟩, fun hclean a ha => ?_, fun _ hun => absurd hun found⟩
    · rw [memByte_congr mem, show addr + i = 32 * n + (addr % 32 + i) by omega]
      exact memByte_memWrite_getD s _ _ _ (overlay_inside hfit hi)
    · by_cases hin : a < 32 * n ∨ 32 * n + 32 ≤ a
      · exact hout a hin
      · have hold := kept (hclean.resolve_left (by omega))
        obtain ⟨i, rfl⟩ : ∃ i, a = 32 * n + i := ⟨a - 32 * n, by omega⟩
        rw [memByte_congr mem]
        refine memByte_memWrite_getD s _ _ _ ?_
        rw [overlay_outside hfit (by omega), hold, memRead_getElem? s _ _ (by omega)]

/-! ## On-chip words -/

/-- Settles O37. -/
theorem onchipReadsComplete : Obligations.OnchipReadsComplete := by
  unfold Obligations.OnchipReadsComplete
  intro b row word reader use o s
  refine ⟨rfl, rfl, fun hpower hclean => ⟨?_, s.nextFree.setSramErr (wordKey b.val row.val word.val) 0, ?_,
    State.sramErr_setSramErr_self _ _ _, rfl⟩⟩
  · simp [exec, execScratchpadRead, hpower, wordVerdict, hclean, secDed]
  · simp [exec, execScratchpadRead, hpower, wordVerdict, hclean, secDed]

end Sys2Proof.Machine
end

section
/-! Reads of a region cache and its scrub (R225, R229, R231, R245): one law per branch of `accessCached`, `readSector`, `readTag`,
`scrubSector` and `scrubTag`. -/

namespace Sys2Proof.Machine

open Sys2Proof

/-! ## Cached or not (R225) -/

theorem accessCached_unallocated {s : State} {r a : Nat} (h : ∀ x ∈ s.space, a < x.base ∨ x.base + x.size ≤ a) : accessCached s r a = true := by
  have hfind : s.space.find? (fun x => decide (x.base ≤ a) && decide (a < x.base + x.size)) = none := by
    rw [List.find?_eq_none]
    intro x hx
    have := h x hx
    simp only [Bool.and_eq_true, decide_eq_true_eq]
    omega
  simp only [accessCached, hfind]

theorem accessCached_tensor {s : State} {r a k st : Nat} {x : Space} {p : Package} {q : Station}
    (hfind : s.space.find? (fun x => decide (x.base ≤ a) && decide (a < x.base + x.size)) = some x) (howner : x.owner = .tensor k st)
    (hp : (s.slot k).pkg = some p) (hq : stationOf s k st = some q) : accessCached s r a = readsCached p q r := by
  simp only [accessCached, hfind, howner, hp, hq]

/-! ## A sector that the cache holds -/

section
variable {s : State} {r a w i : Nat} {l : CacheLine}

theorem nth_of_getElem? {α : Type} {d x : α} {xs : List α} {n : Nat} (h : xs[n]? = some x) : nth d xs n = x := by
  simp [nth, h]

theorem allocWay_of_hit (g : Nat) (h : (s.set (setKey r a)).findIdx? (fun l => l.has a) = some w) : allocWay r g a s = (w, s) := by
  simp only [allocWay, h]

/-- A valid sector that is not poisoned, of the line that holds `a`. -/
structure SectorHeld (s : State) (r a w i : Nat) (l : CacheLine) : Prop where
  line : (s.set (setKey r a))[w]? = some l
  way : (s.set (setKey r a)).findIdx? (fun l => l.has a) = some w
  valid : nth false l.valid i = true
  sound : nth false l.poison i = false

theorem readSector_of_held (h : SectorHeld s r a w i l) (g : Fin 64) {err : ReadErr} (hv : secDed s err ≠ 2) :
    readSector r (setKey r a) w a i g err s
      = if secDed s err = 1 then raise Src.RC_CORR (.cache r) (s.bump (Reg.RC_HITS r)) else s.bump (Reg.RC_HITS r) := by
  simp only [readSector, nth_of_getElem? h.line, h.valid, h.sound, hv, Bool.not_true, Bool.false_eq_true, if_false]

theorem readTag_eq (h : SectorHeld s r a w i l) (tag : ReadErr) : readTag r a tag s
    = if secDed s tag = 1 then raise Src.RC_CORR (.cache r) s
      else if secDed s tag = 2 then raise Src.RC_UNCORR (.cache r) (modLine (setKey r a) w (fun _ => emptyLine) s) else s := by
  obtain ⟨hlt, -⟩ := List.getElem?_eq_some_iff.1 h.line
  simp only [readTag, tagWay, h.way, hlt, if_true]

theorem scrubSector_of_held (h : SectorHeld s r a w (a / 32 % 4) l) {v : Nat} (hv : v ≠ 0) : scrubSector r a v s
    = if v = 1 then raise Src.RC_CORR (.cache r) s
      else if nth false l.dirty (a / 32 % 4) then raise Src.RC_UNCORR (.cache r)
        (modLine (setKey r a) w (fun l => { l with poison := setAt false (a / 32 % 4) true l.poison }) s)
      else raise Src.RC_CORR (.cache r) (fetchSector r (setKey r a) w a (a / 32 % 4) (Fin.ofNat 64 (l.slot - 1)) s) := by
  simp [scrubSector, h.way, nth_of_getElem? h.line, h.valid, h.sound, hv]

theorem scrubSector_of_clean : scrubSector r a 0 s = s := by
  unfold scrubSector
  dsimp only
  split
  · rfl
  · rw [if_pos (.inl rfl)]

end

/-! ## Scrubs as commands -/

theorem exec_onchipScrub_regionData (r : Fin 4) (a : Nat) (e : ReadErr) (s : State) :
    exec (.onchipScrub (.regionData r a) e) s = .next (scrubSector r.val a (secDed s e) s).nextFree := rfl

theorem exec_onchipScrub_regionTag (r : Fin 4) (set way : Nat) (e : ReadErr) (s : State) :
    exec (.onchipScrub (.regionTag r set way) e) s = .next (scrubTag r.val set way (secDed s e) s).nextFree := rfl

/-- Settles O36. -/
theorem regionCacheReads : Obligations.RegionCacheReads := by
  unfold Obligations.RegionCacheReads
  intro r g addr sectors unit err tag s
  refine ⟨fun haddr => ?_, fun haddr => if_pos haddr, accessCached_unallocated, fun x k st p q hfind howner hp hq => ?_,
    fun w i l hline _ hway hvalid hsound => ?_, fun set way e => ?_⟩
  · intro c s1
    have hexec : exec (.regionCacheRead r g addr sectors unit err tag) s = .next (match lostSector s1 r.val addr c sectors, unit with
        | some n, some u => replayCurrent u.id (burstIdent n) s1
        | _, _ => s1) := if_neg (by omega)
    refine ⟨fun h => ?_, fun u n hu hn => ?_⟩
    · rw [hexec]
      rcases h with h | h
      · rw [h]
        cases lostSector s1 r.val addr c sectors <;> rfl
      · rw [h]
    · rw [hexec, hu, hn]
      rfl
  · rw [accessCached_tensor hfind howner hp hq]
    refine ⟨fun hcross => ?_, fun hcross hkind => ?_⟩
    · simp [readsCached, hcross]
    · simp [readsCached, hcross, hkind]
  · have h : SectorHeld s r.val addr w i l := ⟨hline, hway, hvalid, hsound⟩
    refine ⟨allocWay_of_hit g.val hway, ?_, ?_, ?_, ?_, ?_, fun hi e => ?_⟩
    · simpa [secDed] using readSector_of_held h g (err := .none) (by simp [secDed])
    · simpa [secDed] using readSector_of_held h g (err := .single) (by simp [secDed])
    · simpa [secDed] using readTag_eq h .none
    · simpa [secDed] using readTag_eq h .single
    · simpa [secDed] using readTag_eq h .double
    · subst hi
      rw [exec_onchipScrub_regionData]
      refine ⟨fun hv => ?_, fun hv hdirty => ?_, fun hv hdirty => ?_⟩
      · rw [hv, scrubSector_of_held h (by decide), if_pos rfl]
      · rw [hv, scrubSector_of_held h (by decide), if_neg (by decide), if_pos hdirty]
      · rw [hv, scrubSector_of_held h (by decide), if_neg (by decide), if_neg (by simp [hdirty])]
  · intro k
    rw [exec_onchipScrub_regionData, exec_onchipScrub_regionTag]
    refine ⟨fun hv => ?_, fun hway hv => ?_, fun hway hlen hv => ?_⟩
    · rw [hv, scrubSector_of_clean]
      exact ⟨rfl, rfl⟩
    · rw [hv, scrubTag, if_neg (by omega), if_pos rfl]
    · rw [hv, scrubTag, if_neg (by omega), if_neg (by decide), if_pos hlen]

end Sys2Proof.Machine
end

section
/-! The supervisor trio, the control pairs and the timers of the safety island (R381 to R389, R424, R439, R522). -/

namespace Sys2Proof.Machine

open Sys2Proof

/-! ## The supervisor trio and the control pairs -/

section
variable {s : State} (h : s.sys.handover = false)
include h

theorem exec_vote_differ (t0 t1 t2 : Option Nat) :
    exec (.vote t0 t1 t2 true) s = .next (handover (raise Src.VOTER_CHECK .none s)) := by
  simp [exec, execVote, h]

theorem exec_vote_same (t0 t1 t2 : Option Nat) :
    exec (.vote t0 t1 t2 false) s = .next (voteOn (fun n => if n = 0 then t0 else if n = 1 then t1 else t2) s) := by
  simp [exec, execVote, h]

variable {a b c : Nat}

theorem exec_vote_agree (hr : s.sup.resync = none) :
    exec (.vote (some a) (some a) (some a) false) s = .next (issueTransaction a s) := by
  simp [exec_vote_same h, voteOn, hr]

theorem exec_vote_two (hr : s.sup.resync = none) (hab : a ≠ b) :
    exec (.vote (some a) (some a) (some b) false) s = .next (dissent 2 (issueTransaction a s))
    ∧ exec (.vote (some a) (some b) (some a) false) s = .next (dissent 1 (issueTransaction a s))
    ∧ exec (.vote (some b) (some a) (some a) false) s = .next (dissent 0 (issueTransaction a s)) := by
  simp [exec_vote_same h, voteOn, hr, hab, hab.symm]

theorem exec_vote_none_equal (hr : s.sup.resync = none) (hab : a ≠ b) (hca : c ≠ a) (hcb : c ≠ b) :
    exec (.vote (some a) (some b) (some c) false) s = .next (handover s) := by
  simp [exec_vote_same h, voteOn, hr, hab, hca.symm, hcb.symm]

theorem exec_vote_awaited (hr : s.sup.resync = none) :
    exec (.vote (some a) (some a) none false) s = .next (awaitCore 2 true (sfind 2 s.sup.dissentAt) (issueTransaction a s))
    ∧ exec (.vote (some a) none (some a) false) s = .next (awaitCore 1 true (sfind 1 s.sup.dissentAt) (issueTransaction a s))
    ∧ exec (.vote none (some a) (some a) false) s = .next (awaitCore 0 true (sfind 0 s.sup.dissentAt) (issueTransaction a s)) := by
  simp [exec_vote_same h, voteOn, hr]

theorem exec_vote_resync (hr : s.sup.resync = some 2) :
    exec (.vote (some a) (some a) none false) s = .next (issueTransaction a s)
    ∧ (a ≠ b → exec (.vote (some a) (some b) none false) s = .next (handover s)) := by
  simp +contextual [exec_vote_same h, voteOn, hr]

theorem exec_dissentTimeout {core : Fin 3} {d : Nat} (hd : sfind core.val s.sup.dissentAt = some d) :
    exec (.dissentTimeout core) s = .next (if s.t3 < d then s
      else
        let t := dissent core.val { s with sup := { s.sup with dissentAt := [] } }
        if (sfind (3 + core.val) s.sup.dissentAt).isSome then handover t else t) := by
  simp [exec, execDissentTimeout, hd, h]

end

theorem exec_ctrlWindowCompare_equal (p : Fin 4) (a : BitVec 64) (stores : List (Nat × Byte)) (s : State) :
    ∃ t, exec (.ctrlWindowCompare p a a stores) s = .next t
      ∧ t.sup.ctrlMem = ((sfind p.val s.sup.heldStores).getD [] ++ stores).foldl (fun m x => sset (fun _ => 0#8) m x.1 x.2) s.sup.ctrlMem
      ∧ sfind p.val t.sup.heldStores = none ∧ sfind p.val t.sup.rollback = none
      ∧ (∀ k, k ≠ p.val → sfind k t.sup.heldStores = sfind k s.sup.heldStores) ∧ { t with sup := s.sup } = s :=
  ⟨_, congrArg Host.Outcome.next (if_pos rfl), rfl, sfind_sdel_self _ _, sfind_sdel_self _ _, fun _ hk => sfind_sdel_of_ne hk _, rfl⟩

theorem rollbackPair_effect (p : Nat) (s : State) :
    (rollbackPair p s).sup.ctrlMem = s.sup.ctrlMem ∧ sfind p (rollbackPair p s).sup.heldStores = none
    ∧ (rollbackPair p s).r (Reg.CTRL_MISMATCHES p) = s.oneMore (Reg.CTRL_MISMATCHES p) :=
  ⟨rfl, sfind_sdel_self _ _, State.r_setR_self _ _ _⟩

/-- `Becomes` looks at the numbers of the state it starts from only. -/
theorem Becomes.of_regs {s s' t u : State} {l : List (Key × Nat)} (h : Becomes s' t u l) (hr : s'.regs = s.regs) : Becomes s t u l :=
  ⟨h.values, fun k hk => (h.others k hk).trans (by rw [State.r, hr]; rfl), h.rest⟩

theorem exec_resyncComplete {s : State} (h : s.sup.resync.isSome = true) :
    ∃ t, exec .resyncComplete s = .next t
      ∧ Becomes s t { s with sup := { s.sup with resync := none } } [(Reg.RESYNCS, s.oneMore Reg.RESYNCS)] :=
  ⟨_, congrArg Host.Outcome.next (if_pos h), (Becomes.bump _ _).of_regs rfl⟩

/-- Settles O44, by the vote's cases, then one law for each of the other three commands. -/
theorem supervisorAndControlPairs : Obligations.SupervisorAndControlPairs := by
  unfold Obligations.SupervisorAndControlPairs
  refine ⟨fun a b s h => ⟨exec_vote_differ h _ _ _, fun hr => ⟨exec_vote_agree h hr, fun hab => ?_, exec_vote_awaited h hr⟩,
    exec_vote_resync h, rfl, rfl, rfl, rfl, rfl⟩, fun p a b stores core s => ⟨exec_ctrlWindowCompare_equal p a stores s,
    fun hab => congrArg Host.Outcome.next (if_neg hab), rollbackPair_effect p.val s, ?_, exec_resyncComplete, fun h => ?_⟩⟩
  · obtain ⟨h2, h1, h0⟩ := exec_vote_two h hr hab
    exact ⟨h2, h1, h0, fun c => exec_vote_none_equal h hr hab⟩
  · intro d h hd
    rw [exec_dissentTimeout h hd]
    exact ⟨fun hlt => by rw [if_pos hlt], fun hle hn => by simp [Nat.not_lt.2 hle, hn], fun hle hs => by simp [Nat.not_lt.2 hle, hs]⟩
  · simp [exec, execResyncComplete, h]

/-! ## Fuses and timers -/

theorem exec_healthFuseWriteDone {s : State} (h1 : s.aon.health1 = true) (h2 : s.fuses.health2 = false) :
    exec .healthFuseWriteDone s = .next { s with fuses := { s.fuses with health2 := true, drainCause := s.aon.drainCause }
                                                 aon := { s.aon with health1 := false, drainCause := 0 } } := by
  simp [exec, execHealthFuseWriteDone, blowHealth, h1, h2]

theorem exec_keyValidFuseBlown {s : State} (h : s.sys.enrolling = true) :
    exec .keyValidFuseBlown s = .next { s with
      fuses := { (if s.fuses.bank1.used then { s.fuses with bank1 := { s.fuses.bank1 with valid := true } }
          else { s.fuses with bank0 := { s.fuses.bank0 with valid := true } }) with lifecycle := max 2 s.fuses.lifecycle }
      sys := { s.sys with enrolling := false } } := by
  cases hu : s.fuses.bank1.used <;> simp [exec, execKeyValidFuseBlown, h, hu]

/-- A warm reset keeps the value of an entry that R516 keeps and that does not tell the resets themselves. -/
theorem r_warmReset_of_survives {k : Key} (hk : survivesWarm k = true) (hs : k ≠ Reg.RING_STATE) (hr : k ≠ Reg.RESET_KIND) (kind : Nat)
    (hc : k ≠ 0x800100 + kind - 1) (b : BootInputs) (s : State) : (warmReset kind b s).r k = s.r k := by
  rw [warmReset, State.r_bump_of_ne _ hc, State.r_setR_of_ne _ hr, State.r_setR_of_ne _ hs]
  change (sfind k (s.regs.filter _)).getD _ = _
  rw [sfind_filter, if_pos hk]
  rfl

theorem r_RESET_KIND_warmReset {kind : Nat} (hk : Reg.RESET_KIND ≠ 0x800100 + kind - 1) (b : BootInputs) (s : State) :
    (warmReset kind b s).r Reg.RESET_KIND = kind := by
  rw [warmReset, State.r_bump_of_ne _ hk, State.r_setR_self]

theorem exec_suspectTimerExpiry {u : UnitRef} {s : State} {d : Nat} (hu : u.id < 40) (hd : sfind u.id s.aon.suspect = some d) :
    exec (.suspectTimerExpiry u) s = .next (if d ≤ s.t3 then { s with aon := { s.aon with suspect := sdel u.id s.aon.suspect } } else s) := by
  simp [exec, execSuspectTimerExpiry, hd, hu]

/-- Settles O45. -/
theorem fusesAndTimersAdvance : Obligations.FusesAndTimersAdvance := by
  unfold Obligations.FusesAndTimersAdvance
  refine fun b u s => ⟨fun h1 h2 => ⟨_, exec_healthFuseWriteDone h1 h2, rfl, rfl, rfl, rfl, rfl⟩,
    fun h => ⟨_, exec_keyValidFuseBlown h, ?_, fun hu => ?_, fun hu => ?_, rfl, rfl⟩, fun h => ?_,
    fun h => ⟨_, congrArg Host.Outcome.next (if_pos h), ?_, rfl, rfl, rfl, rfl, rfl, rfl, ?_⟩, fun h => ?_, fun d hu hd => ?_⟩
  · rfl
  · simp [hu]
  · simp [hu]
  · simp [exec, execKeyValidFuseBlown, h]
  · exact r_RESET_KIND_warmReset (by decide) b s
  · exact r_warmReset_of_survives (by decide) (by decide) (by decide) 4 (by decide) b s
  · simp [exec, execFaultReset, h]
  · rw [exec_suspectTimerExpiry hu hd]
    exact ⟨fun hlt => by rw [if_neg (Nat.not_le.2 hlt)], fun hle => ⟨_, congrArg Host.Outcome.next (if_pos hle), sfind_sdel_self _ _,
      fun _ hk => sfind_sdel_of_ne hk _, rfl⟩⟩

end Sys2Proof.Machine
end

section
/-! The safe state (R338 to R341, R493) and the release of a record on its stream (R350, R351, R489, R490). -/

namespace Sys2Proof.Machine

open Sys2Proof

/-! ## Captures -/

/-- An event of source `src` has been captured by the channels below `n` that own it, and nothing else has changed. -/
structure Captured (n src : Nat) (s t : State) : Prop where
  owned : ∀ c, c < n → s.r (Reg.CAP_SOURCE c) = src →
    t.blob (Reg.CAP_RECORD c) = captureRecord s ∧ t.r (Reg.CAP_COUNT c) = s.oneMore (Reg.CAP_COUNT c)
  other : ∀ c, c < n → s.r (Reg.CAP_SOURCE c) ≠ src →
    t.blob (Reg.CAP_RECORD c) = s.blob (Reg.CAP_RECORD c) ∧ t.r (Reg.CAP_COUNT c) = s.r (Reg.CAP_COUNT c)
  values : ∀ k, (∀ c, c < n → k ≠ Reg.CAP_COUNT c) → t.r k = s.r k
  blobs : ∀ k, (∀ c, c < n → k ≠ Reg.CAP_RECORD c) → t.blob k = s.blob k
  rest : { t with regs := s.regs, blobs := s.blobs } = s

theorem captureRecord_congr {s t : State} (h : t.rooster = s.rooster) : captureRecord t = captureRecord s := by
  simp only [captureRecord, State.t, h]

section
variable {n src : Nat} {s t : State}

/-- Channel `n` captures next. -/
theorem Captured.capture (h : Captured n src s t) (hs : s.r (Reg.CAP_SOURCE n) = src) :
    Captured (n + 1) src s ((t.setBlob (Reg.CAP_RECORD n) (captureRecord t)).bump (Reg.CAP_COUNT n)) := by
  have hrec : captureRecord t = captureRecord s :=
    captureRecord_congr (congrArg State.rooster h.rest :)
  have hr (k : Key) (hk : k ≠ Reg.CAP_COUNT n) :
      ((t.setBlob (Reg.CAP_RECORD n) (captureRecord t)).bump (Reg.CAP_COUNT n)).r k = t.r k := State.r_bump_of_ne _ hk
  have hb (k : Key) (hk : k ≠ Reg.CAP_RECORD n) :
      ((t.setBlob (Reg.CAP_RECORD n) (captureRecord t)).bump (Reg.CAP_COUNT n)).blob k = t.blob k := State.blob_setBlob_of_ne _ hk _
  have hcount (c : Nat) (hc : c < n) : Reg.CAP_COUNT c ≠ Reg.CAP_COUNT n := by grind
  have hrecord (c : Nat) (hc : c < n) : Reg.CAP_RECORD c ≠ Reg.CAP_RECORD n := by grind
  refine ⟨fun c hc hsrc => ?_, fun c hc hsrc => ?_, fun k hk => ?_, fun k hk => ?_, h.rest⟩
  · rcases Nat.lt_succ_iff_lt_or_eq.1 hc with hlt | rfl
    · rw [hb _ (hrecord c hlt), hr _ (hcount c hlt)]
      exact h.owned c hlt hsrc
    · have hold : t.r (Reg.CAP_COUNT c) = s.r (Reg.CAP_COUNT c) := h.values _ fun d hd => (hcount d hd).symm
      refine ⟨(State.blob_setBlob_self t _ _).trans hrec, (State.r_setR_self _ _ _).trans ?_⟩
      rw [State.r_setBlob, hold]
      rfl
  · rcases Nat.lt_succ_iff_lt_or_eq.1 hc with hlt | rfl
    · rw [hb _ (hrecord c hlt), hr _ (hcount c hlt)]
      exact h.other c hlt hsrc
    · exact absurd hs hsrc
  · rw [hr k (hk n n.lt_succ_self)]
    exact h.values k fun c hc => hk c (hc.trans n.lt_succ_self)
  · rw [hb k (hk n n.lt_succ_self)]
    exact h.blobs k fun c hc => hk c (hc.trans n.lt_succ_self)

/-- Channel `n` does not own the source. -/
theorem Captured.pass (h : Captured n src s t) (hs : s.r (Reg.CAP_SOURCE n) ≠ src) : Captured (n + 1) src s t := by
  refine ⟨fun c hc hsrc => ?_, fun c hc hsrc => ?_, fun k hk => h.values k fun c hc => hk c (hc.trans n.lt_succ_self),
    fun k hk => h.blobs k fun c hc => hk c (hc.trans n.lt_succ_self), h.rest⟩
  · rcases Nat.lt_succ_iff_lt_or_eq.1 hc with hlt | rfl
    · exact h.owned c hlt hsrc
    · exact absurd hsrc hs
  · rcases Nat.lt_succ_iff_lt_or_eq.1 hc with hlt | rfl
    · exact h.other c hlt hsrc
    · exact ⟨h.blobs _ fun d hd => by grind, h.values _ fun d hd => by grind⟩

theorem captured_zero (src : Nat) (s : State) : Captured 0 src s s :=
  ⟨fun _ h => absurd h (Nat.not_lt_zero _), fun _ h => absurd h (Nat.not_lt_zero _), fun _ _ => rfl, fun _ _ => rfl, rfl⟩

theorem captured_captureSource (hsrc : src ≠ 0xFF) (s : State) : Captured 16 src s (captureSource src s) := by
  unfold captureSource
  generalize 16 = n
  induction n with
  | zero => exact captured_zero src s
  | succ n ih =>
    rw [List.range_succ, forEach_append, forEach_cons, forEach_nil, ih.values _ fun c hc => by grind]
    by_cases hs : s.r (Reg.CAP_SOURCE n) = src
    · rw [if_pos ⟨hs, hsrc⟩]
      exact ih.capture hs
    · rw [if_neg fun h => hs h.1]
      exact ih.pass hs

end

/-! ## The last-word frame -/

/-- What sending or holding the last-word frame can change. -/
structure LastWordSent (s t : State) : Prop where
  values : ∀ k, k ≠ Reg.LW_SENT → k ≠ Reg.NET_TX_FRAMES 0 → k ≠ Reg.CAN_TX_FRAMES 0 → t.r k = s.r k
  waiting : t.net.waiting = s.net.waiting
  rest : { t with regs := s.regs, net := s.net, wire := s.wire } = s

section
variable {s t : State}

theorem LastWordSent.refl (s : State) : LastWordSent s s := ⟨fun _ _ _ _ => rfl, rfl, rfl⟩

theorem LastWordSent.emitLastWord (h : LastWordSent s t) (x : LwTemplate) (vlan : Nat) (b : Bytes) :
    LastWordSent s (emitLastWord x vlan b t) :=
  ⟨fun k h1 h2 h3 => (State.r_bump_of_ne _ h2).trans ((State.r_bump_of_ne _ h1).trans (h.values k h1 h2 h3)), h.waiting, h.rest⟩

theorem LastWordSent.lastWordEth (h : LastWordSent s t) (x : LwTemplate) (b : Bytes) : LastWordSent s (lastWordEth x b t) := by
  unfold Machine.lastWordEth
  dsimp only
  split
  · exact h.emitLastWord x _ b
  · exact (h.emitLastWord x _ b).emitLastWord x _ b

theorem LastWordSent.lastWordCan (h : LastWordSent s t) (x : LwTemplate) (b : Bytes) : LastWordSent s (lastWordCan x b t) :=
  ⟨fun k h1 h2 h3 => (State.r_bump_of_ne _ h3).trans ((State.r_bump_of_ne _ h1).trans (h.values k h1 h2 h3)), h.waiting, h.rest⟩

theorem lastWordSent_sendLastWord (s : State) : LastWordSent s (sendLastWord s) := by
  have heth (x b) : LastWordSent s (if ethUp s 0 then lastWordEth x b s else { s with net := { s.net with heldLwEth := some (x, b) } }) := by
    split
    · exact (LastWordSent.refl s).lastWordEth x b
    · exact ⟨fun _ _ _ _ => rfl, rfl, rfl⟩
  have hcan (x b t) (h : LastWordSent s t) : LastWordSent s (if canUp t 0 then lastWordCan x b t
      else { t with net := { t.net with heldLwCan := some (x, b) } }) := by
    split
    · exact h.lastWordCan x b
    · exact ⟨h.values, h.waiting, h.rest⟩
  exact hcan _ _ _ (heth _ _)

theorem LastWordSent.sys (h : LastWordSent s t) : t.sys = s.sys := (congrArg State.sys h.rest :)
theorem LastWordSent.mem (h : LastWordSent s t) : t.mem = s.mem := (congrArg State.mem h.rest :)
theorem LastWordSent.fuses (h : LastWordSent s t) : t.fuses = s.fuses := (congrArg State.fuses h.rest :)
theorem LastWordSent.slots (h : LastWordSent s t) : t.slots = s.slots := (congrArg State.slots h.rest :)

theorem sendLastWord_can (he : ethUp s 0 = false) (hc : canUp s 0 = true) :
    ∃ b, (sendLastWord s).wire = s.wire ++ [.canLastWord 0 s.net.lw.canId b] ∧ (sendLastWord s).net.heldLwEth.isSome = true := by
  rw [sendLastWord, he, if_neg Bool.false_ne_true]
  exact ⟨canPad (recordBytes s (lastWordRec s) (lastWordRec s).word), congrArg State.wire (if_pos hc),
    congrArg (fun t : State => t.net.heldLwEth.isSome) (if_pos hc)⟩

theorem sendLastWord_held (he : ethUp s 0 = false) (hc : canUp s 0 = false) :
    (sendLastWord s).wire = s.wire ∧ (sendLastWord s).net.heldLwEth.isSome = true ∧ (sendLastWord s).net.heldLwCan.isSome = true := by
  have hheld (x b) (u : State) (hu : canUp u 0 = false) : (if canUp u 0 then lastWordCan x b u
      else { u with net := { u.net with heldLwCan := some (x, b) } }) = { u with net := { u.net with heldLwCan := some (x, b) } } := by
    rw [hu]; rfl
  rw [sendLastWord, he, if_neg Bool.false_ne_true]
  dsimp only
  rw [hheld _ _ { s with net := { s.net with heldLwEth := some (s.net.lw, recordBytes s (lastWordRec s) (lastWordRec s).word) } } hc]
  exact ⟨rfl, rfl, rfl⟩

end

/-! ## Entering and leaving the safe state -/

theorem sfind_map {α β : Type} (f : α → β) (k : Nat) (m : SMap α) : sfind k (m.map fun p => (p.1, f p.2)) = (sfind k m).map f := by
  induction m with
  | nil => rfl
  | cons p t ih =>
    obtain ⟨j, v⟩ := p
    by_cases e : k = j <;> simp [sfind, e]
    simpa [e] using ih

theorem waitingOf_clearWaiting (s : State) (n : Nat) :
    waitingOf (clearWaiting s) n = (waitingOf s n).map fun x => { x with word := fswClearValid x.word } := by
  unfold waitingOf clearWaiting sget
  dsimp only
  rw [sfind_map]
  cases sfind n s.net.waiting <;> rfl

theorem fswHas_fswClearValid (w : BitVec 32) : fswHas (fswClearValid w) Fsw.VALID = false := by
  simp only [fswHas, fswClearValid, BitVec.getLsbD_and, BitVec.getLsbD_not]
  simp

/-- What entering the safe state does before the last-word frame is formed: ERR_N falls, the entry counts, and no waiting record keeps VALID. -/
def safeEntered (s : State) : State :=
  let s1 := if s.sys.errLow then s else captureSource 0x30 { s with sys := { s.sys with errLow := true } }
  clearWaiting ((s1.setR Reg.SAFE_STATE 1).bump Reg.SAFE_ENTRIES)

/-- The safe state has been entered from `s`, up to the last-word frame. -/
structure SafeEntered (s t : State) : Prop where
  values : ∀ k, (∀ c, c < 16 → k ≠ Reg.CAP_COUNT c) → k ≠ Reg.SAFE_STATE → k ≠ Reg.SAFE_ENTRIES → t.r k = s.r k
  safe : t.r Reg.SAFE_STATE = 1
  entries : t.r Reg.SAFE_ENTRIES = s.oneMore Reg.SAFE_ENTRIES
  waiting : ∀ n, waitingOf t n = (waitingOf s n).map fun x => { x with word := fswClearValid x.word }
  lw : t.net.lw = s.net.lw
  errLow : t.sys.errLow = true
  wire : t.wire = s.wire
  mem : t.mem = s.mem
  fuses : t.fuses = s.fuses
  slots : t.slots = s.slots

/-- ERR_N pulled low. -/
def pullErr (s : State) : State := { s with sys := { s.sys with errLow := true } }

theorem pullErr_of_low {s : State} (h : s.sys.errLow = true) : pullErr s = s := by
  rw [pullErr, ← h]

/-- The rest of the entry, once ERR_N is low. -/
theorem safeEntered_of_captured {s u : State} {n src : Nat} (h : Captured n src (pullErr s) u) (hn : n ≤ 16) :
    SafeEntered s (clearWaiting ((u.setR Reg.SAFE_STATE 1).bump Reg.SAFE_ENTRIES)) := by
  have hnet : u.net = s.net := (congrArg State.net h.rest :)
  have hsys : u.sys = (pullErr s).sys := (congrArg State.sys h.rest :)
  have hr (k : Key) (hk : ∀ c, c < 16 → k ≠ Reg.CAP_COUNT c) : u.r k = s.r k := h.values k fun c hc => hk c (hc.trans_le hn)
  exact {
    values := fun k hc h1 h2 => (State.r_bump_of_ne _ h2).trans ((State.r_setR_of_ne _ h1 _).trans (hr k hc))
    safe := (State.r_bump_of_ne _ (by decide)).trans (State.r_setR_self _ _ _)
    entries := by
      refine (State.r_setR_self _ _ _).trans ?_
      rw [State.r_setR_of_ne _ (by decide), hr _ fun c _ => by grind]
      rfl
    waiting := fun n => by
      rw [waitingOf_clearWaiting]
      exact congrArg (fun x : Net => (sget (fun _ => []) x.waiting n).map _) hnet
    lw := (congrArg Net.lw hnet :)
    errLow := (congrArg Sys.errLow hsys :)
    wire := (congrArg State.wire h.rest :)
    mem := (congrArg State.mem h.rest :)
    fuses := (congrArg State.fuses h.rest :)
    slots := (congrArg State.slots h.rest :) }

theorem safeEntered_spec (s : State) : SafeEntered s (safeEntered s) := by
  unfold safeEntered
  dsimp only
  split
  next h => exact safeEntered_of_captured (by rw [pullErr_of_low h]; exact captured_zero 0 s) (Nat.zero_le _)
  next h => exact safeEntered_of_captured (captured_captureSource (by decide) (pullErr s)) le_rfl

theorem SafeEntered.links {s t : State} (h : SafeEntered s t) : canUp t 0 = canUp s 0 ∧ ethUp t 0 = ethUp s 0 := by
  have hv (k : Nat) (hk : 0x630000 ≤ k) : t.r k = s.r k :=
    h.values k (fun c hc e => by have : k = (0x6200 + c) * 256 + 2 := e; omega) (Nat.ne_of_gt (Nat.lt_of_lt_of_le (by decide) hk))
      (Nat.ne_of_gt (Nat.lt_of_lt_of_le (by decide) hk))
  simp only [canUp, ethUp, State.on, hv (Reg.CAN_ENABLE 0) (by decide), hv (Reg.CAN_ERR_STATE 0) (by decide),
    hv (Reg.NET_ENABLE 0) (by decide), hv (Reg.NET_LINK_STATE 0) (by decide), and_self]

theorem ringFreezeNow_frame (s : State) :
    (∀ k, k ≠ Reg.RING_STATE → k ≠ Reg.RING_FREEZE_TIME → (ringFreezeNow s).r k = s.r k)
    ∧ ringFreezeNow s = s.withRegs (ringFreezeNow s).regs := by
  by_cases h : s.r Reg.RING_STATE = 0
  · have hb := becomes_ringFreezeNow h
    exact ⟨fun k h1 h2 => hb.others k (by simp [h1, h2]), hb.rest⟩
  · rw [ringFreezeNow, if_neg h]
    exact ⟨fun _ _ _ => rfl, rfl⟩

/-- The state after the freeze of the ring that an entry may cause: RING_STATE and RING_FREEZE_TIME apart, the state before. -/
structure RingFrozen (s t : State) : Prop where
  values : ∀ k, k ≠ Reg.RING_STATE → k ≠ Reg.RING_FREEZE_TIME → t.r k = s.r k
  net : t.net = s.net
  wire : t.wire = s.wire
  sys : t.sys = s.sys
  mem : t.mem = s.mem
  fuses : t.fuses = s.fuses
  slots : t.slots = s.slots

theorem ringFrozen_autofreeze (s : State) : RingFrozen s (if s.on Reg.RING_AUTOFREEZE then ringFreezeNow s else s) := by
  have hfreeze (b : Bool) (t : State) (h : RingFrozen s t) : RingFrozen s (if b then t else s) := by
    cases b
    · exact ⟨fun _ _ _ => rfl, rfl, rfl, rfl, rfl, rfl, rfl⟩
    · exact h
  obtain ⟨hv, hrest⟩ := ringFreezeNow_frame s
  refine hfreeze _ _ ⟨hv, ?_, ?_, ?_, ?_, ?_, ?_⟩ <;> rw [hrest] <;> rfl

theorem ringFrozen_enterSafe (s : State) : RingFrozen (sendLastWord (safeEntered s)) (enterSafe s) :=
  ringFrozen_autofreeze _

theorem r_enterSafe_SAFE_STATE (s : State) : (enterSafe s).r Reg.SAFE_STATE = 1 := by
  rw [(ringFrozen_enterSafe s).values _ (by decide) (by decide), (lastWordSent_sendLastWord _).values _ (by decide) (by decide) (by decide)]
  exact (safeEntered_spec s).safe

theorem r_enterSafe_SAFE_ENTRIES (s : State) : (enterSafe s).r Reg.SAFE_ENTRIES = s.oneMore Reg.SAFE_ENTRIES := by
  rw [(ringFrozen_enterSafe s).values _ (by decide) (by decide), (lastWordSent_sendLastWord _).values _ (by decide) (by decide) (by decide)]
  exact (safeEntered_spec s).entries

theorem waitingOf_enterSafe (s : State) (n : Nat) :
    waitingOf (enterSafe s) n = (waitingOf s n).map fun x => { x with word := fswClearValid x.word } := by
  rw [← (safeEntered_spec s).waiting, waitingOf, (ringFrozen_enterSafe s).net, (lastWordSent_sendLastWord _).waiting]
  rfl

/-- The fields that an entry leaves alone, and the pin. -/
theorem enterSafe_keeps (s : State) : (enterSafe s).sys.errLow = true ∧ (enterSafe s).mem = s.mem ∧ (enterSafe s).fuses = s.fuses
    ∧ (enterSafe s).slots = s.slots := by
  have hf := ringFrozen_enterSafe s
  have hl := lastWordSent_sendLastWord (safeEntered s)
  have he := safeEntered_spec s
  exact ⟨(congrArg Sys.errLow (hf.sys.trans hl.sys)).trans he.errLow, hf.mem.trans (hl.mem.trans he.mem),
    hf.fuses.trans (hl.fuses.trans he.fuses), hf.slots.trans (hl.slots.trans he.slots)⟩

theorem leaveSafe_of_held {s : State} (h : errHeld s = true ∨ s.drained = true ∨ s.safe = false) : leaveSafe s = s := by
  refine if_neg fun hc => ?_
  rcases h with h | h | h <;> simp [h] at hc

/-- An exit changes SAFE_STATE, the pin and the held last-word frames; the admission of frames is in the slots. -/
theorem leaveSafe_spec {s : State} (hs : s.safe = true) (he : errHeld s = false) (hd : s.drained = false) :
    ∃ x, leaveSafe s = { s.setR Reg.SAFE_STATE 0 with
      sys := { s.sys with errLow := decide (s.sys.phase ≠ Phase.ready) }
      net := { s.net with heldLwEth := none, heldLwCan := none }
      slots := x } := by
  rw [leaveSafe, if_pos (by simp [hs, he, hd])]
  refine forEach_induct (P := fun t => ∃ x, t = { s.setR Reg.SAFE_STATE 0 with
      sys := { s.sys with errLow := decide (s.sys.phase ≠ Phase.ready) }
      net := { s.net with heldLwEth := none, heldLwCan := none }
      slots := x }) (fun g t ht => ?_) ⟨s.slots, rfl⟩
  obtain ⟨x, rfl⟩ := ht
  split
  · exact ⟨_, rfl⟩
  · exact ⟨x, rfl⟩

/-- Settles O47. -/
theorem theSafeStateHoldsWhileAFaultDoes : Obligations.TheSafeStateHoldsWhileAFaultDoes := by
  unfold Obligations.TheSafeStateHoldsWhileAFaultDoes
  intro s
  obtain ⟨hlow, hmem, hfuses, hslots⟩ := enterSafe_keeps s
  have hent := safeEntered_spec s
  obtain ⟨hcan, heth⟩ := hent.links
  refine ⟨⟨?_, hlow, r_enterSafe_SAFE_ENTRIES s, fun n x hx => ?_, fun hc he => ?_, fun hc he => ?_, hmem, hfuses, hslots⟩,
    leaveSafe_of_held, fun hs he hd => ?_⟩
  · simp [State.safe, State.on, r_enterSafe_SAFE_STATE]
  · rw [waitingOf_enterSafe, List.mem_map] at hx
    obtain ⟨y, -, rfl⟩ := hx
    exact fswHas_fswClearValid y.word
  · rw [(ringFrozen_enterSafe s).wire, (ringFrozen_enterSafe s).net, ← hent.lw, ← hent.wire]
    exact ⟨_, (sendLastWord_can (heth.trans he) (hcan.trans hc)).choose_spec⟩
  · rw [(ringFrozen_enterSafe s).wire, (ringFrozen_enterSafe s).net, ← hent.wire]
    exact sendLastWord_held (heth.trans he) (hcan.trans hc)
  · obtain ⟨x, hx⟩ := leaveSafe_spec hs he hd
    rw [hx]
    refine ⟨?_, rfl, rfl, rfl, fun k hk => State.r_setR_of_ne s hk 0, rfl⟩
    exact decide_eq_false (not_not.2 (State.r_setR_self s Reg.SAFE_STATE 0))

end Sys2Proof.Machine
end

section
/-! The publication gate (R349 to R354), the record it releases (R350, R351, R489, R490) and its transmission (R490 to R492). -/

namespace Sys2Proof.Machine

open Sys2Proof

/-! ## The release of a record on its stream -/

theorem waitingOf_setWaiting_self (n : Nat) (l : List Rec) (s : State) : waitingOf (setWaiting n l s) n = l := sget_sset_self _ _ _ _

theorem waitingOf_setWaiting_of_ne {n m : Nat} (h : m ≠ n) (l : List Rec) (s : State) :
    waitingOf (setWaiting n l s) m = waitingOf s m := sget_sset_of_ne _ _ h _

theorem waitingOf_congr {s t : State} (h : t.net.waiting = s.net.waiting) (n : Nat) : waitingOf t n = waitingOf s n := by
  simp only [waitingOf, h]

/-- A record that joins its queues changes credits alone. -/
theorem joinQueues_spec (n : Nat) (s : State) : ∃ c, joinQueues n s = { s with net := { s.net with credit := c } } := by
  unfold joinQueues
  refine forEach_induct (P := fun t => ∃ c, t = { s with net := { s.net with credit := c } }) (fun q t ht => ?_) ⟨s.net.credit, rfl⟩
  obtain ⟨c, rfl⟩ := ht
  split
  · exact ⟨c, rfl⟩
  · exact ⟨_, rfl⟩

/-- Record `x` waits last behind those of its stream, the oldest of four having left. -/
structure Queued (n : Nat) (x : Rec) (s t : State) : Prop where
  here : waitingOf t n = (waitingOf s n ++ [x]).drop (if (waitingOf s n).length < 4 then 0 else 1)
  elsewhere : ∀ m, m ≠ n → waitingOf t m = waitingOf s m
  values : ∀ k, k ≠ Reg.STR_TX_DROP n → t.r k = s.r k
  rest : { t with regs := s.regs, net := s.net } = s

theorem queued_queueRecord (x : Rec) (s : State) : Queued x.stream x s (queueRecord x s) := by
  have hlen : (waitingOf s x.stream ++ [x]).length = (waitingOf s x.stream).length + 1 := List.length_append
  by_cases h : (waitingOf s x.stream).length < 4
  · have heq : queueRecord x s = setWaiting x.stream (waitingOf s x.stream ++ [x]) s := by
      rw [queueRecord]
      exact congrArg (fun p : List Rec × State => setWaiting x.stream p.1 p.2) (if_neg (by rw [← waitingOf]; omega))
    rw [heq]
    refine ⟨?_, fun m hm => waitingOf_setWaiting_of_ne hm _ _, fun _ _ => rfl, rfl⟩
    rw [waitingOf_setWaiting_self, if_pos h, List.drop_zero]
  · have heq : queueRecord x s = setWaiting x.stream ((waitingOf s x.stream ++ [x]).drop 1) (s.bump (Reg.STR_TX_DROP x.stream)) := by
      rw [queueRecord]
      exact congrArg (fun p : List Rec × State => setWaiting x.stream p.1 p.2) (if_pos (by rw [← waitingOf]; omega))
    rw [heq]
    refine ⟨?_, fun m hm => waitingOf_setWaiting_of_ne hm _ _, fun k hk => State.r_bump_of_ne s hk, rfl⟩
    rw [waitingOf_setWaiting_self, if_neg h]

/-- Record `x` has been released on stream `n` with the stream's next SEQ. -/
structure Released (n : Nat) (x : Rec) (s t : State) : Prop where
  here : waitingOf t n = (waitingOf s n ++ [{ x with seq := s.r (Reg.STR_SEQ n) }]).drop (if (waitingOf s n).length < 4 then 0 else 1)
  elsewhere : ∀ m, m ≠ n → waitingOf t m = waitingOf s m
  seq : t.r (Reg.STR_SEQ n) = (s.r (Reg.STR_SEQ n) + 1) % 2 ^ 32
  values : ∀ k, k ≠ Reg.STR_TX_DROP n → k ≠ Reg.STR_SEQ n → t.r k = s.r k
  rest : { t with regs := s.regs, net := s.net } = s

theorem Released.slots {n : Nat} {x : Rec} {s t : State} (h : Released n x s t) : t.slots = s.slots := (congrArg State.slots h.rest :)

theorem released_releaseStream (x : Rec) (s : State) : Released x.stream x s (releaseStream x s) := by
  obtain ⟨c, hc⟩ := joinQueues_spec x.stream s
  rw [releaseStream, hc]
  have hq := queued_queueRecord { x with seq := s.r (Reg.STR_SEQ x.stream) }
    (({ s with net := { s.net with credit := c } } : State).setR (Reg.STR_SEQ x.stream) ((s.r (Reg.STR_SEQ x.stream) + 1) % 2 ^ 32))
  exact {
    here := hq.here
    elsewhere := hq.elsewhere
    seq := (hq.values _ (by grind)).trans (State.r_setR_self _ _ _)
    values := fun k h1 h2 => (hq.values k h1).trans (State.r_setR_of_ne _ h2 _)
    rest := (congrArg (fun t : State => ({ t with regs := s.regs, net := s.net } : State)) hq.rest :) }

/-! ## The released record -/

/-- When a record of frame `f` with word `w` has VALID. -/
def ValidRecord (s : State) (g f kind : Nat) (w : BitVec 32) : Prop :=
  kind = 0 ∧ fswWithheld w (s.r (Reg.WITHHOLD g)) = false ∧ s.safe = false ∧ s.drained = false ∧ (s.slot g).admitAfter ≤ f

/-- The record of a publish station's frame with word `w`, before it has its SEQ. -/
def recordOf (s : State) (p : PublishRec) (g st f kind : Nat) (payload : Bytes) (w : BitVec 32) : Rec :=
  { stream := p.stream, graph := g + 1, kind := kind, seq := 0, word := w, timestamp := recordTime s g st f, frameNo := f
    recordType := p.recordType, payload := payload, act := inputAct s g st f }

/-- A record has been counted in entry `k`, and its frame closed. -/
def countRecord (g st f : Nat) (k : Key) (s : State) : State :=
  modFrame g st f (fun x => { x with released := true, handed := true, slotOpen := false }) (s.bump k)

section
variable {s : State} {g st f kind : Nat} {payload : Bytes} {p : PublishRec}

theorem releaseRecord_valid (hp : publishOf s g st = some p) (ho : p.overlayTarget = false)
    (hv : ValidRecord s g f kind (recordWord s g st f)) :
    releaseRecord g st f kind payload s = releaseStream (recordOf s p g st f kind payload (fswMark (recordWord s g st f) Fsw.VALID))
      (countRecord g st f (Reg.GATE_VALID g) s) := by
  obtain ⟨hk, hw, hs, hd, hf⟩ := hv
  simp [releaseRecord, hp, ho, hk, hw, hs, hd, hf, recordOf, countRecord]

theorem releaseRecord_notValid (hp : publishOf s g st = some p) (ho : p.overlayTarget = false)
    (hv : ¬ ValidRecord s g f kind (recordWord s g st f)) :
    releaseRecord g st f kind payload s = releaseStream (recordOf s p g st f kind payload (recordWord s g st f))
      (countRecord g st f (Reg.GATE_NOT_VALID g) s) := by
  have hv' : ¬ (kind = 0 ∧ (!fswWithheld (recordWord s g st f) (s.r (Reg.WITHHOLD g))) = true ∧ (!s.safe) = true ∧ (!s.drained) = true
      ∧ (s.slot g).admitAfter ≤ f) := by
    simpa only [ValidRecord, Bool.not_eq_true'] using hv
  simp only [releaseRecord, hp, ho, if_neg hv', Bool.false_eq_true, if_false, recordOf, countRecord]

/-- What a release does besides the verdict: the queue, the count, SEQ, the frame. -/
theorem releaseStream_countRecord (x : Rec) {k : Key} (h1 : k ≠ Reg.STR_SEQ x.stream) (h2 : k ≠ Reg.STR_TX_DROP x.stream) :
    let t := releaseStream x (countRecord g st f k s)
    waitingOf t x.stream
        = (waitingOf s x.stream ++ [{ x with seq := s.r (Reg.STR_SEQ x.stream) }]).drop (if (waitingOf s x.stream).length < 4 then 0 else 1)
    ∧ t.r k = s.oneMore k
    ∧ t.r (Reg.STR_SEQ x.stream) = (s.r (Reg.STR_SEQ x.stream) + 1) % 2 ^ 32
    ∧ (∀ n, n ≠ x.stream → waitingOf t n = waitingOf s n)
    ∧ (∀ h, h ≠ g → t.slot h = s.slot h)
    ∧ { t with regs := s.regs, slots := s.slots, net := s.net } = s := by
  have hseq : (countRecord g st f k s).r (Reg.STR_SEQ x.stream) = s.r (Reg.STR_SEQ x.stream) := State.r_bump_of_ne s h1.symm
  have hcount : (countRecord g st f k s).r k = s.oneMore k := State.r_setR_self _ _ _
  have hslot : ∀ h, h ≠ g → (countRecord g st f k s).slot h = s.slot h := fun h hh => State.slot_setSlot_of_ne _ _ hh
  have hwait : waitingOf (countRecord g st f k s) = waitingOf s := rfl
  have hrest : { countRecord g st f k s with regs := s.regs, slots := s.slots } = s := rfl
  have hr := released_releaseStream x (countRecord g st f k s)
  generalize countRecord g st f k s = u at *
  generalize releaseStream x u = t at *
  refine ⟨?_, (hr.values k h2 h1).trans hcount, by rw [hr.seq, hseq], fun n hn => (hr.elsewhere n hn).trans (by rw [hwait]),
    fun h hh => .trans ?_ (hslot h hh), ?_⟩
  · rw [hr.here, hseq, hwait]
  · exact congrArg (fun m => sget (fun _ => {}) m h) hr.slots
  · exact .trans (congrArg (fun v : State => ({ v with regs := s.regs, slots := s.slots, net := s.net } : State)) hr.rest :)
      (congrArg (fun v : State => ({ v with net := s.net } : State)) hrest :)

end

/-- Settles O42, by whether the record is valid. -/
theorem releasedRecordsCarryTheirVerdict : Obligations.ReleasedRecordsCarryTheirVerdict := by
  unfold Obligations.ReleasedRecordsCarryTheirVerdict
  intro g st f kind payload s p hp ho hn t word valid before
  by_cases hv : ValidRecord s g.val f kind word
  · obtain ⟨hhere, hcount, hseq, helse, hslot, hrest⟩ := releaseStream_countRecord (s := s) (g := g.val) (st := st) (f := f)
      (recordOf s p g.val st f kind payload (fswMark word Fsw.VALID)) (k := Reg.GATE_VALID g.val) (by grind) (by grind)
    rw [← releaseRecord_valid hp ho hv] at hhere hcount hseq helse hslot hrest
    exact ⟨_, hhere, rfl, rfl, rfl, rfl, rfl, fun _ => ⟨rfl, hcount⟩, fun h => absurd hv h, hseq, helse, hslot, hrest⟩
  · obtain ⟨hhere, hcount, hseq, helse, hslot, hrest⟩ := releaseStream_countRecord (s := s) (g := g.val) (st := st) (f := f)
      (recordOf s p g.val st f kind payload word) (k := Reg.GATE_NOT_VALID g.val) (by grind) (by grind)
    rw [← releaseRecord_notValid hp ho hv] at hhere hcount hseq helse hslot hrest
    exact ⟨_, hhere, rfl, rfl, rfl, rfl, rfl, fun h => absurd h hv, fun _ => ⟨rfl, hcount⟩, hseq, helse, hslot, hrest⟩

/-! ## The transmission of a record -/

section
variable {n : Fin 32} {s : State} {x : Rec} {rest : List Rec} (h : waitingOf s n.val = x :: rest)
include h

theorem exec_recordTxStart_eth (he : s.r (Reg.STR_PORT n.val) < 2) :
    exec (.recordTxStart n) s = .next (startEth (s.r (Reg.STR_PORT n.val)) n.val x rest s) := by
  simp only [exec, execRecordTxStart, h, if_pos he]

theorem exec_recordTxStart_can (he : 4 ≤ s.r (Reg.STR_PORT n.val)) :
    exec (.recordTxStart n) s = .next (startCan (s.r (Reg.STR_PORT n.val) - 4) n.val x rest s) := by
  simp only [exec, execRecordTxStart, h, if_neg (show ¬ s.r (Reg.STR_PORT n.val) < 2 by omega)]

end

section
variable {s : State} {e n : Nat} {x : Rec} {rest : List Rec}

theorem startEth_down (hf : s.on (Reg.STR_FRER n) = false) (he : ethUp s e = false) :
    startEth e n x rest s = (setWaiting n rest s).bump (Reg.NET_TX_DISCARDED e) := by
  have he' : ethUp (setWaiting n rest s) e = false := he
  simp [startEth, anyLeaves, copiesOf, hf, he, sendCopy, he']

variable (hf : s.on (Reg.STR_FRER n) = false) (he : ethUp s e = true) (ho : alwaysOpen s e (queueOf (s.r (Reg.STR_VLAN1 n))) = true)
include hf he ho

theorem startEth_shut (hs : shaperOpen s e (queueOf (s.r (Reg.STR_VLAN1 n))) = false) : startEth e n x rest s = s := by
  simp [startEth, copiesOf, hf, he, neverFits, ho, hs]

theorem startEth_open (hs : shaperOpen s e (queueOf (s.r (Reg.STR_VLAN1 n))) = true) :
    startEth e n x rest s = (((chargeQueue e n x ⟨s.r (Reg.STR_DEST_MAC n), s.r (Reg.STR_VLAN1 n)⟩ (setWaiting n rest s)).emit
        (.record e (s.r (Reg.STR_DEST_MAC n)) (s.r (Reg.STR_VLAN1 n)) none (s.blob (Reg.STR_DEST_IP n)) (s.r (Reg.STR_SRC_UDP n))
          (s.r (Reg.STR_DST_UDP n)) (recordBytes s x x.word))).bump (Reg.NET_TX_FRAMES e)).bump (Reg.STR_SENT n) := by
  have he' : ethUp (setWaiting n rest s) e = true := he
  have ho' : alwaysOpen (setWaiting n rest s) e (queueOf (s.r (Reg.STR_VLAN1 n))) = true := ho
  have hf' : (setWaiting n rest s).on (Reg.STR_FRER n) = false := hf
  simp [startEth, anyLeaves, copiesOf, hf, he, sendCopy, he', neverFits, ho, ho', hf', fitsNow, hs]
  rfl

end

theorem chargeQueue_spec (e n : Nat) (x : Rec) (c : Copy) (s : State) :
    ∃ k, chargeQueue e n x c s = { s with net := { s.net with credit := k } } := by
  unfold chargeQueue
  dsimp only
  split
  · exact ⟨s.net.credit, rfl⟩
  · exact ⟨_, rfl⟩

theorem startCan_up {s : State} {c n : Nat} {x : Rec} {rest : List Rec} (h : canUp s c = true) :
    startCan c n x rest s = (((setWaiting n rest s).emit (.canRecord c (s.r (Reg.STR_CAN_ID n)) (canPad (recordBytes s x x.word)))).bump
      (Reg.CAN_TX_FRAMES c)).bump (Reg.STR_SENT n) := by
  simp [startCan, h]

theorem becomes_startCan {s : State} {c n : Nat} (x : Rec) (rest : List Rec) (h : canUp s c = true) :
    Becomes s (startCan c n x rest s) ((setWaiting n rest s).emit (.canRecord c (s.r (Reg.STR_CAN_ID n)) (canPad (recordBytes s x x.word))))
      [(Reg.STR_SENT n, s.oneMore (Reg.STR_SENT n)), (Reg.CAN_TX_FRAMES c, s.oneMore (Reg.CAN_TX_FRAMES c))] := by
  rw [startCan_up h]
  refine Becomes.consBump (s := s) ((Becomes.bump ((setWaiting n rest s).emit _) _).of_regs rfl) fun p hp => ?_
  rw [List.mem_singleton.1 hp]
  grind

/-- What a transmission on an Ethernet port leaves: the queue, the frame sent, the counts, the credit. -/
theorem startEth_open_effect {s : State} {e n : Nat} {x : Rec} {rest : List Rec}
    (hf : s.on (Reg.STR_FRER n) = false) (he : ethUp s e = true) (ho : alwaysOpen s e (queueOf (s.r (Reg.STR_VLAN1 n))) = true)
    (hs : shaperOpen s e (queueOf (s.r (Reg.STR_VLAN1 n))) = true) :
    let t := startEth e n x rest s
    waitingOf t n = rest
    ∧ t.wire = s.wire ++ [.record e (s.r (Reg.STR_DEST_MAC n)) (s.r (Reg.STR_VLAN1 n)) none (s.blob (Reg.STR_DEST_IP n))
        (s.r (Reg.STR_SRC_UDP n)) (s.r (Reg.STR_DST_UDP n)) (recordBytes s x x.word)]
    ∧ t.r (Reg.STR_SENT n) = s.oneMore (Reg.STR_SENT n) ∧ t.r (Reg.NET_TX_FRAMES e) = s.oneMore (Reg.NET_TX_FRAMES e)
    ∧ t.net = (chargeQueue e n x ⟨s.r (Reg.STR_DEST_MAC n), s.r (Reg.STR_VLAN1 n)⟩ (setWaiting n rest s)).net := by
  have hkey : Reg.STR_SENT n ≠ Reg.NET_TX_FRAMES e := by grind
  obtain ⟨k, hk⟩ := chargeQueue_spec e n x ⟨s.r (Reg.STR_DEST_MAC n), s.r (Reg.STR_VLAN1 n)⟩ (setWaiting n rest s)
  intro t
  have ht : t = _ := startEth_open hf he ho hs
  rw [ht, hk]
  refine ⟨waitingOf_setWaiting_self n rest s, rfl, ?_, ?_, rfl⟩
  · refine (State.r_setR_self _ _ _).trans ?_
    rw [State.r_bump_of_ne _ hkey]
    rfl
  · exact (State.r_bump_of_ne _ hkey.symm).trans (State.r_setR_self _ _ _)

/-- Settles O43. -/
theorem theOldestRecordStarts : Obligations.TheOldestRecordStarts := by
  unfold Obligations.TheOldestRecordStarts
  intro n s x rest hw e
  refine ⟨exec_recordTxStart_eth hw, fun he hf => ⟨fun hd => ?_, fun hu ho => ⟨fun hs => ?_, fun hs => ?_⟩⟩, fun he _ => ⟨fun hd => ?_, fun hu => ?_⟩⟩
  · rw [exec_recordTxStart_eth hw he, startEth_down hf hd]
    exact ⟨_, rfl, waitingOf_setWaiting_self _ _ s, rfl, (Becomes.bump _ _).of_regs rfl⟩
  · rw [exec_recordTxStart_eth hw he, startEth_shut hf hu ho hs]
  · exact ⟨_, exec_recordTxStart_eth hw he, startEth_open_effect hf hu ho hs⟩
  · rw [exec_recordTxStart_can hw he]
    exact congrArg Host.Outcome.next (if_pos (by rw [hd]; rfl))
  · refine ⟨_, exec_recordTxStart_can hw he, ?_, ?_, becomes_startCan x rest hu⟩
    · rw [startCan_up hu]
      exact waitingOf_setWaiting_self _ _ s
    · rw [startCan_up hu]
      rfl

/-! ## The gate -/

section
variable {g : Fin 64} {station frame : Nat} {s : State} {p : PublishRec} {x : StFrame}
  (hp : publishOf s g.val station = some p) (hx : stFrame? s g.val station frame = some x)
include hp hx

theorem exec_gateRelease_closed (h : x.abandoned = true ∨ x.stalled = true ∨ dataComplete s g.val station frame = false) :
    exec (.gateRelease g station frame) s = .next s := by
  rcases h with h | h | h <;> simp [exec, execGateRelease, hp, hx, h]

theorem exec_gateRelease (hr : x.released = false) (hd : s.drained = false) (ha : x.abandoned = false) (hs : x.stalled = false)
    (hc : dataComplete s g.val station frame = true) :
    exec (.gateRelease g station frame) s = .next (
      let t := if x.handed then s else handRecord g.val station frame s
      if earlierWaits t g.val station frame then t
      else if checksClosed t g.val station frame ∨ fswWithheld (recordWord t g.val station frame) (t.r (Reg.WITHHOLD g.val)) then
        releaseWhole g station frame t
      else t) := by
  simp [exec, execGateRelease, hp, hx, hr, hd, ha, hs, hc]

omit hp in
theorem exec_gateWithholdTimeout_abandoned (ha : x.abandoned = true) : exec (.gateWithholdTimeout g station frame) s = .next s := by
  simp only [exec, execGateWithholdTimeout, hx, ha]
  cases x.markAt <;> simp

theorem exec_gateWithholdTimeout (hr : x.released = false) (hd : s.drained = false) (ha : x.abandoned = false) {d : Nat}
    (hm : x.markAt = some d) :
    exec (.gateWithholdTimeout g station frame) s = .next (
      if s.t3 < d + 10000000 then s
      else if dataComplete s g.val station frame = true ∧ x.stalled = false then
        if earlierWaits s g.val station frame then s else releaseWhole g station frame s
      else freeOutBufs (abandonStation g.val station frame s)) := by
  simp [exec, execGateWithholdTimeout, hp, hx, hr, hd, ha, hm]

end

theorem releaseWhole_good {g : Fin 64} {st f : Nat} {t s1 : State} {b : Bytes} (h : recordPayload g st f t = (.ok b, s1)) :
    releaseWhole g st f t = (flushRecords g.val st (releaseRecord g.val st f 0 b s1)).nextFree := by
  rw [releaseWhole, h]

theorem releaseWhole_wrong {g : Fin 64} {st f : Nat} {t s1 : State} {z : TileRef} (h : recordPayload g st f t = (.error (.tile z), s1)) :
    releaseWhole g st f t = modFrame g.val st f (fun x => { x with stalled := true })
      (raise Src.TILE_CHECK (.tile z) (markStation g.val st f Fsw.CHECK_MISMATCH s1)) := by
  rw [releaseWhole, h]

/-- Settles O41. -/
theorem theGateReleasesRecords : Obligations.TheGateReleasesRecords := by
  unfold Obligations.TheGateReleasesRecords
  intro g station frame s p x hp hx hr hd
  refine ⟨fun ha hs hc => ?_, exec_gateRelease_closed hp hx, exec_gateWithholdTimeout_abandoned hx, fun _ _ _ => releaseWhole_good,
    fun _ _ _ => releaseWhole_wrong, fun d ha hm => ?_⟩
  · rw [exec_gateRelease hp hx hr hd ha hs hc]
    intro t open_
    exact ⟨fun he => congrArg _ (if_pos he), 
      fun he ho => congrArg _ ((if_neg (ne_true_of_eq_false he)).trans (if_neg ho)), fun he ho => congrArg _ ((if_neg (ne_true_of_eq_false he)).trans (if_pos ho))⟩
  · rw [exec_gateWithholdTimeout hp hx hr hd ha hm]
    refine ⟨fun hlt => by rw [if_pos hlt], fun hle hno => ?_, fun hle hc hs => ?_⟩
    · rw [if_neg (Nat.not_lt.2 hle), if_neg]
      rcases hno with h | h <;> simp [h]
    · rw [if_neg (Nat.not_lt.2 hle), if_pos ⟨hc, hs⟩]

end Sys2Proof.Machine
end

section
/-! Pairs, resets and the Goose (R108, R347, R372, R375, R377). -/

namespace Sys2Proof.Machine

open Sys2Proof

/-! ## Windows and covered tiles -/

/-- Unit `v` alone has changed, and of it neither its closed windows nor the count of compared ones; its log has lost tiles at most. -/
structure TilesDropped (v : Nat) (s t : State) : Prop where
  closed : (t.unit v).closed = (s.unit v).closed
  compared : (t.unit v).compared = (s.unit v).compared
  log : ∀ e ∈ (t.unit v).log, e ∈ (s.unit v).log
  others : ∀ w, w ≠ v → t.unit w = s.unit w
  rest : { t with units := s.units } = s

theorem TilesDropped.releaseTile {v : Nat} {s t : State} (h : TilesDropped v s t) (r : TileRef) :
    TilesDropped v s (releaseTile r v t) where
  closed := by simp [Machine.releaseTile, h.closed]
  compared := by simp [Machine.releaseTile, h.compared]
  log e he := by
    simp only [Machine.releaseTile, State.unit_setUnit_self] at he
    exact h.log e (List.mem_of_mem_filter he)
  others w hw := (State.unit_setUnit_of_ne _ _ hw).trans (h.others w hw)
  rest := h.rest

theorem tilesDropped_discardCovered (v : Nat) (s : State) : TilesDropped v s (discardCovered v s) :=
  forEach_induct (P := TilesDropped v s) (fun r _ h => h.releaseTile r) ⟨rfl, rfl, fun _ h => h, fun _ _ => rfl, rfl⟩

/-- A unit moves on to the window after `w`. -/
def nextWindow (w u : Nat) (s : State) : State :=
  s.setUnit u { s.unit u with closed := (s.unit u).closed.drop 1, compared := w + 1 }

theorem windowEqual_eq (a b w : Nat) (s : State) : windowEqual a b w s = discardCovered b (nextWindow w b (nextWindow w a s)) := rfl

/-- What an equal comparison of units `a` and `b` leaves. -/
theorem windowEqual_effect {a b : Nat} (hab : a ≠ b) (w : Nat) (s : State) :
    let t := windowEqual a b w s
    (t.unit a).closed = (s.unit a).closed.drop 1 ∧ (t.unit b).closed = (s.unit b).closed.drop 1
    ∧ (t.unit a).compared = w + 1 ∧ (t.unit b).compared = w + 1
    ∧ (t.unit a).log = (s.unit a).log ∧ (∀ e ∈ (t.unit b).log, e ∈ (s.unit b).log)
    ∧ (∀ v, v ≠ a → v ≠ b → t.unit v = s.unit v) ∧ { t with units := s.units } = s := by
  have ha : (nextWindow w b (nextWindow w a s)).unit a = { s.unit a with closed := (s.unit a).closed.drop 1, compared := w + 1 } := by
    rw [nextWindow, State.unit_setUnit_of_ne _ _ hab, nextWindow, State.unit_setUnit_self]
  have hb : (nextWindow w b (nextWindow w a s)).unit b = { s.unit b with closed := (s.unit b).closed.drop 1, compared := w + 1 } := by
    rw [nextWindow, State.unit_setUnit_self, nextWindow, State.unit_setUnit_of_ne _ _ hab.symm]
  have hother : ∀ v, v ≠ a → v ≠ b → (nextWindow w b (nextWindow w a s)).unit v = s.unit v := fun v hva hvb =>
    (State.unit_setUnit_of_ne _ _ hvb).trans (State.unit_setUnit_of_ne _ _ hva)
  have hrest : { nextWindow w b (nextWindow w a s) with units := s.units } = s := rfl
  have h := tilesDropped_discardCovered b (nextWindow w b (nextWindow w a s))
  rw [windowEqual_eq]
  generalize nextWindow w b (nextWindow w a s) = u at *
  generalize discardCovered b u = t at *
  have hta : t.unit a = u.unit a := h.others a hab
  refine ⟨by rw [hta, ha], by rw [h.closed, hb], by rw [hta, ha], by rw [h.compared, hb], by rw [hta, ha], fun e he => ?_,
    fun v hva hvb => (h.others v hvb).trans (hother v hva hvb), ?_⟩
  · have hu := h.log e he
    rwa [hb] at hu
  · exact .trans (congrArg (fun v : State => ({ v with units := s.units } : State)) h.rest :) hrest

theorem exec_pairCompare {u : UnitRef} {v : Nat} {s : State} {x y : Nat × BitVec 64} {lx ly : List (Nat × BitVec 64)}
    (hp : partner s u.id = some v) (hd : s.drained = false)
    (hx : (s.unit (if isCopyA s u.id then u.id else v)).closed = x :: lx)
    (hy : (s.unit (if isCopyA s u.id then v else u.id)).closed = y :: ly)
    (ha : (s.unit (if isCopyA s u.id then u.id else v)).resetting = false)
    (hb : (s.unit (if isCopyA s u.id then v else u.id)).resetting = false) :
    exec (.pairCompare u) s = .next (
      let a := if isCopyA s u.id then u.id else v
      let b := if isCopyA s u.id then v else u.id
      if x = y then windowEqual a b x.1 s else pairMismatch a b x.1 s) := by
  simp [exec, execPairCompare, hp, hx, hy, hd, ha, hb]

/-! ## The end of a reset -/

theorem unit_setStatus (us : List Nat) (st : Status) (s : State) (v : Nat) :
    ∃ x, (setStatus us st s).unit v = { s.unit v with status := x } := by
  refine forEach_induct (P := fun t : State => ∃ x, t.unit v = { s.unit v with status := x }) (fun w t ht => ?_) ⟨_, rfl⟩
  by_cases h : v = w
  · subst h
    obtain ⟨x, hx⟩ := ht
    exact ⟨st, by rw [State.unit_setUnit_self, hx]⟩
  · rwa [State.unit_setUnit_of_ne _ _ h]

theorem unit_tryWithdraw (u : Nat) (s : State) (v : Nat) : ∃ x, (tryWithdraw u s).unit v = { s.unit v with status := x } := by
  unfold tryWithdraw
  dsimp only
  split
  · exact ⟨_, rfl⟩
  · split
    · exact unit_setStatus _ _ _ v
    · split
      · exact unit_setStatus _ _ _ v
      · exact ⟨_, rfl⟩

theorem reopenWindows_wins (b : Nat) (s : State) : ∃ x, reopenWindows b s = { s with wins := x } := by
  unfold reopenWindows
  refine forEach_induct (P := fun t => ∃ x, t = { s with wins := x }) (fun w t ht => ?_) ⟨s.wins, rfl⟩
  obtain ⟨x, rfl⟩ := ht
  dsimp only
  split
  · exact ⟨_, rfl⟩
  · exact ⟨x, rfl⟩

theorem reopenWindowsOf_wins (u : Nat) (s : State) : ∃ x, (if u < 32 then reopenWindows u s else s) = { s with wins := x } := by
  split
  · exact reopenWindows_wins u s
  · exact ⟨s.wins, rfl⟩

/-- The unit at the end of its reset. -/
def resetDone (s : State) (x : UnitState) : UnitState :=
  { x with resetting := false, beat := 0, compared := 0, log := x.log.filter fun e => !tileAbandoned s e.ref
           replay := x.replay.filter fun e => !tileAbandoned s e.ref }

theorem exec_blockResetComplete {u : UnitRef} {s : State} (h : (s.unit u.id).resetting = true) (hd : s.drained = false) :
    exec (.blockResetComplete u) s = .next (tryWithdraw u.id
      (if u.id < 32 then reopenWindows u.id (s.setUnit u.id (resetDone s (s.unit u.id))) else s.setUnit u.id (resetDone s (s.unit u.id)))) := by
  simp [exec, execBlockResetComplete, h, hd, resetDone]

theorem blockResetComplete_effect {u : UnitRef} {s : State} (h : (s.unit u.id).resetting = true) (hd : s.drained = false) :
    ∃ t x, exec (.blockResetComplete u) s = .next t ∧ t.unit u.id = { resetDone s (s.unit u.id) with status := x } ∧ t.regs = s.regs
      ∧ { t with units := s.units, wins := s.wins } = s := by
  obtain ⟨w, hw⟩ := reopenWindowsOf_wins u.id (s.setUnit u.id (resetDone s (s.unit u.id)))
  obtain ⟨y, hy⟩ := tryWithdraw_units u.id { s.setUnit u.id (resetDone s (s.unit u.id)) with wins := w }
  obtain ⟨x, hx⟩ := unit_tryWithdraw u.id { s.setUnit u.id (resetDone s (s.unit u.id)) with wins := w } u.id
  refine ⟨_, x, (exec_blockResetComplete h hd).trans (congrArg _ ((congrArg _ hw).trans hy)), ?_, rfl, rfl⟩
  rw [← hy, hx]
  exact congrArg (fun v : UnitState => { v with status := x }) (State.unit_setUnit_self s u.id _)

/-! ## The Goose -/

theorem exec_gooseCompare {r : Fin 4} {codes scales : List Nat} {s : State} {x : Sample} {l : List Sample}
    (hg : (s.goose r.val).samples = x :: l) (hd : s.drained = false) :
    exec (.gooseCompare r ⟨codes, scales⟩) s = .next (
      let n := (s.setGoose r.val { s.goose r.val with samples := l }).bump (Reg.GOOSE_SAMPLES r.val)
      let m := raise Src.GOOSE_MISMATCH (.sample x.block.val x.ref) (markStation x.ref.g.val x.ref.station x.ref.frame Fsw.CHECK_MISMATCH n)
      if flipCodes codes (gooseOutput s x).1 = x.codes ∧ flipCodes scales (gooseOutput s x).2 = x.scales then n
      else if (s.unit x.block.val).resetting then m else occurrence Src.GOOSE_MISMATCH x.block.val m) := by
  simp only [exec, execGooseCompare, hg, hd, Bool.false_eq_true, if_false]
  congr 1
  split
  · rfl
  · cases (s.unit x.block.val).resetting <;> rfl

theorem flipCodes_nil (l : List Nat) : flipCodes [] l = l := by
  have h : ∀ x : Nat × Nat, x.1 ^^^ nth 0 [] x.2 = x.1 := fun x => Nat.xor_zero x.1
  simp only [flipCodes, h, List.zipIdx_map_fst]

/-- Settles O39. -/
theorem copiesAreComparedAndRestarted : Obligations.CopiesAreComparedAndRestarted := by
  unfold Obligations.CopiesAreComparedAndRestarted
  intro u r codes scales s
  refine ⟨?_, fun h hd => ?_, fun x l hg hd => ?_, flipCodes_nil⟩
  · intro v x y lx ly a b hp hv hx hy hd ha hb
    have hab : a ≠ b := by
      by_cases hc : isCopyA s u.id = true
      · simpa [a, b, hc] using hv.symm
      · simpa [a, b, hc] using hv
    have he := exec_pairCompare hp hd hx hy ha hb
    obtain ⟨ha1, hb1, hac, hbc, hal, hbl, ho, hrest⟩ := windowEqual_effect hab x.1 s
    refine ⟨fun hxy => ⟨_, he.trans (congrArg _ (if_pos hxy)), ?_, ?_, hac, hbc, hal, hbl, ho, hrest⟩, fun hxy => he.trans (congrArg _ (if_neg hxy))⟩
    · rw [ha1, hx, List.drop_one, List.tail_cons]
    · rw [hb1, hy, List.drop_one, List.tail_cons]
  · obtain ⟨t, x, he, hu, hr, hrest⟩ := blockResetComplete_effect h hd
    exact ⟨t, he, by rw [hu]; rfl, by rw [hu]; rfl, by rw [hu]; rfl, by rw [hu]; rfl, fun k => congrArg (fun m => sget dictDefault m k) hr, hrest⟩
  · rw [exec_gooseCompare hg hd]
    refine ⟨fun hc hk => congrArg _ (if_pos ⟨hc, hk⟩), fun hne => congrArg _ (if_neg fun h => hne.elim (absurd h.1) (absurd h.2))⟩

end Sys2Proof.Machine
end

section
/-! Monitors: stalls, bridges, pace, the core supply and temperatures (R37, R40, R42, R44, R545, R546, R550). -/

namespace Sys2Proof.Machine

open Sys2Proof

/-- The order in which the changed numbers are listed does not matter. -/
theorem Becomes.perm {s t u : State} {l m : List (Key × Nat)} (h : Becomes s t u l) (hp : l.Perm m) : Becomes s t u m :=
  ⟨fun p hm => h.values p (hp.mem_iff.2 hm), fun k hk => h.others k fun p hl => hk p (hp.mem_iff.1 hl), h.rest⟩

/-! ## Bridges -/

theorem exec_bridgeOverflow {d : Fin 40} (h : within d.val 16 34 = true ∨ d.val = 36) (q : Option (Fin 24)) (s : State) :
    exec (.bridgeOverflow d q) s = .next (raise Src.BRIDGE_OVERFLOW (.domain d.val) (countLoss d.val q s)) :=
  congrArg Host.Outcome.next (if_pos h)

theorem countLoss_none {d : Nat} (h : 26 ≤ d) (q : Option (Fin 24)) (s : State) : countLoss d q s = s := by
  have h1 : ¬ within d 16 21 = true := by simp [within]; omega
  have h2 : ¬ within d 23 25 = true := by simp [within]; omega
  rw [countLoss.eq_def, if_neg h1, if_neg (by omega), if_neg h2]

theorem countLoss_eth {d : Nat} (h1 : 23 ≤ d) (h2 : d ≤ 25) (q : Option (Fin 24)) (s : State) :
    countLoss d q s = s.bump (Reg.NET_RX_DISCARDED (d - 23)) := by
  have h3 : ¬ within d 16 21 = true := by simp [within]; omega
  have h4 : within d 23 25 = true := by simp [within]; omega
  rw [countLoss.eq_def, if_neg h3, if_neg (by omega), if_pos h4]

theorem countLoss_display {port : Fin 24} {s : State} (hp : port.val < 4) (ha : (s.dsp port.val).active = true)
    (hl : (s.dsp port.val).line < s.r (Reg.DSP_V_ACTIVE port.val)) :
    countLoss 22 (some port) s = underrun port.val s := by
  have h1 : ¬ within 22 16 21 = true := by decide
  rw [countLoss.eq_def, if_neg h1, if_pos rfl]
  exact if_pos ⟨hp, ha, hl⟩

/-- The frames in progress on the four ports of a camera group have been cut. -/
def cutGroup (g : Nat) (s : State) : State :=
  forEach (List.range 4) (fun k s => modCur (4 * g + k) (fun f => { f with truncated := true }) s) s

theorem countLoss_camera {d : Nat} (h : d < 22) (hd : 16 ≤ d) (q : Option (Fin 24)) (s : State) :
    countLoss d q s = loseGroup (d - 16) q s := by
  have h1 : within d 16 21 = true := by simp [within]; omega
  rw [countLoss.eq_def, if_pos h1]

theorem loseGroup_port {g : Nat} {p : Fin 24} (h : p.val / 4 = g) (s : State) : loseGroup g (some p) s = loseLine p.val (cutGroup g s) :=
  if_pos h

theorem r_cutGroup (g : Nat) (s : State) (k : Key) : (cutGroup g s).r k = s.r k :=
  forEach_induct (P := fun t : State => t.r k = s.r k) (fun _ _ h => h) rfl

/-- The frames on the first `n` ports of a group are cut after `n` rounds. -/
theorem truncated_cut (g n : Nat) (s : State) {q : Nat} (h1 : 4 * g ≤ q) (h2 : q < 4 * g + n) {f : CamFrame}
    (hf : ((forEach (List.range n) (fun k s => modCur (4 * g + k) (fun f => { f with truncated := true }) s) s).port q).cur = some f) :
    f.truncated = true := by
  induction n with
  | zero => omega
  | succ n ih =>
    rw [List.range_succ, forEach_append, forEach_cons, forEach_nil, modCur] at hf
    by_cases hq : q = 4 * g + n
    · subst hq
      rw [State.port_setPort_self] at hf
      obtain ⟨f0, -, rfl⟩ := Option.map_eq_some_iff.1 hf
      rfl
    · rw [State.port_setPort_of_ne _ _ hq] at hf
      exact ih (by omega) hf

theorem truncated_cutGroup {g q : Nat} (h : q / 4 = g) {s : State} {f : CamFrame} (hf : ((cutGroup g s).port q).cur = some f) :
    f.truncated = true :=
  truncated_cut g 4 s (by omega) (by omega) hf

/-! ## Pace, supply, temperature -/

/-- The start of the last whole pace window before now. -/
theorem paceStart_bounds {start now : Nat} (h : start + 1000 ≤ now) :
    now - (now - start) % 1000 ≤ now ∧ now < now - (now - start) % 1000 + 1000 ∧ start + 1000 ≤ now - (now - start) % 1000 := by
  omega

section
variable {m : Fin 5} {beats : Nat} {s : State}

theorem exec_paceGateWindow (hp : paced s = true) (h : sget dflt0 s.pace m.val + 1000 ≤ s.t3) :
    exec (.paceGateWindow m beats) s = .next (
      let s1 := ({ s with pace := sset dflt0 s.pace m.val (s.t3 - (s.t3 - sget dflt0 s.pace m.val) % 1000) } : State).setR
        (Reg.PACE_LIVE m.val) (min beats 0xFFFF)
      if beats < 1250 then s1.bump (Reg.PACE_LOW m.val) else s1) := by
  simp only [exec, execPaceGateWindow, hp, Bool.not_true, Bool.false_eq_true, false_or, if_neg (Nat.not_lt.2 h)]

theorem exec_paceGateWindow_early (h : paced s = false ∨ s.t3 < sget dflt0 s.pace m.val + 1000) :
    exec (.paceGateWindow m beats) s = .next s :=
  congrArg Host.Outcome.next (if_pos (h.imp_left fun h => by rw [h]; rfl))

theorem paceGateWindow_effect (hp : paced s = true) (h : sget dflt0 s.pace m.val + 1000 ≤ s.t3) :
    ∃ t, exec (.paceGateWindow m beats) s = .next t
      ∧ sget dflt0 t.pace m.val = s.t3 - (s.t3 - sget dflt0 s.pace m.val) % 1000
      ∧ (1250 ≤ beats → Becomes s t { s with pace := t.pace } [(Reg.PACE_LIVE m.val, min beats 0xFFFF)])
      ∧ (beats < 1250 → Becomes s t { s with pace := t.pace }
          [(Reg.PACE_LIVE m.val, beats), (Reg.PACE_LOW m.val, s.oneMore (Reg.PACE_LOW m.val))]) := by
  have hkey : Reg.PACE_LIVE m.val ≠ Reg.PACE_LOW m.val := by grind
  have hlive (c : SMap Nat) (v : Nat) : Becomes s (({ s with pace := c } : State).setR (Reg.PACE_LIVE m.val) v) { s with pace := c }
      [(Reg.PACE_LIVE m.val, v)] := (Becomes.setR { s with pace := c } _ v).of_regs rfl
  rw [exec_paceGateWindow hp h]
  by_cases hb : beats < 1250
  · refine ⟨_, congrArg _ (if_pos hb), sget_sset_self _ _ _ _, fun h => absurd hb (Nat.not_lt.2 h), fun _ => ?_⟩
    have hmin : min beats 0xFFFF = beats := by omega
    rw [hmin]
    exact ((hlive _ _).consBump fun p hp => by rw [List.mem_singleton.1 hp]; exact hkey).perm (List.Perm.swap ..)
  · exact ⟨_, congrArg _ (if_neg hb), sget_sset_self _ _ _ _, fun _ => hlive _ _, fun h => absurd h hb⟩

end

/-- The next supply voltage: a step of 5 mV up when the slowest gate is too slow, one down when it is too fast. -/
def nextVolts (low set v : Nat) : Nat := if low + 25 < set then min 850 (v + 5) else if set + 25 < low then max 650 (v - 5) else v

/-- The slowest pace gate. -/
def slowest (s : State) : Nat := (List.range 5).foldl (fun m n => min m (s.r (Reg.PACE_LIVE n))) (s.r (Reg.PACE_LIVE 0))

theorem slowest_le {s : State} {i : Nat} (h : i < 5) : slowest s ≤ s.r (Reg.PACE_LIVE i) := by
  simp only [slowest, List.range_succ, List.range_zero, List.nil_append, List.cons_append, List.foldl_cons, List.foldl_nil]
  interval_cases i <;> simp

theorem le_slowest {s : State} {a : Nat} (h : ∀ i, i < 5 → a ≤ s.r (Reg.PACE_LIVE i)) : a ≤ slowest s := by
  have h0 := h 0; have h1 := h 1; have h2 := h 2; have h3 := h 3; have h4 := h 4
  simp only [slowest, List.range_succ, List.range_zero, List.nil_append, List.cons_append, List.foldl_cons, List.foldl_nil, le_min_iff]
  simp_all

theorem nextVolts_bounds {low set v : Nat} (h1 : 650 ≤ v) (h2 : v ≤ 850) :
    650 ≤ nextVolts low set v ∧ nextVolts low set v ≤ 850 ∧ nextVolts low set v ≤ v + 5 ∧ v ≤ nextVolts low set v + 5
    ∧ (set ≤ low + 25 → nextVolts low set v ≤ v) ∧ (low ≤ set + 25 → v ≤ nextVolts low set v) := by
  unfold nextVolts
  split
  · omega
  · split <;> omega

section
variable {volts amps : BitVec 16} {s : State} (hc : corePowered s = true)
include hc

theorem exec_avsLoopStep_bad : exec (.avsLoopStep false volts amps) s = .next (s.bump Reg.AVS_ERRORS) := by
  simp [exec, execAvsLoopStep, hc]

theorem exec_avsLoopStep_good : exec (.avsLoopStep true volts amps) s = .next (
    let n := nextVolts (slowest s) (s.r Reg.PACE_SET) (s.r Reg.CORE_V_REQ)
    let s1 := ((s.setR Reg.CORE_V_REQ n).setR Reg.CORE_V_READ volts.toNat).setR Reg.CORE_I_READ amps.toNat
    if n = s.r Reg.CORE_V_REQ then s1 else s1.emit (.avs n)) := by
  simp only [exec, execAvsLoopStep, hc, Bool.not_true, Bool.false_eq_true, if_false]
  rfl

theorem avsLoopStep_effect : ∃ t n, exec (.avsLoopStep true volts amps) s = .next t
    ∧ n = nextVolts (slowest s) (s.r Reg.PACE_SET) (s.r Reg.CORE_V_REQ)
    ∧ Becomes s t (if n = s.r Reg.CORE_V_REQ then s else s.emit (.avs n))
        [(Reg.CORE_V_REQ, n), (Reg.CORE_V_READ, volts.toNat), (Reg.CORE_I_READ, amps.toNat)] := by
  have hset (n : Nat) : Becomes s (((s.setR Reg.CORE_V_REQ n).setR Reg.CORE_V_READ volts.toNat).setR Reg.CORE_I_READ amps.toNat) s
      [(Reg.CORE_V_REQ, n), (Reg.CORE_V_READ, volts.toNat), (Reg.CORE_I_READ, amps.toNat)] :=
    (((Becomes.setR s Reg.CORE_V_REQ n).cons (k := Reg.CORE_V_READ) (by simp) _).cons (k := Reg.CORE_I_READ) (by simp) _).perm
      (List.reverse_perm [_, _, _]).symm
  refine ⟨_, _, exec_avsLoopStep_good hc, rfl, ?_⟩
  dsimp only
  split
  · exact hset _
  · obtain ⟨hv, ho, hr⟩ := hset (nextVolts (slowest s) (s.r Reg.PACE_SET) (s.r Reg.CORE_V_REQ))
    exact ⟨hv, ho, rfl⟩

end

/-- The junction temperatures have been stored, their maximum `m` kept and `n` high ones counted. -/
structure TemperaturesRead (l : List Int) (m n : Nat) (s t : State) : Prop where
  live : ∀ i (h : i < l.length), t.r (Reg.TJ_LIVE i) = unsigned 16 l[i]
  max : t.r Reg.TJ_MAX = m
  high : t.r Reg.TJ_HIGH = min (dictMax Reg.TJ_HIGH) (s.r Reg.TJ_HIGH + n)
  rest : t = s.withRegs t.regs

theorem exec_temperatureRead {l : List Int} (hl : l.length = 5) {s : State} (hc : corePowered s = true) :
    exec (.temperatureRead l) s = .next (
      ((forEach l.zipIdx (fun x s => s.setR (Reg.TJ_LIVE x.2) (unsigned 16 x.1)) s).setR Reg.TJ_MAX
        (unsigned 16 (l.foldl max (s.rI 16 Reg.TJ_MAX)))).bumpBy Reg.TJ_HIGH (l.filter fun x => decide (110 < x)).length) := by
  simp only [exec, execTemperatureRead, hc, Bool.not_true, Bool.false_eq_true, if_false, List.take_of_length_le hl.le]

theorem temperatureRead_effect (t0 t1 t2 t3 t4 : Int) {s : State} (hc : corePowered s = true) :
    ∃ t, exec (.temperatureRead [t0, t1, t2, t3, t4]) s = .next t
      ∧ TemperaturesRead [t0, t1, t2, t3, t4] (unsigned 16 ([t0, t1, t2, t3, t4].foldl max (s.rI 16 Reg.TJ_MAX)))
          (([t0, t1, t2, t3, t4].filter fun x => decide (110 < x)).length) s t := by
  refine ⟨_, exec_temperatureRead rfl hc, fun i h => ?_, ?_, ?_, rfl⟩
  · have hi : i < 5 := h
    rw [State.bumpBy, State.r_setR_of_ne _ (by grind), State.r_setR_of_ne _ (by grind)]
    interval_cases i <;> simp [State.r_setR]
  · exact (State.r_setR_of_ne _ (by decide) _).trans (State.r_setR_self _ _ _)
  · refine (State.r_setR_self _ _ _).trans ?_
    rw [State.r_setR_of_ne _ (by decide)]
    simp [State.r_setR, Reg.TJ_HIGH, Reg.TJ_LIVE]

/-- Settles O49. -/
theorem monitorsReportWhatTheyMeasure : Obligations.MonitorsReportWhatTheyMeasure := by
  unfold Obligations.MonitorsReportWhatTheyMeasure
  intro w waited d port m beats avsOk volts amps t0 t1 t2 t3 t4 s
  refine ⟨fun h => congrArg Host.Outcome.next (if_neg fun hc => absurd hc.1 (Nat.not_lt.2 h)),
    fun h ht => congrArg Host.Outcome.next (if_pos ⟨h, by rw [ht]; rfl⟩), fun h q => ?_, fun h1 h2 q => ?_, fun hd hp ha hl => ?_,
    fun h q => ?_, fun hd => ?_, ?_, fun hc => ⟨⟨_, exec_avsLoopStep_bad hc, .bump s _⟩, ?_, ?_⟩, fun hc => ?_⟩
  · rw [exec_bridgeOverflow (by simp [within]; omega), countLoss_none (by omega)]
  · rw [exec_bridgeOverflow (by simp [within]; omega), countLoss_eth h1 h2]
  · rw [exec_bridgeOverflow (by simp [within]; omega), hd, countLoss_display hp ha hl]
    rfl
  · exact congrArg Host.Outcome.next (if_neg (by simp [within]; omega))
  · have hgroup : d.val < 22 ∧ 16 ≤ d.val ∧ port.val / 4 = d.val - 16 := by omega
    obtain ⟨h22, h16, hg⟩ := hgroup
    refine ⟨?_, ?_, fun q f hq hf => truncated_cutGroup (hq.trans hg) hf, r_cutGroup _ s⟩
    · rw [exec_bridgeOverflow (by simp [within]; omega), countLoss_camera h22 h16, loseGroup_port hg]
      rfl
    · rw [exec_bridgeOverflow (by simp [within]; omega), countLoss_camera h22 h16]
      rfl
  · refine ⟨fun hp h => ?_, exec_paceGateWindow_early⟩
    obtain ⟨t, he, hstart, hrest⟩ := paceGateWindow_effect (m := m) (beats := beats) hp h
    obtain ⟨b1, b2, b3⟩ := paceStart_bounds h
    rw [← hstart] at b1 b2 b3
    exact ⟨t, he, b1, b2, b3, hrest⟩
  · intro v h1 h2
    obtain ⟨t, n, he, hn, hb⟩ := avsLoopStep_effect (volts := volts) (amps := amps) hc
    obtain ⟨b1, b2, b3, b4, hslow, hfast⟩ := nextVolts_bounds (low := slowest s) (set := s.r Reg.PACE_SET) h1 h2
    rw [← hn] at b1 b2 b3 b4 hslow hfast
    refine ⟨t, n, he, b1, b2, b3, b4, fun h => hslow ?_, fun ⟨i, hi, h⟩ => hfast ((slowest_le hi).trans h), hb⟩
    exact Nat.sub_le_iff_le_add.1 (le_slowest fun i hi => Nat.sub_le_iff_le_add.2 (h i hi))
  · obtain ⟨t, he, hlive, hmax, hhigh, hrest⟩ := temperatureRead_effect t0 t1 t2 t3 t4 hc
    exact ⟨t, he, hlive, hmax, hhigh, hrest⟩
  · constructor <;> simp [exec, execAvsLoopStep, execTemperatureRead, hc]

end Sys2Proof.Machine
end

section
/-! Camera ports (R262 to R271), tunnelled I2C and point-cloud streams (R279 to R283). -/

namespace Sys2Proof.Machine

open Sys2Proof

/-! ## What storing data leaves alone -/

/-- The camera ports and every entry below those of graphs and memories are as they were. -/
structure SameIngest (s t : State) : Prop where
  ports : t.ports = s.ports
  values : ∀ k : Nat, k < 0x300000 → t.r k = s.r k

theorem SameIngest.refl (s : State) : SameIngest s s := ⟨rfl, fun _ _ => rfl⟩

section
variable {s t u : State}

theorem SameIngest.port (h : SameIngest s t) (p : Nat) : t.port p = s.port p := by simp only [State.port, h.ports]

theorem SameIngest.trans (h : SameIngest s t) (h' : SameIngest t u) : SameIngest s u :=
  ⟨h'.ports.trans h.ports, fun k hk => (h'.values k hk).trans (h.values k hk)⟩

theorem SameIngest.setR (h : SameIngest s t) {k : Nat} (hk : 0x300000 ≤ k) (v : Nat) : SameIngest s (t.setR k v) :=
  ⟨h.ports, fun j hj => (State.r_setR_of_ne t (Nat.ne_of_lt (hj.trans_le hk)) v).trans (h.values j hj)⟩

theorem SameIngest.bump (h : SameIngest s t) {k : Nat} (hk : 0x300000 ≤ k) : SameIngest s (t.bump k) := h.setR hk _
theorem SameIngest.bumpBy (h : SameIngest s t) {k : Nat} (hk : 0x300000 ≤ k) (n : Nat) : SameIngest s (t.bumpBy k n) := h.setR hk _

/-- A raise writes no entry of the ingest, or below it. -/
theorem raiseKey_low {k : Nat} (h : k < 0x300000) : raiseKey k = false := by
  have hindex (i : Nat) (hi : i < 0x3000) : ([0x5000, 0x5001, 0x5003, 0x5014, 0x4021, 0x5037, 0x5013, 0x5011, 0x5012, 0x5031, 0x5033,
      0x5038].contains i || (decide (0x6200 ≤ i) && decide (i ≤ 0x620F)) || decide (0x6800 ≤ i)) = false := by
    simp
    omega
  exact hindex (k / 256) (by omega)

theorem SameIngest.raise (h : SameIngest s t) {src : Nat} (hs : src < 256) (who : Ident) : SameIngest s (raise src who t) := by
  have hr := reacts_raise (.refl t) hs who
  exact h.trans ⟨hr.ports, fun k hk => hr.values k (raiseKey_low hk)⟩

theorem SameIngest.countRead (h : SameIngest s t) (g : Option (Fin 64)) (cls : Nat) : SameIngest s (countRead g cls t) := by
  have h1 : SameIngest s (t.bumpBy (Reg.DRAM_CLASS cls) 32) := h.bumpBy (by grind) 32
  cases g with
  | none => exact h1
  | some x => exact h1.bumpBy (k := Reg.DRAM_READ x.val) (by grind) 32

theorem SameIngest.countWrite (h : SameIngest s t) (g : Option (Fin 64)) (cls : Nat) : SameIngest s (countWrite g cls t) := by
  have h1 : SameIngest s (t.bumpBy (Reg.DRAM_CLASS cls) 32) := h.bumpBy (by grind) 32
  cases g with
  | none => exact h1
  | some x => exact h1.bumpBy (k := Reg.DRAM_WRITE x.val) (by grind) 32

theorem SameIngest.readBurst (h : SameIngest s t) (n : Nat) (err : BurstErr) : SameIngest s (readBurst n err t).2 := by
  have h1 : SameIngest s (t.setBurstErr n (mergeErr (t.burstErr n) err)) := ⟨h.ports, h.values⟩
  unfold Machine.readBurst
  dsimp only
  split
  · exact h1
  · exact (h1.bump (k := Reg.DRAM_CORR _) (by grind)).raise (by decide) _
  · exact (h1.bump (k := Reg.DRAM_UNCORR _) (by grind)).raise (by decide) _

theorem SameIngest.writeBurst (h : SameIngest s t) (a : Nat) (b : Bytes) (g : Option (Fin 64)) (cls : Nat) (err : BurstErr) :
    SameIngest s (writeBurst a b g cls err t) := by
  have hread := (h.countRead g cls).readBurst (a / 32) err
  unfold Machine.writeBurst
  dsimp only
  split
  · exact h
  · split
    · exact ⟨(h.countWrite g cls).ports, (h.countWrite g cls).values⟩
    · split
      next e => rw [e] at hread; exact hread
      next s1 _ e =>
        rw [e] at hread
        exact ⟨(hread.countWrite g cls).ports, (hread.countWrite g cls).values⟩

theorem SameIngest.writeBursts (n : Nat) (cls : Nat) : ∀ (_ : SameIngest s t) (a : Nat) (b : Bytes), SameIngest s (writeBursts n a b cls t) := by
  induction n generalizing t with
  | zero => exact fun h _ _ => h
  | succ n ih =>
    intro h a b
    rw [Machine.writeBursts]
    split
    · exact h
    · exact ih (h.writeBurst _ _ _ _ _) _ _

theorem SameIngest.writeBack (h : SameIngest s t) (r : Nat) (l : CacheLine) (skip : List Nat) : SameIngest s (writeBack r l skip t) := by
  refine forEach_induct (P := SameIngest s) (fun i u hu => ?_) h
  split
  · exact (hu.writeBurst _ _ _ _ _).bump (k := Reg.RC_WRITEBACKS r) (by grind)
  · exact hu

theorem SameIngest.invalidateLine (h : SameIngest s t) (r a : Nat) (covered : List Nat) : SameIngest s (invalidateLine r a covered t) := by
  unfold Machine.invalidateLine
  dsimp only
  split
  · have h1 := h.writeBack r (nth emptyLine (t.set (setKey r a)) ‹Nat›) covered
    exact ⟨h1.ports, h1.values⟩
  · exact h

theorem SameIngest.outsideWrite (h : SameIngest s t) (a : Nat) (b : Bytes) (cls : Nat) : SameIngest s (outsideWrite a b cls t) := by
  unfold Machine.outsideWrite
  split
  · exact h
  · exact SameIngest.writeBursts _ _ (forEach_induct (P := SameIngest s) (fun _ _ hu =>
      forEach_induct (P := SameIngest s) (fun _ _ hv => hv.invalidateLine _ _ _) hu) h) _ _

theorem SameIngest.ringLine (h : SameIngest s t) (f : CamFrame) (b : Bytes) : SameIngest s (ringLine f b t) := by
  unfold Machine.ringLine
  split
  · exact h.outsideWrite _ _ _
  · exact h

theorem SameIngest.rawLine (h : SameIngest s t) (f : CamFrame) (emb : Bool) (b : Bytes) : SameIngest s (rawLine f emb b t) := by
  unfold Machine.rawLine
  split
  · exact h.outsideWrite _ _ _
  · exact h

end

/-! ## The frame in progress -/

section
variable (p : Nat) (g : CamFrame → CamFrame) (s : State)

@[simp] theorem r_modCur (k : Key) : (modCur p g s).r k = s.r k := rfl

@[simp] theorem port_modCur_self : (modCur p g s).port p = { s.port p with cur := (s.port p).cur.map g } := State.port_setPort_self _ _ _

theorem port_modCur_of_ne {q : Nat} (h : q ≠ p) : (modCur p g s).port q = s.port q := State.port_setPort_of_ne _ _ h

theorem port_modCur_of_none (h : (s.port p).cur = none) (q : Nat) : (modCur p g s).port q = s.port q := by
  by_cases hq : q = p
  · subst hq
    rw [port_modCur_self, h, Option.map_none, ← h]
  · exact port_modCur_of_ne p g s hq

theorem modCur_rest : { modCur p g s with ports := s.ports } = s := rfl

end

@[simp] theorem port_setR (s : State) (k : Key) (v q : Nat) : (s.setR k v).port q = s.port q := rfl
@[simp] theorem port_bump (s : State) (k : Key) (q : Nat) : (s.bump k).port q = s.port q := rfl

section
variable {p : Nat} {s : State}

theorem loseLine_of_none (h : (s.port p).cur = none) : loseLine p s = s := by simp [loseLine, h]

theorem loseLine_of_some {f : CamFrame} (h : (s.port p).cur = some f) :
    loseLine p s = modCur p (fun f => { f with truncated := true }) (s.bump (Reg.CAM_LINES_LOST p)) := by simp [loseLine, h]

theorem lostPacket_of_none (h : (s.port p).cur = none) : lostPacket p s = modCur p (fun f => { f with linkErr := true }) s :=
  loseLine_of_none (by rw [port_modCur_self, h]; rfl)

theorem cur_lostPacket {f : CamFrame} (h : (s.port p).cur = some f) :
    ((lostPacket p s).port p).cur = some { f with linkErr := true, truncated := true } := by
  rw [lostPacket, loseLine_of_some (by rw [port_modCur_self, h]; rfl), port_modCur_self, port_bump, port_modCur_self, h]
  rfl

/-- A lost long packet loses the line it carried to the frame in progress. -/
theorem lostPacket_of_some {f : CamFrame} (h : (s.port p).cur = some f) : ∃ x, lostPacket p s
    = { s.bump (Reg.CAM_LINES_LOST p) with ports := x } :=
  ⟨_, loseLine_of_some (by rw [port_modCur_self, h]; rfl)⟩

end

/-! ## Packets -/

/-- A packet has been checked at port `p`: what a corrected header and a wrong payload count and mark, and the time of the last packet. -/
structure PacketChecked (p : Nat) (vc : Fin 16) (crcOk corr : Bool) (s t : State) : Prop where
  header : t.r (Reg.CAM_HDR_CORR p) = if corr then s.oneMore (Reg.CAM_HDR_CORR p) else s.r (Reg.CAM_HDR_CORR p)
  payload : t.r (Reg.CAM_CRC_ERR p) = if crcOk then s.r (Reg.CAM_CRC_ERR p) else s.oneMore (Reg.CAM_CRC_ERR p)
  values : ∀ k, k ≠ Reg.CAM_HDR_CORR p → k ≠ Reg.CAM_CRC_ERR p → t.r k = s.r k
  last : (t.port p).lastPkt = if vc.val = s.r (Reg.CAM_VC p) then s.t3 else (s.port p).lastPkt
  cur : (t.port p).cur = (s.port p).cur.map fun f => if !crcOk ∨ corr then { f with linkErr := true } else f
  rest : { t with regs := s.regs, ports := s.ports } = s

/-- The header's check alone: a packet whose payload is good. -/
theorem touchPort_spec (p : Nat) (vc : Fin 16) (corr : Bool) (s : State) :
    (touchPort p vc corr s).r (Reg.CAM_HDR_CORR p) = (if corr then s.oneMore (Reg.CAM_HDR_CORR p) else s.r (Reg.CAM_HDR_CORR p))
    ∧ (∀ k, k ≠ Reg.CAM_HDR_CORR p → (touchPort p vc corr s).r k = s.r k)
    ∧ ((touchPort p vc corr s).port p).lastPkt = (if vc.val = s.r (Reg.CAM_VC p) then s.t3 else (s.port p).lastPkt)
    ∧ ((touchPort p vc corr s).port p).cur = (s.port p).cur
    ∧ { touchPort p vc corr s with regs := s.regs, ports := s.ports } = s := by
  have hcount (u : State) (hu : u.regs = s.regs) (hc : (u.port p).cur = (s.port p).cur) (hrest : { u with ports := s.ports } = s) :
      let t := if corr then u.bump (Reg.CAM_HDR_CORR p) else u
      t.r (Reg.CAM_HDR_CORR p) = (if corr then s.oneMore (Reg.CAM_HDR_CORR p) else s.r (Reg.CAM_HDR_CORR p))
      ∧ (∀ k, k ≠ Reg.CAM_HDR_CORR p → t.r k = s.r k) ∧ (t.port p).lastPkt = (u.port p).lastPkt ∧ (t.port p).cur = (s.port p).cur
      ∧ { t with regs := s.regs, ports := s.ports } = s := by
    have hr : ∀ k, u.r k = s.r k := State.r_congr hu
    cases corr with
    | false => exact ⟨hr _, fun k _ => hr k, rfl, hc, (congrArg (fun v : State => ({ v with regs := s.regs } : State)) hrest :)⟩
    | true =>
      exact ⟨(State.r_setR_self _ _ _).trans (by rw [hr]; rfl), fun k hk => (State.r_bump_of_ne _ hk).trans (hr k), rfl, hc,
        (congrArg (fun v : State => ({ v with regs := s.regs } : State)) hrest :)⟩
  by_cases hv : vc.val = s.r (Reg.CAM_VC p)
  · have h := hcount (s.setPort p { s.port p with lastPkt := s.t3 }) rfl (by rw [State.port_setPort_self]) rfl
    rw [State.port_setPort_self] at h
    rw [touchPort, if_pos hv, if_pos hv]
    exact h
  · rw [touchPort, if_neg hv, if_neg hv]
    exact hcount s rfl rfl rfl

theorem packetChecked (p : Nat) (vc : Fin 16) (crcOk corr : Bool) (s : State) :
    PacketChecked p vc crcOk corr s (markLink p crcOk corr (touchPort p vc corr s)) := by
  obtain ⟨hhdr, hval, hlast, hcur, hrest⟩ := touchPort_spec p vc corr s
  have hkey : Reg.CAM_HDR_CORR p ≠ Reg.CAM_CRC_ERR p := by grind
  have hcrc : (touchPort p vc corr s).r (Reg.CAM_CRC_ERR p) = s.r (Reg.CAM_CRC_ERR p) := hval _ hkey.symm
  generalize touchPort p vc corr s = u at *
  have hmark (g : CamFrame → CamFrame) : ((u.port p).cur.map g) = (s.port p).cur.map g := by rw [hcur]
  cases crcOk with
  | false =>
    have heq : markLink p false corr u = modCur p (fun f => { f with linkErr := true }) (u.bump (Reg.CAM_CRC_ERR p)) := by simp [markLink]
    rw [heq]
    refine ⟨(State.r_bump_of_ne u hkey).trans hhdr, ?_, fun k h1 h2 => (State.r_bump_of_ne u h2).trans (hval k h1), ?_, ?_, hrest⟩
    · rw [r_modCur]
      exact (State.r_setR_self _ _ _).trans (by rw [hcrc]; rfl)
    · rw [port_modCur_self]
      exact hlast
    · rw [port_modCur_self]
      simpa using hmark _
  | true =>
    cases corr with
    | false =>
      have heq : markLink p true false u = u := by simp [markLink]
      rw [heq]
      refine ⟨hhdr, hcrc, fun k h1 _ => hval k h1, hlast, ?_, hrest⟩
      simpa using hcur
    | true =>
      refine ⟨hhdr, hcrc, fun k h1 _ => hval k h1, ?_, ?_, hrest⟩
      · exact (congrArg CamPort.lastPkt (port_modCur_self _ _ _)).trans hlast
      · exact (congrArg CamPort.cur (port_modCur_self _ _ _)).trans (by simpa using hmark _)

theorem exec_headerUncorrectable {p : Fin 24} {s : State} (h : portUp s p.val = true) (b : Bool) :
    exec (.headerUncorrectable p b) s = .next (
      let m := modCur p.val (fun f => { f with linkErr := true }) (s.bump (Reg.CAM_HDR_UNCORR p.val))
      if b then lostPacket p.val m else m) :=
  congrArg Host.Outcome.next (if_pos h)

theorem exec_otherPacket {p : Fin 24} {s : State} (h : portUp s p.val = true) (vc : Fin 16) (dataType : Fin 64) (corr crcOk : Bool) :
    exec (.otherPacket p ⟨vc, dataType, corr⟩ crcOk) s = .next (
      let t := markLink p.val crcOk corr (touchPort p.val vc corr s)
      if vc.val = s.r (Reg.CAM_VC p.val) ∧ within dataType.val 2 3 then t else t.bump (Reg.CAM_OTHER_DROP p.val)) :=
  congrArg Host.Outcome.next (if_pos h)

theorem becomes_linkTrainingComplete (p : Nat) (lat : Nat) (x : CamPort) (s : State) :
    Becomes s (((s.setR (Reg.CAM_LINK_STATE p) 2).setR (Reg.CAM_FSYNC_LATENCY p) lat).setPort p x) (s.setPort p x)
      [(Reg.CAM_LINK_STATE p, 2), (Reg.CAM_FSYNC_LATENCY p, lat)] := by
  have h := ((Becomes.setR s (Reg.CAM_LINK_STATE p) 2).cons (k := Reg.CAM_FSYNC_LATENCY p)
    (fun q hq => by rw [List.mem_singleton.1 hq]; grind) lat).perm (List.Perm.swap ..)
  exact ⟨h.values, h.others, rfl⟩

/-- Settles O50. -/
theorem cameraLinksCarryPackets : Obligations.CameraLinksCarryPackets := by
  unfold Obligations.CameraLinksCarryPackets
  intro p lat vc dataType b crcOk corr s
  have hkey : Reg.CAM_LINES_LOST p.val ≠ Reg.CAM_HDR_UNCORR p.val := by grind
  refine ⟨fun he hl => ⟨_, congrArg Host.Outcome.next (if_pos ⟨he, hl⟩), becomes_linkTrainingComplete p.val _ _ s⟩, fun hd => ?_,
    fun hu => ⟨congrArg Host.Outcome.next (if_pos hu), ⟨_, congrArg Host.Outcome.next (if_pos hu), .bump s _⟩, fun hc => ⟨?_, ?_⟩,
    fun f hf => ⟨?_, ?_, ?_⟩, ?_⟩⟩
  · have hd' : ¬ portUp s p.val = true := by simp [hd]
    exact ⟨congrArg _ (if_neg hd'), congrArg _ (if_neg hd'), congrArg _ (if_neg hd'), congrArg _ (if_neg hd'), congrArg _ (if_neg hd')⟩
  · refine ⟨_, congrArg Host.Outcome.next (if_pos hu), ?_⟩
    rw [lostPacket_of_none hc]
    exact ⟨fun _ => rfl, port_modCur_of_none _ _ _ hc, rfl⟩
  · have hm : ((modCur p.val (fun f => { f with linkErr := true }) (s.bump (Reg.CAM_HDR_UNCORR p.val))).port p.val).cur = none := by
      rw [port_modCur_self, port_bump, hc]; rfl
    refine ⟨_, exec_headerUncorrectable hu b, ?_⟩
    cases b with
    | false => exact ⟨State.r_setR_self _ _ _, fun k hk => State.r_bump_of_ne s hk, port_modCur_of_none _ _ _ hc⟩
    | true =>
      dsimp only
      rw [if_pos rfl, lostPacket_of_none hm]
      exact ⟨State.r_setR_self _ _ _, fun k hk => State.r_bump_of_ne s hk,
        fun q => (port_modCur_of_none _ _ _ hm q).trans (port_modCur_of_none _ _ _ hc q)⟩
  · obtain ⟨x, hx⟩ := lostPacket_of_some hf
    refine ⟨_, congrArg Host.Outcome.next (if_pos hu), cur_lostPacket hf, ?_⟩
    rw [hx]
    exact ⟨State.r_setR_self s _ _, fun k hk => State.r_bump_of_ne s hk, rfl⟩
  · refine ⟨_, exec_headerUncorrectable hu false, ?_, State.r_setR_self _ _ _, fun k hk => State.r_bump_of_ne s hk⟩
    exact (congrArg CamPort.cur (port_modCur_self _ _ _)).trans (by rw [port_bump, hf]; rfl)
  · have hm : ((modCur p.val (fun f => { f with linkErr := true }) (s.bump (Reg.CAM_HDR_UNCORR p.val))).port p.val).cur
        = some { f with linkErr := true } := by
      rw [port_modCur_self, port_bump, hf]; rfl
    obtain ⟨x, hx⟩ := lostPacket_of_some hm
    refine ⟨_, (exec_headerUncorrectable hu true).trans (congrArg _ (if_pos rfl)), (cur_lostPacket hm :), ?_⟩
    rw [hx]
    exact ⟨(State.r_bump_of_ne _ hkey.symm).trans (State.r_setR_self s _ _),
      (State.r_setR_self _ _ _).trans (by rw [r_modCur, State.r_bump_of_ne _ hkey]; rfl)⟩
  · have hp := packetChecked p.val vc crcOk corr s
    have hdrop : ∀ k, k = Reg.CAM_HDR_CORR p.val ∨ k = Reg.CAM_CRC_ERR p.val → k ≠ Reg.CAM_OTHER_DROP p.val := by grind
    have hother := hp.values (Reg.CAM_OTHER_DROP p.val) (hdrop _ (.inl rfl)).symm (hdrop _ (.inr rfl)).symm
    intro ignored
    rw [exec_otherPacket hu]
    generalize markLink p.val crcOk corr (touchPort p.val vc corr s) = u at *
    have hlast1 (h : vc.val = s.r (Reg.CAM_VC p.val)) : (u.port p.val).lastPkt = s.t3 := hp.last.trans (if_pos h)
    have hlast2 (h : vc.val ≠ s.r (Reg.CAM_VC p.val)) : (u.port p.val).lastPkt = (s.port p.val).lastPkt := hp.last.trans (if_neg h)
    have hiff : ignored ↔ vc.val = s.r (Reg.CAM_VC p.val) ∧ within dataType.val 2 3 = true := by simp [ignored, within]
    by_cases hi : ignored
    · exact ⟨u, congrArg _ (if_pos (hiff.1 hi)), fun _ => hother, fun h => absurd hi h, hp.header, hp.payload,
        fun k _ h1 h2 => hp.values k h1 h2, hlast1, hlast2, hp.cur, hp.rest⟩
    · refine ⟨u.bump (Reg.CAM_OTHER_DROP p.val), congrArg _ (if_neg fun h => hi (hiff.2 h)), fun h => absurd h hi, fun _ => ?_,
        (State.r_bump_of_ne u (hdrop _ (.inl rfl))).trans hp.header, (State.r_bump_of_ne u (hdrop _ (.inr rfl))).trans hp.payload,
        fun k h0 h1 h2 => (State.r_bump_of_ne u h0).trans (hp.values k h1 h2), hlast1, hlast2, hp.cur, hp.rest⟩
      exact (State.r_setR_self _ _ _).trans (by rw [hother]; rfl)

end Sys2Proof.Machine
end

section
/-! Camera frames and their lines (R265 to R271), tunnelled I2C (R279), point-cloud streams (R280 to R283). -/

namespace Sys2Proof.Machine

open Sys2Proof

/-! ## Packets with a good header -/

section
variable {p : Nat} {vc : Fin 16} {s : State}

theorem touchPort_other (h : vc.val ≠ s.r (Reg.CAM_VC p)) : touchPort p vc false s = s := by simp [touchPort, h]

theorem touchPort_ports (p : Nat) (vc : Fin 16) (s : State) : ∃ x, touchPort p vc false s = { s with ports := x } := by
  by_cases h : vc.val = s.r (Reg.CAM_VC p)
  · exact ⟨_, by simp [touchPort, h, State.setPort]; rfl⟩
  · exact ⟨s.ports, by rw [touchPort_other h]⟩

theorem cur_touchPort (p : Nat) (vc : Fin 16) (corr : Bool) (s : State) : ((touchPort p vc corr s).port p).cur = (s.port p).cur := by
  obtain ⟨-, -, -, hcur, -⟩ := touchPort_spec p vc corr s
  exact hcur

theorem markLink_good (p : Nat) (s : State) : markLink p true false s = s := by simp [markLink]

theorem markLink_corrected (p : Nat) (s : State) : markLink p true true s = modCur p (fun f => { f with linkErr := true }) s := by
  simp [markLink]

theorem markLink_wrong (p : Nat) (corr : Bool) (s : State) :
    markLink p false corr s = modCur p (fun f => { f with linkErr := true }) (s.bump (Reg.CAM_CRC_ERR p)) := by
  simp [markLink]

end

/-! ## A line of a frame in progress -/

section
variable {p : Nat} {f : CamFrame} {bytes : Bytes} {s : State} (hf : (s.port p).cur = some f)
include hf

theorem storeLine_spec (emb : Bool) :
    ((storeLine p emb bytes s).port p).cur = some (if emb then { f with emb := f.emb ++ [bytes], dataCrc := bytes.foldl crcByte f.dataCrc }
      else { f with pix := f.pix ++ [bytes], dataCrc := bytes.foldl crcByte f.dataCrc })
    ∧ ∀ k : Nat, k < 0x300000 → (storeLine p emb bytes s).r k = s.r k := by
  have h := ((SameIngest.refl s).ringLine f bytes).rawLine f emb bytes
  simp only [storeLine, hf]
  refine ⟨?_, h.values⟩
  rw [port_modCur_self, h.port, hf]
  rfl

theorem loseLine_spec : ∃ x, loseLine p s = { s.bump (Reg.CAM_LINES_LOST p) with ports := x }
    ∧ ((loseLine p s).port p).cur = some { f with truncated := true } :=
  ⟨_, loseLine_of_some hf, by rw [loseLine_of_some hf, port_modCur_self, port_bump, hf]; rfl⟩

omit hf in
theorem takePixelLine_stored (hl : bytes.length = lineBytes f.params) (ht : f.truncated = false) (hn : f.pix.length < f.params.lines) :
    takePixelLine p f bytes s = storeLine p false bytes s := by
  simp [takePixelLine, hl, ht, Nat.not_le.2 hn]

omit hf in
theorem takePixelLine_excess (hl : bytes.length = lineBytes f.params) (ht : f.truncated = false) (hn : f.params.lines ≤ f.pix.length) :
    takePixelLine p f bytes s = modCur p (fun f => { f with excess := f.excess + 1 }) s := by
  simp [takePixelLine, hl, ht, hn]

omit hf in
theorem takePixelLine_width (hl : bytes.length ≠ lineBytes f.params) :
    takePixelLine p f bytes s = loseLine p (s.bump (Reg.CAM_WIDTH_ERR p)) := by
  simp [takePixelLine, hl]

omit hf in
theorem takePixelLine_truncated (hl : bytes.length = lineBytes f.params) (ht : f.truncated = true) :
    takePixelLine p f bytes s = loseLine p s := by
  simp [takePixelLine, hl, ht]

/-- Whatever becomes of a line, the frame stays open with its link mark, and no payload error is counted for it. -/
theorem takePixelLine_keeps (hp : p < 24) : ∃ g, ((takePixelLine p f bytes s).port p).cur = some g ∧ g.linkErr = f.linkErr
    ∧ (takePixelLine p f bytes s).r (Reg.CAM_CRC_ERR p) = s.r (Reg.CAM_CRC_ERR p) := by
  have hlost : Reg.CAM_CRC_ERR p ≠ Reg.CAM_LINES_LOST p := by grind
  have hwidth : Reg.CAM_CRC_ERR p ≠ Reg.CAM_WIDTH_ERR p := by grind
  by_cases hl : bytes.length = lineBytes f.params
  · cases ht : f.truncated with
    | true =>
      obtain ⟨x, hx, hc⟩ := loseLine_spec hf
      rw [takePixelLine_truncated hl ht]
      exact ⟨_, hc, rfl, by rw [hx]; exact State.r_bump_of_ne s hlost⟩
    | false =>
      rcases Nat.lt_or_ge f.pix.length f.params.lines with hn | hn
      · obtain ⟨hc, hv⟩ := storeLine_spec (bytes := bytes) hf false
        rw [takePixelLine_stored hl ht hn]
        exact ⟨_, hc, rfl, hv _ (by grind)⟩
      · rw [takePixelLine_excess hl ht hn]
        exact ⟨{ f with excess := f.excess + 1 }, by rw [port_modCur_self, hf]; rfl, rfl, rfl⟩
  · obtain ⟨x, hx, hc⟩ := loseLine_spec (s := s.bump (Reg.CAM_WIDTH_ERR p)) hf
    rw [takePixelLine_width hl]
    refine ⟨_, hc, rfl, ?_⟩
    rw [hx]
    exact (State.r_bump_of_ne _ hlost).trans (State.r_bump_of_ne s hwidth)

end

/-! ## The commands -/

section
variable {p : Fin 24} {vc : Fin 16} {dataType : Fin 64} {bytes : Bytes} {crcOk corr : Bool} {s : State} (hu : portUp s p.val = true)
include hu

theorem exec_frameStart : exec (.frameStart p ⟨vc, corr⟩) s = .next (
    let s0 := touchPort p.val vc corr s
    if vc.val ≠ s.r (Reg.CAM_VC p.val) then dropPacket p.val (markLink p.val true corr s0)
    else
      let s1 := closeFrame p.val s0
      if tooEarly s1 p.val then
        raise Src.INGEST_RATE (.port p.val) ((s1.setPort p.val { s1.port p.val with discarding := true }).bump (Reg.CAM_RATE_DROP p.val))
      else openCamFrame p.val corr s1) :=
  congrArg Host.Outcome.next (if_pos hu)

theorem exec_frameStart_other (hv : vc.val ≠ s.r (Reg.CAM_VC p.val)) : exec (.frameStart p ⟨vc, corr⟩) s
    = .next ((markLink p.val true corr (touchPort p.val vc corr s)).bump (Reg.CAM_OTHER_DROP p.val)) :=
  (exec_frameStart hu).trans (congrArg _ (if_pos hv))

theorem exec_frameEnd : exec (.frameEnd p ⟨vc, corr⟩) s = .next (
    let s1 := markLink p.val true corr (touchPort p.val vc corr s)
    if vc.val = s.r (Reg.CAM_VC p.val) then closeFrame p.val s1 else dropPacket p.val s1) :=
  congrArg Host.Outcome.next (if_pos hu)

theorem exec_pixelLine_other (hv : vc.val ≠ s.r (Reg.CAM_VC p.val)) : exec (.pixelLine p bytes crcOk ⟨vc, dataType, corr⟩) s
    = .next ((markLink p.val crcOk corr (touchPort p.val vc corr s)).bump (Reg.CAM_OTHER_DROP p.val)) := by
  simp only [exec, execPixelLine, if_pos hu, if_pos hv, dropPacket]

theorem exec_embeddedLine_other (hv : vc.val ≠ s.r (Reg.CAM_VC p.val)) : exec (.embeddedLine p bytes crcOk ⟨vc, corr⟩) s
    = .next ((markLink p.val crcOk corr (touchPort p.val vc corr s)).bump (Reg.CAM_OTHER_DROP p.val)) := by
  simp only [exec, execEmbeddedLine, if_pos hu, if_pos hv, dropPacket]

variable (hv : vc.val = s.r (Reg.CAM_VC p.val))
include hv

theorem exec_pixelLine_frame {f : CamFrame} (hf : ((markLink p.val crcOk corr (touchPort p.val vc corr s)).port p.val).cur = some f) :
    exec (.pixelLine p bytes crcOk ⟨vc, dataType, corr⟩) s = .next (
      let t := markLink p.val crcOk corr (touchPort p.val vc corr s)
      if dataType.val = f.params.dataType then takePixelLine p.val f bytes t else t.bump (Reg.CAM_OTHER_DROP p.val)) := by
  simp only [exec, execPixelLine, if_pos hu, if_neg (not_not.2 hv), hf, dropPacket]

theorem exec_pixelLine_none (hf : (s.port p.val).cur = none) : exec (.pixelLine p bytes true ⟨vc, dataType, false⟩) s = .next (
    if dataType.val = s.r (Reg.CAM_DATA_TYPE p.val) then touchPort p.val vc false s
    else (touchPort p.val vc false s).bump (Reg.CAM_OTHER_DROP p.val)) := by
  simp only [exec, execPixelLine, if_pos hu, if_neg (not_not.2 hv), markLink_good, cur_touchPort, hf, dropPacket]

theorem exec_embeddedLine_none (hf : (s.port p.val).cur = none) :
    exec (.embeddedLine p bytes true ⟨vc, false⟩) s = .next (touchPort p.val vc false s) := by
  simp only [exec, execEmbeddedLine, if_pos hu, if_neg (not_not.2 hv), markLink_good, cur_touchPort, hf]

theorem exec_embeddedLine_frame {f : CamFrame} (hf : (s.port p.val).cur = some f) :
    exec (.embeddedLine p bytes true ⟨vc, false⟩) s = .next (
      if f.emb.length < f.params.embLines ∧ bytes.length ≤ lineBytes f.params then storeLine p.val true bytes (touchPort p.val vc false s)
      else (touchPort p.val vc false s).bump (Reg.CAM_OTHER_DROP p.val)) := by
  simp only [exec, execEmbeddedLine, if_pos hu, if_neg (not_not.2 hv), markLink_good, cur_touchPort, hf, dropPacket]

end

/-! ## Lines of a good packet -/

section
variable {p : Fin 24} {vc : Fin 16} {dataType : Fin 64} {bytes : Bytes} {s : State} {f : CamFrame} (hu : portUp s p.val = true)
  (hv : vc.val = s.r (Reg.CAM_VC p.val)) (hf : (s.port p.val).cur = some f)
include hu hv hf

section
variable (hd : dataType.val = f.params.dataType)
include hd

/-- A good pixel line of the frame's data type: the frame takes it in a state that differs from `s` in its ports alone. -/
theorem exec_pixelLine_good : ∃ x, (State.port { s with ports := x } p.val).cur = some f
    ∧ exec (.pixelLine p bytes true ⟨vc, dataType, false⟩) s = .next (takePixelLine p.val f bytes { s with ports := x }) := by
  obtain ⟨x, hx⟩ := touchPort_ports p.val vc s
  have hcur : ((touchPort p.val vc false s).port p.val).cur = some f := (cur_touchPort _ _ _ _).trans hf
  refine ⟨x, by rw [← hx, hcur], ?_⟩
  rw [exec_pixelLine_frame hu hv (by rw [markLink_good]; exact hcur), markLink_good, ← hx]
  exact congrArg _ (if_pos hd)

theorem pixelLine_width (hl : bytes.length ≠ lineBytes f.params) :
    ∃ t, exec (.pixelLine p bytes true ⟨vc, dataType, false⟩) s = .next t ∧ (t.port p.val).cur = some { f with truncated := true }
      ∧ Becomes s t { s with ports := t.ports } [(Reg.CAM_WIDTH_ERR p.val, s.oneMore (Reg.CAM_WIDTH_ERR p.val)),
          (Reg.CAM_LINES_LOST p.val, s.oneMore (Reg.CAM_LINES_LOST p.val))] := by
  obtain ⟨x, hx, he⟩ := exec_pixelLine_good (bytes := bytes) hu hv hf hd
  rw [takePixelLine_width hl] at he
  obtain ⟨y, hy, hc⟩ := loseLine_spec (s := State.bump { s with ports := x } (Reg.CAM_WIDTH_ERR p.val)) (by rw [port_bump]; exact hx)
  refine ⟨_, he, hc, ?_⟩
  have hb : Becomes s ((State.bump { s with ports := x } (Reg.CAM_WIDTH_ERR p.val)).bump (Reg.CAM_LINES_LOST p.val)) { s with ports := x }
      [(Reg.CAM_LINES_LOST p.val, s.oneMore (Reg.CAM_LINES_LOST p.val)), (Reg.CAM_WIDTH_ERR p.val, s.oneMore (Reg.CAM_WIDTH_ERR p.val))] :=
    ((Becomes.bump { s with ports := x } _).of_regs (s := s) rfl).consBump fun q hq => by rw [List.mem_singleton.1 hq]; grind
  have hp := hb.perm (List.Perm.swap ..)
  rw [hy]
  exact ⟨hp.values, hp.others, rfl⟩

theorem pixelLine_truncated (hl : bytes.length = lineBytes f.params) (ht : f.truncated = true) :
    ∃ t, exec (.pixelLine p bytes true ⟨vc, dataType, false⟩) s = .next t ∧ (t.port p.val).cur = some f
      ∧ Becomes s t { s with ports := t.ports } [(Reg.CAM_LINES_LOST p.val, s.oneMore (Reg.CAM_LINES_LOST p.val))] := by
  obtain ⟨x, hx, he⟩ := exec_pixelLine_good (bytes := bytes) hu hv hf hd
  rw [takePixelLine_truncated hl ht] at he
  obtain ⟨y, hy, hc⟩ := loseLine_spec hx
  have hsame : { f with truncated := true } = f := by rw [← ht]
  have hb : Becomes s (State.bump { s with ports := x } (Reg.CAM_LINES_LOST p.val)) { s with ports := x }
      [(Reg.CAM_LINES_LOST p.val, s.oneMore (Reg.CAM_LINES_LOST p.val))] := (Becomes.bump { s with ports := x } _).of_regs rfl
  refine ⟨_, he, hc.trans (congrArg some hsame), ?_⟩
  rw [hy]
  exact ⟨hb.values, hb.others, rfl⟩

theorem pixelLine_stored (hl : bytes.length = lineBytes f.params) (ht : f.truncated = false) (hn : f.pix.length < f.params.lines) :
    ∃ t g, exec (.pixelLine p bytes true ⟨vc, dataType, false⟩) s = .next t ∧ (t.port p.val).cur = some g ∧ g.pix = f.pix ++ [bytes]
      ∧ g.emb = f.emb ∧ g.dataCrc = bytes.foldl crcByte f.dataCrc ∧ g.linkErr = f.linkErr ∧ g.truncated = false := by
  obtain ⟨x, hx, he⟩ := exec_pixelLine_good (bytes := bytes) hu hv hf hd
  rw [takePixelLine_stored hl ht hn] at he
  exact ⟨_, _, he, (storeLine_spec hx false).1, rfl, rfl, rfl, rfl, ht⟩

theorem pixelLine_excess (hl : bytes.length = lineBytes f.params) (ht : f.truncated = false) (hn : f.params.lines ≤ f.pix.length) :
    ∃ t, exec (.pixelLine p bytes true ⟨vc, dataType, false⟩) s = .next t ∧ (t.port p.val).cur = some { f with excess := f.excess + 1 }
      ∧ (∀ k, t.r k = s.r k) ∧ { t with ports := s.ports } = s := by
  obtain ⟨x, hx, he⟩ := exec_pixelLine_good (bytes := bytes) hu hv hf hd
  rw [takePixelLine_excess hl ht hn] at he
  exact ⟨_, he, by rw [port_modCur_self, hx]; rfl, fun _ => rfl, rfl⟩

theorem pixelLine_wrong (corr : Bool) :
    ∃ t g, exec (.pixelLine p bytes false ⟨vc, dataType, corr⟩) s = .next t ∧ (t.port p.val).cur = some g ∧ g.linkErr = true
      ∧ t.r (Reg.CAM_CRC_ERR p.val) = s.oneMore (Reg.CAM_CRC_ERR p.val) := by
  have hc := packetChecked p.val vc false corr s
  have hcur : ((markLink p.val false corr (touchPort p.val vc corr s)).port p.val).cur = some { f with linkErr := true } := by
    rw [hc.cur, hf]
    simp
  obtain ⟨g, hg, hl, hr⟩ := takePixelLine_keeps (bytes := bytes) hcur p.isLt
  refine ⟨_, g, (exec_pixelLine_frame hu hv hcur).trans (congrArg _ (if_pos hd)), hg, hl, ?_⟩
  rw [hr, hc.payload]
  rfl

end

theorem pixelLine_dropped (hd : dataType.val ≠ f.params.dataType) :
    exec (.pixelLine p bytes true ⟨vc, dataType, false⟩) s = .next ((touchPort p.val vc false s).bump (Reg.CAM_OTHER_DROP p.val)) := by
  have hcur : ((markLink p.val true false (touchPort p.val vc false s)).port p.val).cur = some f := by
    rw [markLink_good, cur_touchPort, hf]
  rw [exec_pixelLine_frame hu hv hcur, markLink_good]
  exact congrArg _ (if_neg hd)

theorem embeddedLine_stored (h1 : f.emb.length < f.params.embLines) (h2 : bytes.length ≤ lineBytes f.params) :
    ∃ t g, exec (.embeddedLine p bytes true ⟨vc, false⟩) s = .next t ∧ (t.port p.val).cur = some g ∧ g.emb = f.emb ++ [bytes]
      ∧ g.pix = f.pix :=
  ⟨_, _, (exec_embeddedLine_frame hu hv hf).trans (congrArg _ (if_pos ⟨h1, h2⟩)),
    (storeLine_spec ((cur_touchPort _ _ _ _).trans hf) true).1, rfl, rfl⟩

theorem embeddedLine_dropped (h : f.params.embLines ≤ f.emb.length ∨ lineBytes f.params < bytes.length) :
    ∃ t, exec (.embeddedLine p bytes true ⟨vc, false⟩) s = .next t ∧ (t.port p.val).cur = some f
      ∧ Becomes s t { s with ports := t.ports } [(Reg.CAM_OTHER_DROP p.val, s.oneMore (Reg.CAM_OTHER_DROP p.val))] := by
  obtain ⟨x, hx⟩ := touchPort_ports p.val vc s
  have hcur := (cur_touchPort p.val vc false s).trans hf
  refine ⟨_, (exec_embeddedLine_frame hu hv hf).trans (congrArg _ (if_neg (by omega))), hcur, ?_⟩
  rw [hx]
  exact (Becomes.bump { s with ports := x } _).of_regs rfl

end

/-- Settles O51. -/
theorem cameraFramesTakeTheirLines : Obligations.CameraFramesTakeTheirLines := by
  unfold Obligations.CameraFramesTakeTheirLines
  intro p vc dataType bytes s s1
  refine ⟨fun hd x y => ?_, fun hu hv => ?_, fun hu hv => ⟨?_, ?_, ?_, ?_, fun hc => ?_, fun f hf hd => pixelLine_dropped hu hv hf hd,
    fun f hf hd => ⟨pixelLine_stored hu hv hf hd, pixelLine_excess hu hv hf hd, pixelLine_width hu hv hf hd,
      pixelLine_truncated hu hv hf hd, embeddedLine_stored hu hv hf, embeddedLine_dropped hu hv hf, pixelLine_wrong hu hv hf hd⟩⟩,
    fun hc => ⟨fun h => ?_, fun h => ?_⟩, fun hc => ?_, ?_⟩
  · have hd' : ¬ portUp s p.val = true := by simp [hd]
    exact ⟨congrArg _ (if_neg hd'), congrArg _ (if_neg hd'), congrArg _ (if_neg hd'), congrArg _ (if_neg hd')⟩
  · have hs : touchPort p.val vc false s = s := touchPort_other hv
    refine ⟨?_, ?_, ?_, ?_, ?_⟩
    · rw [exec_frameStart_other hu hv, markLink_good, hs]
    · rw [exec_frameEnd hu, markLink_good, hs]
      exact congrArg _ (if_neg hv)
    · rw [exec_pixelLine_other hu hv, markLink_good, hs]
    · rw [exec_embeddedLine_other hu hv, markLink_good, hs]
    · rw [exec_pixelLine_other hu hv, markLink_wrong, hs]
  · rw [exec_frameStart hu]
    exact ⟨fun he => congrArg _ ((if_neg (not_not.2 hv)).trans (if_neg (ne_true_of_eq_false he))),
      fun he => congrArg _ ((if_neg (not_not.2 hv)).trans (if_pos he))⟩
  · rw [exec_frameStart hu]
    exact ⟨fun he => congrArg _ ((if_neg (not_not.2 hv)).trans (if_neg (ne_true_of_eq_false he))),
      fun he => congrArg _ ((if_neg (not_not.2 hv)).trans (if_pos he))⟩
  · rw [exec_frameEnd hu, markLink_good]
    exact congrArg _ (if_pos hv)
  · rw [exec_frameEnd hu, markLink_corrected]
    exact congrArg _ (if_pos hv)
  · rw [exec_pixelLine_none hu hv hc]
    exact ⟨exec_embeddedLine_none hu hv hc, fun h => congrArg _ (if_pos h), fun h => congrArg _ (if_neg h)⟩
  · exact congrArg Host.Outcome.next (if_pos ⟨rfl, hc, h⟩)
  · exact congrArg Host.Outcome.next (if_neg fun hn => absurd hn.2.2 (Nat.not_le.2 h))
  · exact congrArg Host.Outcome.next (if_neg fun hn => by simp [hc] at hn)
  · exact congrArg Host.Outcome.next (if_neg fun hn => by simp at hn)

/-! ## Tunnelled I2C -/

/-- The response of a transaction that has ended. -/
theorem i2cResponse_bytes (status n : Nat) (data : Bytes) (free : Nat) :
    let l := BitVec.ofNat 8 status :: BitVec.ofNat 8 n :: (List.range n).map fun i => (data[i]?).getD (Config.freeByte (free + i))
    l.length = n + 2 ∧ l.take 2 = [BitVec.ofNat 8 status, BitVec.ofNat 8 n] ∧ (n ≤ data.length → l.drop 2 = data.take n) := by
  refine ⟨by simp, rfl, fun h => ?_⟩
  refine List.ext_getElem (by simp [h]) fun i h1 h2 => ?_
  have hi : i < data.length := by
    rw [List.length_take] at h2
    omega
  simp [List.getElem?_eq_getElem hi]

/-- Settles O52. -/
theorem sideChannelsComplete : Obligations.SideChannelsComplete := by
  unfold Obligations.SideChannelsComplete
  intro p status data eth udp b n s
  refine ⟨fun hb h1 h5 => ?_, fun hb => congrArg Host.Outcome.next (if_neg fun h => hb h.1), fun hn => ?_, fun k hk => ?_, fun ho => ⟨fun h => ?_, fun h => ?_⟩,
    fun ho => congrArg Host.Outcome.next (if_neg fun h => by simp [ho] at h)⟩
  · intro q k
    obtain ⟨hlen, htake, hdrop⟩ := i2cResponse_bytes status.val k data s.free
    refine ⟨_, congrArg Host.Outcome.next (if_pos ⟨hb, h1, h5⟩), ?_, ?_, fun hk => ?_, fun j hj => State.blob_setBlob_of_ne s hj _, rfl⟩
    · exact (congrArg List.length (State.blob_setBlob_self s _ _)).trans hlen
    · exact (congrArg (List.take 2) (State.blob_setBlob_self s _ _)).trans htake
    · exact (congrArg (List.drop 2) (State.blob_setBlob_self s _ _)).trans (hdrop hk)
  · exact congrArg Host.Outcome.next (by rw [pclReceive, hn])
  · intro check
    have hexec : exec (.pclPacket eth udp b) s = .next (if pclBad k b then s.bump (Reg.PCL_PKT_BAD k)
        else if crc32c (slice b 0 0x1C ++ b.drop 32) ≠ field b 0x1C 4 then s.bump (Reg.PCL_PKT_CHECK_ERR k) else acceptPacket k b s) :=
      congrArg Host.Outcome.next (by rw [pclReceive, hk])
    rw [hexec]
    refine ⟨fun hb => ⟨_, congrArg _ (if_pos hb), .bump s _⟩, fun hb hc => ⟨_, congrArg _ ((if_neg (ne_true_of_eq_false hb)).trans
      (if_pos (of_decide_eq_false hc))), .bump s _⟩, fun hb hc => ⟨congrArg _ ((if_neg (ne_true_of_eq_false hb)).trans
      (if_neg (not_not.2 (of_decide_eq_true hc)))), fun ho hq hp => ?_, fun ho hq hp => ?_, fun ho hl => ?_⟩⟩
    · rw [acceptPacket, if_pos ho, if_pos hq, if_pos hp]
    · rw [acceptPacket, if_pos ho, if_pos hq, if_neg (ne_true_of_eq_false hp)]
    · simp [acceptPacket, ho, hl]
  · refine ⟨congrArg Host.Outcome.next (if_pos ⟨ho, h⟩), ?_⟩
    simp [closeScan, ho]
  · exact congrArg Host.Outcome.next (if_neg fun hn => absurd hn.2 (Nat.not_le.2 h))

end Sys2Proof.Machine
end

section
/-! The time commit, triggers, PPS and captures (R321 to R335). -/

namespace Sys2Proof.Machine

open Sys2Proof

/-! ## The time commit -/

/-- The commit's own entries and the staged values are as they were. -/
structure KeepsCommit (s t : State) : Prop where
  pending : t.r Reg.COMMIT_PENDING = s.r Reg.COMMIT_PENDING
  time : t.r Reg.COMMIT_TIME = s.r Reg.COMMIT_TIME
  staged : t.staged = s.staged

section
variable {s t : State} (h : KeepsCommit s t)
include h

theorem KeepsCommit.setR {k : Key} (h1 : Reg.COMMIT_PENDING ≠ k) (h2 : Reg.COMMIT_TIME ≠ k) (v : Nat) : KeepsCommit s (t.setR k v) :=
  ⟨(State.r_setR_of_ne t h1 v).trans h.pending, (State.r_setR_of_ne t h2 v).trans h.time, h.staged⟩

theorem KeepsCommit.withRooster {u : State} (hu : ∃ x, u = t.withRooster x) : KeepsCommit s u := by
  obtain ⟨x, rfl⟩ := hu
  exact ⟨h.pending, h.time, h.staged⟩

theorem KeepsCommit.stepBase (b : Nat) (v : Int) : KeepsCommit s (stepBase b v t) :=
  (h.withRooster ⟨_, rfl⟩).setR (by grind) (by grind) _

theorem KeepsCommit.applyStep (b : Nat) : KeepsCommit s (applyStep b t) := by
  unfold Machine.applyStep
  dsimp only
  split
  · exact h
  · exact (h.setR (by grind) (by grind) _).stepBase b _

theorem KeepsCommit.enterMode (old : State) (b : Nat) : KeepsCommit s (enterMode old b t) := by
  unfold Machine.enterMode
  dsimp only
  split
  · exact h
  · exact (h.setR (by grind) (by grind) _).withRooster ⟨_, rfl⟩

theorem KeepsCommit.skipInstants (n : Nat) : KeepsCommit s (skipInstants n t) := by
  unfold Machine.skipInstants
  dsimp only
  split
  · exact (h.withRooster ⟨_, rfl⟩).setR (by grind) (by grind) _
  · exact h

theorem KeepsCommit.settleBases (old : State) (fresh : List Nat) : KeepsCommit s (settleBases old fresh t) := by
  refine forEach_induct (P := KeepsCommit s) (fun n u hu => ?_) (h.withRooster (forEach_rooster followBase_rooster t))
  dsimp only
  split
  · exact hu.skipInstants n
  · exact hu

theorem KeepsCommit.refreshAs : KeepsCommit s (refreshAs t) :=
  forEach_induct (P := KeepsCommit s) (fun _ _ hu => hu.setR (by grind) (by grind) _) h

end

/-- The state of a commit once its values are in force and the commit is over. -/
def commitBegun (s : State) : State :=
  (({ s.applyStaged commitKey with rooster := { s.rooster with commitAt := none } } : State).setR Reg.COMMIT_PENDING 0).setR Reg.COMMIT_TIME s.t3

theorem keepsCommit_applyCommit (s : State) : KeepsCommit (commitBegun s) (applyCommit s) := by
  have h0 : KeepsCommit (commitBegun s) (commitBegun s) := ⟨rfl, rfl, rfl⟩
  have h1 := forEach_induct (P := KeepsCommit (commitBegun s)) (f := applyStep) (l := List.range 8) (fun b _ hu => hu.applyStep b) h0
  have h2 := forEach_induct (P := KeepsCommit (commitBegun s)) (f := enterMode s) (l := List.range 3) (fun b _ hu => hu.enterMode s b) h1
  have h3 := h2.settleBases s ((List.range 32).filter (resets s))
  unfold applyCommit
  dsimp only
  refine KeepsCommit.refreshAs (forEach_induct (P := KeepsCommit (commitBegun s)) (fun p u hu => ?_)
    (forEach_induct (P := KeepsCommit (commitBegun s)) (fun n u hu => ?_) h3))
  · split
    · exact hu
    · exact ⟨hu.pending, hu.time, hu.staged⟩
  · exact hu.withRooster ⟨_, rfl⟩

theorem applyCommit_effect (s : State) : (applyCommit s).r Reg.COMMIT_PENDING = 0 ∧ (applyCommit s).r Reg.COMMIT_TIME = s.t3
    ∧ ∀ x ∈ (applyCommit s).staged, commitKey x.1 = false := by
  obtain ⟨hp, ht, hs⟩ := keepsCommit_applyCommit s
  refine ⟨hp.trans ((State.r_setR_of_ne _ (by decide) _).trans (State.r_setR_self _ _ _)), ht.trans (State.r_setR_self _ _ _), fun x hx => ?_⟩
  rw [hs] at hx
  have hmem : x ∈ s.staged.filter fun p => !commitKey p.1 := hx
  simpa using (List.mem_filter.1 hmem).2

/-! ## Triggers -/

theorem bitList_zero (n : Nat) : bitList 0 n = [] := by simp [bitList, bit]

/-- A trigger without pins, ports, displays and graphs only counts. -/
theorem becomes_fireTrigger {t : Nat} {s : State} (hpins : s.r (Reg.TRG_PINS t) = 0) (hports : s.r (Reg.TRG_PORTS t) = 0)
    (hdisp : s.r (Reg.TRG_DISPLAYS t) = 0) (hsub : subscribers s t = []) :
    Becomes s (fireTrigger t s) (setInstant t (nextInstant s t + 1) s)
      [(Reg.TRG_FIRED t, s.oneMore (Reg.TRG_FIRED t)), (Reg.TRG_LAST_INSTANT t, instant s t (nextInstant s t))] := by
  have heq : fireTrigger t s = ((setInstant t (nextInstant s t + 1) s).bump (Reg.TRG_FIRED t)).setR (Reg.TRG_LAST_INSTANT t)
      (instant s t (nextInstant s t)) := by
    have hr (k : Key) (h1 : k ≠ Reg.TRG_FIRED t) (h2 : k ≠ Reg.TRG_LAST_INSTANT t) :
        (((setInstant t (nextInstant s t + 1) s).bump (Reg.TRG_FIRED t)).setR (Reg.TRG_LAST_INSTANT t)
          (instant s t (nextInstant s t))).r k = s.r k :=
      (State.r_setR_of_ne _ h2 _).trans (State.r_bump_of_ne _ h1)
    unfold fireTrigger firePorts firePins
    dsimp only
    rw [hr _ (by grind) (by grind), hpins, bitList_zero, forEach_nil, hr _ (by grind) (by grind), hports, bitList_zero, forEach_nil,
      hdisp, bitList_zero, forEach_nil, hsub, forEach_nil, ite_self]
  rw [heq]
  exact (((Becomes.bump (setInstant t (nextInstant s t + 1) s) _).of_regs (s := s) rfl).cons
    (fun p hp => by rw [List.mem_singleton.1 hp]; grind) _).perm (List.Perm.swap ..)

/-- Settles O54. -/
theorem timeEventsActAtTheirInstants : Obligations.TimeEventsActAtTheirInstants := by
  unfold Obligations.TimeEventsActAtTheirInstants
  intro t falling source s hc due
  refine ⟨fun d hd => ?_, fun hn => ?_, fun he => ⟨fun h => ?_, fun h => ⟨?_, becomes_fireTrigger⟩⟩, fun he => ?_, fun h => ?_, fun h => ?_, fun hm hf hn => ?_,
    fun h => ?_, fun hw hb => ?_, fun hs h => ?_⟩
  · have hexec : exec .timeCommitApply s = .next (if d ≤ s.t3 ∧ clocksRun s then dropGated (applyCommit s) else s) := by
      simp only [exec, execTimeCommitApply, hd]
    rw [hexec]
    exact ⟨fun h => congrArg _ (if_neg fun hn => absurd hn.1 (Nat.not_le.2 h)), fun h => ⟨congrArg _ (if_pos ⟨h, hc⟩), applyCommit_effect s⟩⟩
  · simp only [exec, execTimeCommitApply, hn]
  · exact congrArg Host.Outcome.next (if_neg fun hn => absurd hn.2.2 (Nat.not_le.2 h))
  · exact congrArg Host.Outcome.next (if_pos ⟨he, hc, h⟩)
  · exact congrArg Host.Outcome.next (if_neg fun hn => by simp [he] at hn)
  · exact congrArg Host.Outcome.next (if_neg fun hn => h hn.1)
  · have hexec : exec (.ppsEdge falling) s = .next (if s.r (Reg.T_MODE 0) = 1 then servoEdge (captureSource 0 s) else captureSource 0 s) :=
      congrArg Host.Outcome.next (if_pos ⟨h, hc⟩)
    rw [hexec]
    exact ⟨fun hm => congrArg _ (if_neg hm), fun hm => congrArg _ (if_pos hm)⟩
  · intro x m
    have hexec : exec .ppsMissedSecond s = .next (if s.r (Reg.T_STATE 0) = 2 ∧ s.r Reg.PPS_LOSS_N ≤ x.missed then enterHoldover 0 m else m) :=
      congrArg Host.Outcome.next (if_pos ⟨hm, hf, hc, hn⟩)
    rw [hexec]
    exact ⟨fun h => congrArg _ (if_neg fun hn => h.elim (absurd hn.1) (absurd hn.2 ∘ Nat.not_le.2)), fun h1 h2 => congrArg _ (if_pos ⟨h1, h2⟩),
      State.r_setR_self _ _ _⟩
  · exact congrArg Host.Outcome.next (if_neg fun hn => h.elim (absurd hn.1) (absurd hn.2.2.2 ∘ Nat.not_lt.2))
  · exact congrArg Host.Outcome.next (if_pos ⟨hw, by rw [hb]; rfl⟩)
  · have hsrc : source.toNat ≠ 0xFF := fun he => hs (BitVec.eq_of_toNat_eq he)
    have hcap := captured_captureSource hsrc s
    refine ⟨_, congrArg Host.Outcome.next (if_neg fun hn => ?_), hcap.owned, hcap.other, hcap.values, hcap.rest⟩
    rcases h with h | h <;> simp [h] at hn

end Sys2Proof.Machine
end

section
/-! gPTP (R324, R325), received frames and their answers (R474, R481), links and buses (R476, R478, R493). -/

namespace Sys2Proof.Machine

open Sys2Proof

/-! ## gPTP messages sent -/

section
variable {e : Nat} {s : State}

theorem becomes_sendGptp_down (h : ethUp s e = false) (kind n : Nat) :
    Becomes s (sendGptp e kind n s) s [(Reg.NET_TX_DISCARDED e, min (dictMax (Reg.NET_TX_DISCARDED e)) (s.r (Reg.NET_TX_DISCARDED e) + n))] := by
  rw [sendGptp, if_neg (ne_true_of_eq_false h)]
  exact .setR s _ _

theorem becomes_sendGptp_up (h : ethUp s e = true) (kind n : Nat) :
    Becomes s (sendGptp e kind n s) (s.emit (.gptp e (s.r (Reg.DOMAIN e)) kind (s.t (e + 1))))
      [(Reg.NET_TX_FRAMES e, min (dictMax (Reg.NET_TX_FRAMES e)) (s.r (Reg.NET_TX_FRAMES e) + n))] := by
  rw [sendGptp, if_pos h]
  exact (Becomes.setR (s.emit _) _ _).of_regs rfl

theorem sendDue_iff (last : Option Nat) (span now : Nat) : sendDue last span now = true ↔ ∀ t, last = some t → t + span ≤ now := by
  cases last <;> simp [sendDue]

end

/-! ## Servos -/

@[simp] theorem servo_setServo_self (s : State) (b : Nat) (x : Servo) : (s.setServo b x).servo b = x := sget_sset_self _ _ _ _
@[simp] theorem r_setServo (s : State) (b : Nat) (x : Servo) (k : Key) : (s.setServo b x).r k = s.r k := rfl
@[simp] theorem t_setServo (s : State) (b : Nat) (x : Servo) (n : Nat) : (s.setServo b x).t n = s.t n := rfl

theorem unsigned_step (v : Nat) (gm : Nat) : unsigned 64 ((v : Int) + ((gm : Int) - v)) = gm % 2 ^ 64 := by
  have h : (v : Int) + ((gm : Int) - v) = gm := by omega
  rw [h, unsigned]
  norm_cast

/-- The skipping of instants leaves base, servo and every entry but TRG_SKIPPED. -/
structure Skipped (s t : State) : Prop where
  ns : t.rooster.ns = s.rooster.ns
  servo : t.rooster.servo = s.rooster.servo
  values : ∀ k, (∀ n, k ≠ Reg.TRG_SKIPPED n) → t.r k = s.r k

theorem skipped_skipInstants (n : Nat) (s : State) : Skipped s (skipInstants n s) := by
  unfold skipInstants
  dsimp only
  split
  · exact ⟨rfl, rfl, fun k hk => State.r_setR_of_ne _ (hk n) _⟩
  · exact ⟨rfl, rfl, fun _ _ => rfl⟩

theorem Skipped.trans {s t u : State} (h : Skipped s t) (h' : Skipped t u) : Skipped s u :=
  ⟨h'.ns.trans h.ns, h'.servo.trans h.servo, fun k hk => (h'.values k hk).trans (h.values k hk)⟩

theorem skipped_settleBases (old : State) (fresh : List Nat) (s : State) : Skipped (followAll s) (settleBases old fresh s) := by
  refine forEach_induct (P := Skipped (followAll s)) (fun n u hu => ?_) ⟨rfl, rfl, fun _ _ => rfl⟩
  dsimp only
  split
  · exact hu.trans (skipped_skipInstants n u)
  · exact hu

theorem servo_followBase (n : Nat) (s : State) : (followBase n s).rooster.servo = s.rooster.servo := by
  unfold followBase
  split <;> rfl

theorem servo_followAll (s : State) : (followAll s).rooster.servo = s.rooster.servo := by
  unfold followAll
  exact forEach_induct (P := fun t : State => t.rooster.servo = s.rooster.servo) (fun n _ h => (servo_followBase n _).trans h) rfl

theorem followAll_rooster (s : State) : ∃ x, followAll s = s.withRooster x := by
  unfold followAll
  exact forEach_rooster followBase_rooster s

theorem t_followAll {s : State} {b : Nat} (h : followSource s b = none) : (followAll s).t b = s.t b := by
  unfold followAll
  exact (SameBase.followLoop (List.range 8) h).ns

/-- A base that follows no other keeps its value while the bases settle. -/
theorem t_settleBases {s : State} {b : Nat} (h : followSource s b = none) (old : State) (fresh : List Nat) :
    (settleBases old fresh s).t b = s.t b := by
  rw [← t_followAll h, State.t, (skipped_settleBases old fresh s).ns, State.t]

theorem r_settleBases {k : Key} (hk : ∀ n, k ≠ Reg.TRG_SKIPPED n) (old : State) (fresh : List Nat) (s : State) :
    (settleBases old fresh s).r k = s.r k := by
  obtain ⟨x, hx⟩ := followAll_rooster s
  rw [(skipped_settleBases old fresh s).values k hk, hx]
  rfl

theorem servo_settleBases (old : State) (fresh : List Nat) (s : State) (b : Nat) : (settleBases old fresh s).servo b = s.servo b := by
  rw [State.servo, (skipped_settleBases old fresh s).servo, servo_followAll, State.servo]

theorem followSource_none {s : State} {b : Nat} (hb : b = 1 ∨ b = 2) (h : s.r (Reg.T_MODE b) = 1) : followSource s b = none := by
  rcases hb with rfl | rfl <;> simp [followSource, h]

/-! ## A Sync and a Pdelay exchange -/

/-- The base has been stepped to the grandmaster's time. -/
theorem stepBase_to_master {s : State} {b gm : Nat} (hf : followSource s b = none) (old : State) :
    (settleBases old [] (stepBase b ((gm : Int) - s.t b) s)).t b = gm % 2 ^ 64
    ∧ (∀ k, (∀ n, k ≠ Reg.TRG_SKIPPED n) → k ≠ Reg.T_STEPS b → (settleBases old [] (stepBase b ((gm : Int) - s.t b) s)).r k = s.r k)
    ∧ (settleBases old [] (stepBase b ((gm : Int) - s.t b) s)).r (Reg.T_STEPS b) = s.oneMore (Reg.T_STEPS b)
    ∧ (settleBases old [] (stepBase b ((gm : Int) - s.t b) s)).servo b = s.servo b := by
  have hr (k : Key) (hk : k ≠ Reg.T_STEPS b) : (stepBase b ((gm : Int) - s.t b) s).r k = s.r k := State.r_bump_of_ne _ hk
  have hfollow : followSource (stepBase b ((gm : Int) - s.t b) s) b = none := by
    simp only [followSource, hr (Reg.T_MODE b) (by grind), hr (Reg.T_SOURCE b) (by grind)]
    exact hf
  refine ⟨?_, fun k h1 h2 => (r_settleBases h1 _ _ _).trans (hr k h2), ?_, (servo_settleBases _ _ _ _).trans rfl⟩
  · rw [t_settleBases hfollow, ← unsigned_step (s.t b) gm]
    exact sget_sset_self _ _ _ _
  · exact (r_settleBases (fun n => by grind) _ _ _).trans (State.r_setR_self _ _ _)

/-- What a good Sync steers, and that it locks after `n` good ones in a row. -/
theorem steer_effect (b n : Nat) (off : Int) (s : State) :
    (steer b n off s).r (Reg.T_SERVO_OFFSET b) = unsigned 64 off
    ∧ (n ≤ (s.servo b).good + 1 → off.natAbs ≤ 100 → (steer b n off s).r (Reg.T_STATE b) = 2)
    ∧ (∀ k, k ≠ Reg.T_SERVO_OFFSET b → k ≠ Reg.T_RATE_ADJ b → k ≠ Reg.T_STATE b → (steer b n off s).r k = s.r k)
    ∧ ∀ m, (steer b n off s).t m = s.t m := by
  have hset (u : State) (hu : u.rooster.ns = s.rooster.ns) (p : Prop) [Decidable p] (x : Servo) :
      (∀ k, k ≠ Reg.T_STATE b → ((if p then u.setR (Reg.T_STATE b) 2 else u).setServo b x).r k = u.r k)
      ∧ (p → ((if p then u.setR (Reg.T_STATE b) 2 else u).setServo b x).r (Reg.T_STATE b) = 2)
      ∧ ∀ m, ((if p then u.setR (Reg.T_STATE b) 2 else u).setServo b x).t m = s.t m := by
    by_cases h : p
    · rw [if_pos h]
      exact ⟨fun k hk => State.r_setR_of_ne u hk 2, fun _ => State.r_setR_self u _ 2, fun m => congrArg (fun l => sget dflt0 l m) hu⟩
    · rw [if_neg h]
      exact ⟨fun _ _ => rfl, fun hp => absurd hp h, fun m => congrArg (fun l => sget dflt0 l m) hu⟩
  obtain ⟨hr, hlock, ht⟩ := hset (((s.setR (Reg.T_SERVO_OFFSET b) (unsigned 64 off)).setR (Reg.T_RATE_ADJ b) (servoRate s)).nextFree) rfl
    (n ≤ if off.natAbs ≤ 100 then (s.servo b).good + 1 else 0)
    { s.servo b with good := if off.natAbs ≤ 100 then (s.servo b).good + 1 else 0, missed := 0 }
  refine ⟨(hr _ (by grind)).trans ?_, fun hn ho => hlock (by rw [if_pos ho]; exact hn), fun k h1 h2 h3 => (hr k h3).trans ?_, ht⟩
  · exact (State.r_setR_of_ne _ (by grind) _).trans (State.r_setR_self _ _ _)
  · exact (State.r_setR_of_ne _ h2 _).trans (State.r_setR_of_ne _ h1 _)

/-- A capable slave port before the first Sync, and after it: the state without the time of the Sync. -/
def synced (b gm : Nat) (s1 : State) : State :=
  if !(s1.servo b).first then
    let s3 := s1.setServo b { s1.servo b with first := true }
    settleBases s3 [] (stepBase b ((gm : Int) - s3.t b) s3)
  else steer b 8 ((s1.t b : Int) - gm) s1

section
variable {e : Fin 2} {gm : Nat} {s : State} (hc : clocksRun s = true)
include hc

section
variable (hu : ethUp s e.val = true)
include hu

theorem exec_gptpSyncReceive_counted (h : s.r (Reg.T_MODE (e.val + 1)) ≠ 1 ∨ asCapable s e.val = false) :
    exec (.gptpSyncReceive e gm) s = .next (s.bump (Reg.SYNC_RX e.val)) := by
  have h' : s.r (Reg.T_MODE (e.val + 1)) ≠ 1 ∨ (!asCapable s e.val) = true := by simpa using h
  simp only [exec, execGptpSyncReceive, hc, hu, Bool.not_true, Bool.false_eq_true, or_self, if_false, if_pos h']

theorem exec_gptpSyncReceive_synced (hm : s.r (Reg.T_MODE (e.val + 1)) = 1) (ha : asCapable s e.val = true) :
    exec (.gptpSyncReceive e gm) s = .next (
      let s2 := synced (e.val + 1) gm (s.bump (Reg.SYNC_RX e.val))
      s2.setServo (e.val + 1) { s2.servo (e.val + 1) with nextSecond := s.t3 }) := by
  have h' : ¬ (s.r (Reg.T_MODE (e.val + 1)) ≠ 1 ∨ (!asCapable s e.val) = true) := by simp [hm, ha]
  simp only [exec, execGptpSyncReceive, hc, hu, Bool.not_true, Bool.false_eq_true, or_self, if_false, if_neg h', synced]

end

theorem exec_gptpPdelayTransmit (hd : sendDue (s.servo (e.val + 1)).pdelaySent (pdelayInterval s e.val) s.t3 = true) :
    exec (.gptpPdelayTransmit e) s
      = .next (sendGptp e.val 1 1 (s.setServo (e.val + 1) { s.servo (e.val + 1) with pdelaySent := some s.t3 })) :=
  congrArg Host.Outcome.next (if_pos ⟨hc, hd⟩)

theorem exec_gptpSyncTransmit (hm : s.r (Reg.T_MODE (e.val + 1)) = 2 ∨ s.r (Reg.T_MODE (e.val + 1)) = 3)
    (hd : sendDue (s.servo (e.val + 1)).syncSent (syncInterval s e.val) s.t3 = true) :
    exec (.gptpSyncTransmit e) s
      = .next (sendGptp e.val 0 2 (s.setServo (e.val + 1) { s.servo (e.val + 1) with syncSent := some s.t3 })) :=
  congrArg Host.Outcome.next (if_pos ⟨hm, hc, hd⟩)

end

theorem synced_first {s : State} {b gm : Nat} (hb : b = 1 ∨ b = 2) (hm : s.r (Reg.T_MODE b) = 1) (hf : (s.servo b).first = false) :
    (synced b gm s).t b = gm % 2 ^ 64 ∧ (synced b gm s).r (Reg.T_STEPS b) = s.oneMore (Reg.T_STEPS b)
    ∧ ((synced b gm s).servo b).first = true
    ∧ ∀ k, (∀ n, k ≠ Reg.TRG_SKIPPED n) → k ≠ Reg.T_STEPS b → (synced b gm s).r k = s.r k := by
  have h := stepBase_to_master (s := s.setServo b { s.servo b with first := true }) (gm := gm) (followSource_none hb hm)
    (s.setServo b { s.servo b with first := true })
  rw [synced, if_pos (by rw [hf]; rfl)]
  obtain ⟨ht, hr, hsteps, hservo⟩ := h
  exact ⟨ht, hsteps, by rw [hservo, servo_setServo_self], hr⟩

theorem synced_later {s : State} {b gm : Nat} (hf : (s.servo b).first = true) : synced b gm s = steer b 8 ((s.t b : Int) - gm) s := by
  rw [synced, hf]
  rfl

theorem synced_later_effect {s : State} {b gm : Nat} (hf : (s.servo b).first = true) :
    (synced b gm s).r (Reg.T_SERVO_OFFSET b) = unsigned 64 ((s.t b : Int) - gm)
    ∧ (8 ≤ (s.servo b).good + 1 → ((s.t b : Int) - gm).natAbs ≤ 100 → (synced b gm s).r (Reg.T_STATE b) = 2)
    ∧ (synced b gm s).t b = s.t b := by
  obtain ⟨hoff, hlock, -, ht⟩ := steer_effect b 8 ((s.t b : Int) - gm) s
  rw [synced_later hf]
  exact ⟨hoff, hlock, ht b⟩

/-- The entries that a Sync leaves alone. -/
theorem r_synced {s : State} {b gm : Nat} (hb : b = 1 ∨ b = 2) (hm : s.r (Reg.T_MODE b) = 1) {k : Key} (h1 : ∀ n, k ≠ Reg.TRG_SKIPPED n)
    (h2 : k ≠ Reg.T_STEPS b) (h3 : k ≠ Reg.T_SERVO_OFFSET b) (h4 : k ≠ Reg.T_RATE_ADJ b) (h5 : k ≠ Reg.T_STATE b) :
    (synced b gm s).r k = s.r k := by
  cases hf : (s.servo b).first with
  | false =>
    obtain ⟨-, -, -, hr⟩ := synced_first (gm := gm) hb hm hf
    exact hr k h1 h2
  | true =>
    obtain ⟨-, -, hr, -⟩ := steer_effect b 8 ((s.t b : Int) - gm) s
    rw [synced_later hf]
    exact hr k h3 h4 h5

/-- AS_CAPABLE as it is refreshed. -/
theorem r_AS_CAPABLE_refreshAs {e : Nat} (he : e < 2) (s : State) :
    (refreshAs s).r (Reg.AS_CAPABLE e) = if asCapable s e then 1 else 0 := by
  have hcap (m k v : Nat) : asCapable (s.setR (Reg.AS_CAPABLE k) v) m = asCapable s m := by
    unfold asCapable
    rw [State.r_setR_of_ne _ (by grind), State.r_setR_of_ne _ (by grind)]
    rfl
  have hunfold : refreshAs s = (s.setR (Reg.AS_CAPABLE 0) (if asCapable s 0 then 1 else 0)).setR (Reg.AS_CAPABLE 1)
      (if asCapable s 1 then 1 else 0) := by
    rw [← hcap 1 0 (if asCapable s 0 then 1 else 0)]
    rfl
  rw [hunfold]
  obtain rfl | rfl : e = 0 ∨ e = 1 := by omega
  · exact (State.r_setR_of_ne _ (by decide) _).trans (State.r_setR_self _ _ _)
  · exact State.r_setR_self _ _ _

theorem r_refreshAs {k : Key} (h : ∀ e, k ≠ Reg.AS_CAPABLE e) (s : State) : (refreshAs s).r k = s.r k :=
  forEach_induct (P := fun t : State => t.r k = s.r k) (fun e _ ht => (State.r_setR_of_ne _ (h e) _).trans ht) rfl

theorem servo_refreshAs (s : State) (b : Nat) : (refreshAs s).servo b = s.servo b :=
  forEach_induct (P := fun t : State => t.servo b = s.servo b) (fun _ _ ht => ht) rfl

/-- Settles O55. -/
theorem gptpKeepsTheBase : Obligations.GptpKeepsTheBase := by
  unfold Obligations.GptpKeepsTheBase
  intro e gm delay s hc b x
  have hb : b = 1 ∨ b = 2 := by omega
  refine ⟨fun hd => ⟨?_, ?_, fun hs => ?_⟩, fun hu => ⟨⟨_, congrArg Host.Outcome.next (if_pos hu), .bump s _⟩, fun hs => ?_, fun hm hs => ?_,
    fun h => ⟨_, exec_gptpSyncReceive_counted hc hu h, .bump s _⟩, fun hm ha => ?_⟩, fun h2 h3 => ?_, fun hs => ?_, fun hs => ?_, sendDue_iff, ?_, ?_, ?_⟩
  · exact congrArg Host.Outcome.next (if_pos (.inl (by rw [hd]; rfl)))
  · exact congrArg Host.Outcome.next (if_neg (ne_true_of_eq_false hd))
  · exact ⟨_, exec_gptpPdelayTransmit hc hs, (becomes_sendGptp_down (s := s.setServo b _) hd 1 1).of_regs rfl⟩
  · exact ⟨_, exec_gptpPdelayTransmit hc hs, (becomes_sendGptp_up (s := s.setServo b _) hu 1 1).of_regs rfl⟩
  · exact ⟨_, exec_gptpSyncTransmit hc hm hs, (becomes_sendGptp_up (s := s.setServo b _) hu 0 2).of_regs rfl⟩
  · have hmode : (s.bump (Reg.SYNC_RX e.val)).r (Reg.T_MODE b) = 1 := (State.r_bump_of_ne s (by grind)).trans hm
    refine ⟨_, exec_gptpSyncReceive_synced hc hu hm ha, ?_⟩
    have hrx := (r_synced (gm := gm) hb hmode (k := Reg.SYNC_RX e.val) (fun n => by grind) (by grind) (by grind) (by grind) (by grind)).trans
      (State.r_setR_self s _ _)
    have hstep : (s.bump (Reg.SYNC_RX e.val)).oneMore (Reg.T_STEPS b) = s.oneMore (Reg.T_STEPS b) := by
      rw [State.oneMore, State.r_bump_of_ne _ (by grind)]
      rfl
    have hfirst (hf : x.first = false) := synced_first (gm := gm) (s := s.bump (Reg.SYNC_RX e.val)) hb hmode hf
    have hlater (hf : x.first = true) := synced_later_effect (gm := gm) (s := s.bump (Reg.SYNC_RX e.val)) (b := b) hf
    generalize synced b gm (s.bump (Reg.SYNC_RX e.val)) = u at *
    refine ⟨hrx, congrArg Servo.nextSecond (servo_setServo_self _ _ _), fun hf => ?_, fun hf => ?_⟩
    · obtain ⟨ht, hsteps, hone, -⟩ := hfirst hf
      exact ⟨ht, hsteps.trans hstep, (congrArg Servo.first (servo_setServo_self _ _ _)).trans hone⟩
    · obtain ⟨hoff, hlock, ht⟩ := hlater hf
      exact ⟨ht, hoff, hlock⟩
  · exact congrArg Host.Outcome.next (if_neg fun hn => hn.1.elim h2 h3)
  · exact congrArg Host.Outcome.next (if_neg fun hn => absurd hn.2 (ne_true_of_eq_false hs))
  · exact congrArg Host.Outcome.next (if_neg fun hn => absurd hn.2.2 (ne_true_of_eq_false hs))
  · refine ⟨_, rfl, ?_, congrArg Servo.asRun ((servo_refreshAs _ _).trans (servo_setServo_self _ _ _)), ?_⟩
    · exact (r_refreshAs (fun n => by grind) _).trans (State.r_setR_self _ _ _)
    · refine (r_AS_CAPABLE_refreshAs e.isLt _).trans (if_congr ?_ rfl rfl)
      have hx : x = s.servo (e.val + 1) := rfl
      simp only [if_true, asCapable, hx, servo_setServo_self, r_setServo, State.r_setR_self,
        State.r_setR_of_ne s (show Reg.DELAY_THRESH e.val ≠ Reg.LINK_DELAY e.val by grind), Bool.and_eq_true, decide_eq_true_eq]
      omega
  · refine ⟨_, rfl, ?_, congrArg Servo.asRun ((servo_refreshAs _ _).trans (servo_setServo_self _ _ _)), ?_, ?_⟩
    · exact (r_refreshAs (fun n => by grind) _).trans (State.r_setR_self _ _ _)
    · refine (r_AS_CAPABLE_refreshAs e.isLt _).trans (if_neg ?_)
      simp [asCapable]
    · exact (r_refreshAs (fun n => by grind) _).trans (State.r_bump_of_ne s (by grind))
  · intro lapse
    exact ⟨fun hm hs h => congrArg Host.Outcome.next (if_pos ⟨hm, hs, hc, h⟩), fun h =>
      congrArg Host.Outcome.next (if_neg fun hn => h.elim (absurd hn.2.1) (absurd hn.2.2.2 ∘ Nat.not_le.2))⟩

/-! ## Answers on the link -/

theorem becomes_reply {e : Nat} {s : State} (h : ethUp s e = true) (mac kind : Nat) (body : Bytes) :
    Becomes s (reply e mac kind body s) (s.emit (.reply e mac kind body)) [(Reg.NET_TX_FRAMES e, s.oneMore (Reg.NET_TX_FRAMES e))] := by
  rw [reply, if_pos h]
  exact (Becomes.bump (s.emit _) _).of_regs rfl

theorem answer_other {s : State} {e : Nat} {own : Bool} (h : ethUp s e = false ∨ own = false) (mac kind : Nat) (body : Bytes) :
    (if own then reply e mac kind body s else s) = s := by
  rcases h with h | h
  · cases own <;> simp [reply, h]
  · simp [h]

section
variable {f : EthFrame} {s : State} (hu : ethUp s f.port.val = true) (hp : portPowered s f.port.val = true)
include hu hp

theorem exec_ethFrameReceive : exec (.ethFrameReceive f) s = .next (
    let x := qciPass f (s.bump (Reg.NET_RX_FRAMES f.port.val))
    if !x.1 then x.2.bump (Reg.TSN_QCI_DROPS f.port.val)
    else if 1528 < f.size then discardRx f.port.val x.2 else dispatchEth f x.2) := by
  simp only [exec, execEthFrameReceive, hu, hp, Bool.not_true, Bool.false_eq_true, or_self, if_false]

omit hu hp in
theorem dispatchEth_arp {a : Nat} (h : f.body = .arp a) : dispatchEth f s = answerArp f.port.val f.src.toNat a s := by
  rw [dispatchEth, h]

omit hu hp in
theorem dispatchEth_fragment {src dst : Nat} {v6 : Bool} {sp dp : BitVec 16} {d : Bytes} (h : f.body = .udp src dst v6 true sp dp d) :
    dispatchEth f s = discardRx f.port.val s := by
  rw [dispatchEth, h]
  exact if_pos (.inl rfl)

/-- Without filtering: the port of management. -/
theorem exec_ethFrameReceive_management (hf : f.port = 2) (hs : f.size ≤ 1528) :
    exec (.ethFrameReceive f) s = .next (dispatchEth f (s.bump (Reg.NET_RX_FRAMES f.port.val))) := by
  have hpass : qciPass f (s.bump (Reg.NET_RX_FRAMES f.port.val)) = (true, s.bump (Reg.NET_RX_FRAMES f.port.val)) := if_pos hf
  rw [exec_ethFrameReceive hu hp, hpass]
  exact congrArg _ (if_neg (Nat.not_lt.2 hs))

end

/-- Settles O56. -/
theorem framesAreReceivedAndAnswered : Obligations.FramesAreReceivedAndAnswered := by
  unfold Obligations.FramesAreReceivedAndAnswered
  intro f eth target mac ip v6 data s c
  refine ⟨fun hd => congrArg Host.Outcome.next (if_pos (.inl (by rw [hd]; rfl))), fun hu hp => ⟨fun h => ?_, fun h hs => ?_, fun h hs => ?_,
    fun hf hs a hb => ?_, fun hf hs src dst v6 sp dp d hb => ?_⟩, fun hu => ⟨fun h => ?_, fun h => ?_, fun h => ?_⟩,
    fun h => congrArg Host.Outcome.next (answer_other h _ _ _), fun h => congrArg Host.Outcome.next (answer_other h _ _ _),
    fun h => congrArg Host.Outcome.next (answer_other h _ _ _)⟩
  · rw [exec_ethFrameReceive hu hp]
    exact congrArg _ (if_pos (by rw [h]; rfl))
  · rw [exec_ethFrameReceive hu hp]
    exact congrArg _ ((if_neg (by rw [h]; decide)).trans (if_pos hs))
  · rw [exec_ethFrameReceive hu hp]
    exact congrArg _ ((if_neg (by rw [h]; decide)).trans (if_neg (Nat.not_lt.2 hs)))
  · rw [exec_ethFrameReceive_management hu hp hf hs, dispatchEth_arp hb]
    exact congrArg (fun n => Host.Outcome.next (answerArp n f.src.toNat a c)) (congrArg Fin.val hf)
  · rw [exec_ethFrameReceive_management hu hp hf hs, dispatchEth_fragment hb]
    exact congrArg (fun n => Host.Outcome.next (discardRx n c)) (congrArg Fin.val hf)
  · exact ⟨_, congrArg Host.Outcome.next (if_pos h), becomes_reply hu _ _ _⟩
  · exact ⟨_, congrArg Host.Outcome.next (if_pos h), becomes_reply hu _ _ _⟩
  · exact ⟨_, congrArg Host.Outcome.next (if_pos h), becomes_reply hu _ _ _⟩

end Sys2Proof.Machine
end

section
/-! Links and buses (R476, R478, R493); resets and the loss of supply (R514, R516, R542). -/

namespace Sys2Proof.Machine

open Sys2Proof

/-! ## A link or bus that returns -/

theorem safe_setR {s : State} {k : Key} (h : Reg.SAFE_STATE ≠ k) (v : Nat) : (s.setR k v).safe = s.safe := by
  simp only [State.safe, State.on, State.r_setR_of_ne s h v]

section
variable {eth : Fin 3} {s : State} (he : s.on (Reg.NET_ENABLE eth.val) = true) (hl : s.r (Reg.NET_LINK_STATE eth.val) ≠ 2)
  (hp : portPowered s eth.val = true)
include he hl hp

theorem exec_ethLinkUp : exec (.ethLinkUp eth) s = .next (
    match s.net.heldLwEth with
    | some x => if eth = 0 ∧ s.safe then
        lastWordEth x.1 x.2 { s.setR (Reg.NET_LINK_STATE eth.val) 2 with net := { s.net with heldLwEth := none } }
      else s.setR (Reg.NET_LINK_STATE eth.val) 2
    | none => s.setR (Reg.NET_LINK_STATE eth.val) 2) := by
  refine congrArg Host.Outcome.next ((if_pos ⟨he, hl, hp⟩).trans ?_)
  dsimp only
  rw [safe_setR (by grind)]
  rfl

theorem exec_ethLinkUp_plain (h : eth ≠ 0 ∨ s.safe = false ∨ s.net.heldLwEth = none) :
    exec (.ethLinkUp eth) s = .next (s.setR (Reg.NET_LINK_STATE eth.val) 2) := by
  rw [exec_ethLinkUp he hl hp]
  cases hx : s.net.heldLwEth with
  | none => rfl
  | some x =>
    refine congrArg _ (if_neg fun hn => ?_)
    rcases h with h | h | h
    · exact h hn.1
    · rw [h] at hn
      exact absurd hn.2 Bool.false_ne_true
    · rw [hx] at h
      cases h

theorem exec_ethLinkUp_held {x : LwTemplate} {b : Bytes} (h0 : eth = 0) (hs : s.safe = true) (hx : s.net.heldLwEth = some (x, b)) :
    exec (.ethLinkUp eth) s
      = .next (lastWordEth x b { s.setR (Reg.NET_LINK_STATE eth.val) 2 with net := { s.net with heldLwEth := none } }) := by
  rw [exec_ethLinkUp he hl hp, hx]
  exact congrArg _ (if_pos ⟨h0, hs⟩)

end

section
variable {c : Fin 4} {s : State} (hc : clocksRun s = true) (he : s.on (Reg.CAN_ENABLE c.val) = true)
  (hl : s.r (Reg.CAN_ERR_STATE c.val) = 2)
include hc he hl

theorem exec_canBusRecovery : exec (.canBusRecovery c) s = .next (
    match s.net.heldLwCan with
    | some x => if c = 0 ∧ s.safe then
        lastWordCan x.1 x.2 { s.setR (Reg.CAN_ERR_STATE c.val) 0 with net := { s.net with heldLwCan := none } }
      else s.setR (Reg.CAN_ERR_STATE c.val) 0
    | none => s.setR (Reg.CAN_ERR_STATE c.val) 0) := by
  refine congrArg Host.Outcome.next ((if_pos ⟨he, hl, hc⟩).trans ?_)
  dsimp only
  rw [safe_setR (by grind)]
  rfl

theorem exec_canBusRecovery_plain (h : c ≠ 0 ∨ s.safe = false ∨ s.net.heldLwCan = none) :
    exec (.canBusRecovery c) s = .next (s.setR (Reg.CAN_ERR_STATE c.val) 0) := by
  rw [exec_canBusRecovery hc he hl]
  cases hx : s.net.heldLwCan with
  | none => rfl
  | some x =>
    refine congrArg _ (if_neg fun hn => ?_)
    rcases h with h | h | h
    · exact h hn.1
    · rw [h] at hn
      exact absurd hn.2 Bool.false_ne_true
    · rw [hx] at h
      cases h

theorem exec_canBusRecovery_held {x : LwTemplate} {b : Bytes} (h0 : c = 0) (hs : s.safe = true) (hx : s.net.heldLwCan = some (x, b)) :
    exec (.canBusRecovery c) s
      = .next (lastWordCan x b { s.setR (Reg.CAN_ERR_STATE c.val) 0 with net := { s.net with heldLwCan := none } }) := by
  rw [exec_canBusRecovery hc he hl, hx]
  exact congrArg _ (if_pos ⟨h0, hs⟩)

end

theorem ethUp_setR_linkState {s : State} {e : Nat} (h : s.on (Reg.NET_ENABLE e) = true) : ethUp (s.setR (Reg.NET_LINK_STATE e) 2) e = true := by
  have hr : (s.setR (Reg.NET_LINK_STATE e) 2).on (Reg.NET_ENABLE e) = true := by
    rwa [State.on, State.r_setR_of_ne s (by grind)]
  simp [ethUp, hr]

theorem canUp_setR_errState {s : State} {c : Nat} (h : s.on (Reg.CAN_ENABLE c) = true) : canUp (s.setR (Reg.CAN_ERR_STATE c) 0) c = true := by
  have hr : (s.setR (Reg.CAN_ERR_STATE c) 0).on (Reg.CAN_ENABLE c) = true := by
    rwa [State.on, State.r_setR_of_ne s (by grind)]
  simp [canUp, hr]

/-- One last-word frame leaves on ETH-A when it has one tag. -/
theorem lastWordEth_once {x : LwTemplate} (h : x.vlan2 = 0xFFFF) (b : Bytes) (s : State) : lastWordEth x b s = emitLastWord x x.vlan1 b s :=
  if_pos h

theorem r_LW_SENT_emitLastWord (x : LwTemplate) (vlan : Nat) (b : Bytes) (s : State) :
    (emitLastWord x vlan b s).r Reg.LW_SENT = s.oneMore Reg.LW_SENT :=
  (State.r_bump_of_ne _ (by decide)).trans (State.r_setR_self _ _ _)

theorem r_LW_SENT_lastWordCan (x : LwTemplate) (b : Bytes) (s : State) : (lastWordCan x b s).r Reg.LW_SENT = s.oneMore Reg.LW_SENT :=
  (State.r_bump_of_ne _ (by decide)).trans (State.r_setR_self _ _ _)

theorem oneMore_setR {s : State} {k j : Key} (h : j ≠ k) (v : Nat) : (s.setR k v).oneMore j = s.oneMore j := by
  rw [State.oneMore, State.r_setR_of_ne s h]
  rfl

/-- Settles O57. -/
theorem linksAndBusesComeAndGo : Obligations.LinksAndBusesComeAndGo := by
  unfold Obligations.LinksAndBusesComeAndGo
  intro eth c s
  refine ⟨fun hu => ⟨fun h2 => ?_, fun h2 => ?_⟩, fun hd => congrArg Host.Outcome.next (if_neg (ne_true_of_eq_false hd)),
    fun he hl hp => ⟨fun h => ⟨_, exec_ethLinkUp_plain he hl hp h, .setR s _ _, ethUp_setR_linkState he⟩, fun x b h0 hs hx hv => ?_⟩,
    fun h => ?_, fun hc hu => congrArg Host.Outcome.next (if_pos ⟨hu, hc⟩), fun hd => ?_,
    fun hc he hl => ⟨fun h => ⟨_, exec_canBusRecovery_plain hc he hl h, .setR s _ _, canUp_setR_errState he⟩, fun x b h0 hs hx => ?_⟩,
    fun h => congrArg Host.Outcome.next (if_neg fun hn => h hn.2.1), fun h => ?_, fun h => ?_⟩
  · exact congrArg Host.Outcome.next ((if_pos hu).trans (if_pos h2))
  · exact congrArg Host.Outcome.next ((if_pos hu).trans (if_neg h2))
  · refine ⟨_, exec_ethLinkUp_held he hl hp h0 hs hx, ?_⟩
    rw [lastWordEth_once hv]
    exact ⟨rfl, (r_LW_SENT_emitLastWord _ _ _ _).trans (oneMore_setR (by grind) 2), rfl⟩
  · refine congrArg Host.Outcome.next (if_neg fun hn => ?_)
    rcases h with h | h <;> simp [h] at hn
  · exact congrArg Host.Outcome.next (if_neg fun hn => absurd hn.1 (ne_true_of_eq_false hd))
  · exact ⟨_, exec_canBusRecovery_held hc he hl h0 hs hx, rfl, (r_LW_SENT_lastWordCan _ _ _).trans (oneMore_setR (by grind) 0), rfl⟩
  · exact ⟨_, congrArg Host.Outcome.next (if_pos h), rfl, rfl, rfl⟩
  · exact congrArg Host.Outcome.next (if_neg (ne_true_of_eq_false h))

/-! ## Resets -/

theorem survivesWarm_FAULT_COUNT {n : Nat} (h : n < 104) : survivesWarm (Reg.FAULT_COUNT n) = true := by
  have hi : Reg.FAULT_COUNT n / 256 = 0x5001 := by
    show (0x500100 + 1 + n) / 256 = 0x5001
    omega
  simp only [survivesWarm, hi]

/-- Settles O59. -/
theorem resetsKeepWhatOutlivesThem : Obligations.ResetsKeepWhatOutlivesThem := by
  unfold Obligations.ResetsKeepWhatOutlivesThem
  refine fun b s => ⟨⟨_, rfl, rfl, rfl, rfl, rfl, rfl, rfl, rfl, rfl⟩, ?_, fun h => ⟨_, congrArg Host.Outcome.next (if_pos h), h, rfl, rfl⟩,
    fun h => ⟨_, congrArg Host.Outcome.next (if_neg h), rfl, rfl, rfl, ?_, rfl, rfl, rfl, fun n hn => ?_, rfl⟩,
    fun h => ⟨_, congrArg Host.Outcome.next (if_pos h), rfl, rfl, rfl, rfl⟩, fun h => ⟨_, congrArg Host.Outcome.next (if_neg h), rfl, rfl, rfl⟩⟩
  · by_cases h : s.sys.phase = .off
    · have hexec : execColdBoot b s = .next { s with sys := { s.sys with
          phase := if s.sys.resetN then .booting else .heldInReset
          supplies := true, coreEn := true, corePg := true, bootIn := some b } } := by
        simp only [execColdBoot, if_pos h]
      exact ⟨_, hexec, rfl, rfl, rfl, fun hn => absurd h hn⟩
    · have hexec : execColdBoot b s = .next { losePower s with sys := { (losePower s).sys with
          phase := if (losePower s).sys.resetN then .booting else .heldInReset
          supplies := true, coreEn := true, corePg := true, bootIn := some b } } := by
        simp only [execColdBoot, if_neg h]
      exact ⟨_, hexec, rfl, rfl, rfl, fun _ => ⟨rfl, rfl, rfl⟩⟩
  · exact r_RESET_KIND_warmReset (by decide) b s
  · exact r_warmReset_of_survives (survivesWarm_FAULT_COUNT hn) (by grind) (by grind) 2 (by grind) b s

end Sys2Proof.Machine
end

section
/-! Displays: output frames, the compositor and the scan (R498 to R500, R510, R511). -/

namespace Sys2Proof.Machine

open Sys2Proof

/-! ## What a display's reads leave alone -/

/-- DRAM, the camera ports and the displays are as they were. -/
structure SameShown (s t : State) : Prop where
  mem : t.mem = s.mem
  ports : t.ports = s.ports
  disp : t.disp = s.disp

theorem SameShown.refl (s : State) : SameShown s s := ⟨rfl, rfl, rfl⟩

theorem SameShown.trans {s t u : State} (h : SameShown s t) (h' : SameShown t u) : SameShown s u :=
  ⟨h'.mem.trans h.mem, h'.ports.trans h.ports, h'.disp.trans h.disp⟩

theorem sameShown_raise {src : Nat} (hs : src < 256) (who : Ident) (s : State) : SameShown s (raise src who s) := by
  have hr := reacts_raise (.refl s) hs who
  exact ⟨hr.mem, hr.ports, hr.disp⟩

theorem sameShown_countRead (g : Option (Fin 64)) (cls : Nat) (s : State) : SameShown s (countRead g cls s) := by
  cases g <;> exact ⟨rfl, rfl, rfl⟩

theorem sameShown_readBurst (n : Nat) (err : BurstErr) (s : State) : SameShown s (readBurst n err s).2 := by
  unfold readBurst
  dsimp only
  split
  · exact ⟨rfl, rfl, rfl⟩
  · exact .trans (t := (s.setBurstErr n _).bump (Reg.DRAM_CORR _)) ⟨rfl, rfl, rfl⟩ (sameShown_raise (src := Src.DRAM_CORR) (by decide) _ _)
  · exact .trans (t := (s.setBurstErr n _).bump (Reg.DRAM_UNCORR _)) ⟨rfl, rfl, rfl⟩
      (sameShown_raise (src := Src.DRAM_UNCORR) (by decide) _ _)

theorem sameShown_looseBursts (cls k : Nat) : ∀ (n : Nat) (s : State), SameShown s (looseBursts cls k n s).2 := by
  induction k with
  | zero => exact fun _ s => .refl s
  | succ k ih =>
    intro n s
    have h := (sameShown_countRead none cls s).trans (sameShown_readBurst n [] _)
    rw [looseBursts]
    dsimp only
    generalize readBurst n [] (countRead none cls s) = x at h
    have h1 : SameShown x.2 { x.2 with free := x.2.free + 32 } := ⟨rfl, rfl, rfl⟩
    exact (h.trans h1).trans (ih (n + 1) _)

theorem sameShown_readLoose (a n cls : Nat) (s : State) : SameShown s (readLoose a n cls s).2 := sameShown_looseBursts _ _ _ _

theorem sameShown_readGroupsOf (q : ParamSet) (base y n : Nat) : ∀ (k : Nat) (s : State), SameShown s (readGroupsOf q base y n k s).2 := by
  induction n with
  | zero => exact fun _ s => .refl s
  | succ n ih => exact fun k s => (sameShown_readLoose _ _ _ s).trans (ih (k + 1) _)

theorem sameShown_readRowOf (c : Nat) (o : OutFrame) (x0 w y : Nat) (s : State) : SameShown s (readRowOf c o x0 w y s).2 := by
  unfold readRowOf
  split
  · exact .refl s
  · exact sameShown_readGroupsOf _ _ _ _ _ _

theorem sameShown_fetchRows (x : PlaneShot) (l : List Nat) : ∀ s : State, SameShown s (fetchRows x l s).2 := by
  induction l with
  | nil => exact fun s => .refl s
  | cons y l ih =>
    intro s
    refine SameShown.trans ?_ (ih _)
    split
    · exact sameShown_readRowOf _ _ _ _ _ _
    · exact .refl s

theorem sameShown_fetchPlane (j : Nat) (x : PlaneShot) (s : State) : SameShown s (fetchPlane j x s).2 := by
  unfold fetchPlane
  split
  · exact .refl s
  · split
    · exact .refl s
    · split
      · exact sameShown_fetchRows x _ s
      · exact .refl s

theorem sameShown_fetchPlanes (j : Nat) (l : List PlaneShot) : ∀ s : State, SameShown s (fetchPlanes j l s).2 := by
  induction l with
  | nil => exact fun s => .refl s
  | cons x l ih => exact fun s => (sameShown_fetchPlane j x s).trans (ih _)

/-- Planes without a camera read nothing. -/
theorem fetchPlane_still {x : PlaneShot} (h : x.enable = true → 36 ≤ x.source) (j : Nat) (s : State) : (fetchPlane j x s).2 = s := by
  unfold fetchPlane
  split
  · rfl
  next hn =>
    have hsrc : ¬ x.source < 36 := by
      cases he : x.enable with
      | false => simp [he] at hn
      | true => exact Nat.not_lt.2 (h he)
    split
    · rfl
    · rw [if_neg hsrc]

theorem fetchPlanes_still {l : List PlaneShot} (h : ∀ y ∈ l, y.enable = true → 36 ≤ y.source) (j : Nat) (s : State) :
    (fetchPlanes j l s).2 = s := by
  induction l with
  | nil => rfl
  | cons x l ih =>
    have hx := fetchPlane_still (h x List.mem_cons_self) j s
    change (fetchPlanes j l (fetchPlane j x s).2).2 = s
    rw [hx]
    exact ih fun y hy => h y (List.mem_cons_of_mem _ hy)

/-! ## Lines -/

@[simp] theorem dsp_setDsp_self (s : State) (d : Nat) (x : Disp) : (s.setDsp d x).dsp d = x := sget_sset_self _ _ _ _
theorem dsp_setDsp_of_ne {d e : Nat} (h : e ≠ d) (s : State) (x : Disp) : (s.setDsp d x).dsp e = s.dsp e := sget_sset_of_ne _ _ h _

section
variable {d : Fin 4} {s : State}

theorem exec_dspLineFetch (ha : (s.dsp d.val).active = true) (hn : (s.dsp d.val).fetchNext < s.r (Reg.DSP_V_ACTIVE d.val))
    (hl : (s.dsp d.val).fetchNext ≤ (s.dsp d.val).line + 4) : exec (.dspLineFetch d) s = .next (
      let x := s.dsp d.val
      let f := fetchPlanes x.fetchNext x.planes s
      let c := composeLine s d.val x.fetchNext f.1
      (f.2.setDsp d.val { x with
        fetched := x.fetched ++ [(x.fetchNext, c.1)], fetchNext := x.fetchNext + 1, shown := shownNow s d.val }).bumpBy
          (Reg.DSP_LAG_ROWS d.val) c.2) :=
  congrArg Host.Outcome.next (if_pos ⟨ha, hn, hl⟩)

theorem dspLineFetch_effect (ha : (s.dsp d.val).active = true) (hn : (s.dsp d.val).fetchNext < s.r (Reg.DSP_V_ACTIVE d.val))
    (hl : (s.dsp d.val).fetchNext ≤ (s.dsp d.val).line + 4) :
    let x := s.dsp d.val
    let f := fetchPlanes x.fetchNext x.planes s
    ∃ t, exec (.dspLineFetch d) s = .next t
      ∧ (t.dsp d.val).fetched = x.fetched ++ [(x.fetchNext, (composeLine s d.val x.fetchNext f.1).1)]
      ∧ (t.dsp d.val).fetchNext = x.fetchNext + 1 ∧ (t.dsp d.val).line = x.line
      ∧ (∀ e, e ≠ d.val → t.dsp e = s.dsp e) ∧ (∀ a, t.memByte a = s.memByte a) ∧ t.ports = s.ports
      ∧ ((∀ y ∈ x.planes, y.enable = true → 36 ≤ y.source) →
          (∀ k, k ≠ Reg.DSP_LAG_ROWS d.val → t.r k = s.r k) ∧ { t with regs := s.regs, disp := s.disp } = s) := by
  have hread := sameShown_fetchPlanes (s.dsp d.val).fetchNext (s.dsp d.val).planes s
  have hstill := fun h => fetchPlanes_still (l := (s.dsp d.val).planes) h (s.dsp d.val).fetchNext s
  intro x f
  refine ⟨_, exec_dspLineFetch ha hn hl, ?_⟩
  dsimp only
  change SameShown s f.2 at hread
  change _ → f.2 = s at hstill
  generalize f.2 = u at *
  have hdsp (y : Disp) : (u.setDsp d.val y).dsp d.val = y := dsp_setDsp_self u d.val y
  refine ⟨(congrArg Disp.fetched (hdsp _) :), (congrArg Disp.fetchNext (hdsp _) :), (congrArg Disp.line (hdsp _) :), fun e he => ?_,
    fun a => memByte_congr hread.mem a, hread.ports, fun h => ?_⟩
  · exact (dsp_setDsp_of_ne he u _).trans (by simp only [State.dsp, hread.disp])
  · have hu := hstill h
    subst hu
    exact ⟨fun k hk => State.r_setR_of_ne _ hk _, rfl⟩

theorem exec_dspLineScan (ha : (s.dsp d.val).active = true) (hv : (s.dsp d.val).line < s.r (Reg.DSP_V_ACTIVE d.val)) :
    exec (.dspLineScan d) s = .next (match (s.dsp d.val).fetched.find? fun l => l.1 = (s.dsp d.val).line with
      | some l => sendLine d.val l.2 s
      | none => raise Src.BRIDGE_OVERFLOW (.domain 22) (underrun d.val s)) :=
  congrArg Host.Outcome.next (if_pos ⟨ha, hv⟩)

/-- A composed line leaves as it stands (R499). -/
theorem dspLineScan_composed (ha : (s.dsp d.val).active = true) (hv : (s.dsp d.val).line < s.r (Reg.DSP_V_ACTIVE d.val))
    {l : Nat × List Pixel} (hl : (s.dsp d.val).fetched.find? (fun l => l.1 = (s.dsp d.val).line) = some l) :
    ∃ t, exec (.dspLineScan d) s = .next t
      ∧ t.wire = s.wire ++ [.displayLine d.val (s.dsp d.val).line l.2] ∧ (t.dsp d.val).line = (s.dsp d.val).line + 1
      ∧ (t.dsp d.val).crc = (pixelBytes l.2).foldl crcByte (s.dsp d.val).crc ∧ (∀ k, t.r k = s.r k)
      ∧ { t with disp := s.disp, wire := s.wire } = s := by
  refine ⟨sendLine d.val l.2 s, ?_, rfl, ?_, ?_, fun _ => rfl, rfl⟩
  · rw [exec_dspLineScan ha hv, hl]
  · exact (congrArg Disp.line (dsp_setDsp_self s d.val _) :)
  · exact (congrArg Disp.crc (dsp_setDsp_self s d.val _) :)

/-- A line that the compositor has not delivered is sent in BACKGROUND, counted and raised (R499). -/
theorem dspLineScan_underrun (ha : (s.dsp d.val).active = true) (hv : (s.dsp d.val).line < s.r (Reg.DSP_V_ACTIVE d.val))
    (hl : (s.dsp d.val).fetched.find? (fun l => l.1 = (s.dsp d.val).line) = none) :
    exec (.dspLineScan d) s = .next (raise Src.BRIDGE_OVERFLOW (.domain 22)
      ((sendLine d.val (backgroundLine s d.val) s).bump (Reg.DSP_UNDERRUN d.val))) := by
  rw [exec_dspLineScan ha hv, hl]
  rfl

/-! ## The end of an output frame -/

/-- Whether an output frame repeats the one before (R511). -/
def repeatsFrame (s : State) (d : Nat) : Bool :=
  (s.dsp d).anyFrame && decide (((s.dsp d).crc ^^^ 0xFFFFFFFF#32).toNat = s.r (Reg.DSP_OUT_SIGNATURE d)) && showsChanged (s.dsp d)

/-- An output frame ended, with `n` repeats counted. -/
def endOutput (s : State) (d n : Nat) : State :=
  freeOutBufs ((((s.setR (Reg.DSP_OUT_SIGNATURE d) ((s.dsp d).crc ^^^ 0xFFFFFFFF#32).toNat).bump (Reg.DSP_FRAMES d)).setDsp d { s.dsp d with
    active := false, fetched := [], prevShown := (s.dsp d).shown, repeats := n, anyFrame := true }))

theorem exec_dspFrameEnd (ha : (s.dsp d.val).active = true) (hv : (s.dsp d.val).line = s.r (Reg.DSP_V_ACTIVE d.val)) :
    exec (.dspFrameEnd d) s = .next (
      let n := if repeatsFrame s d.val then (s.dsp d.val).repeats + 1 else 0
      let full := repeatsFrame s d.val && decide (s.r (Reg.DSP_FREEZE_N d.val) ≤ n)
      let t := endOutput s d.val (if full then 0 else n)
      if full then raise Src.DSP_FREEZE (.display d.val) (t.bump (Reg.DSP_FREEZES d.val)) else t) :=
  congrArg Host.Outcome.next (if_pos ⟨ha, hv⟩)

theorem dsp_endOutput (s : State) (d n : Nat) : (endOutput s d n).dsp d = { s.dsp d with
    active := false, fetched := [], prevShown := (s.dsp d).shown, repeats := n, anyFrame := true } :=
  dsp_setDsp_self _ _ _

theorem dsp_bump (s : State) (k : Key) (d : Nat) : (s.bump k).dsp d = s.dsp d := rfl

theorem r_endOutput_SIGNATURE (s : State) (d : Nat) (n : Nat) :
    (endOutput s d n).r (Reg.DSP_OUT_SIGNATURE d) = ((s.dsp d).crc ^^^ 0xFFFFFFFF#32).toNat :=
  (State.r_setR_of_ne _ (by grind) _).trans (State.r_setR_self _ _ _)

theorem r_endOutput_FRAMES (s : State) (d : Nat) (n : Nat) :
    (endOutput s d n).r (Reg.DSP_FRAMES d) = s.oneMore (Reg.DSP_FRAMES d) :=
  (State.r_setR_self _ _ _).trans (oneMore_setR (by grind) _)

theorem r_endOutput_FREEZES (s : State) (d : Nat) (n : Nat) :
    (endOutput s d n).r (Reg.DSP_FREEZES d) = s.r (Reg.DSP_FREEZES d) :=
  (State.r_setR_of_ne _ (by grind) _).trans (State.r_setR_of_ne _ (by grind) _)

/-- A frame that is no repeat ends with its signature (R511). -/
theorem dspFrameEnd_fresh (ha : (s.dsp d.val).active = true) (hv : (s.dsp d.val).line = s.r (Reg.DSP_V_ACTIVE d.val))
    (h : repeatsFrame s d.val = false) : exec (.dspFrameEnd d) s = .next (endOutput s d.val 0) := by
  rw [exec_dspFrameEnd ha hv]
  simp only [h, Bool.false_and, Bool.false_eq_true, if_false]

/-- A repeat is counted until FREEZE_N of them. -/
theorem dspFrameEnd_repeat (ha : (s.dsp d.val).active = true) (hv : (s.dsp d.val).line = s.r (Reg.DSP_V_ACTIVE d.val))
    (h : repeatsFrame s d.val = true) (hn : (s.dsp d.val).repeats + 1 < s.r (Reg.DSP_FREEZE_N d.val)) :
    exec (.dspFrameEnd d) s = .next (endOutput s d.val ((s.dsp d.val).repeats + 1)) := by
  rw [exec_dspFrameEnd ha hv]
  simp only [h, Bool.true_and, if_true, decide_eq_false (Nat.not_le.2 hn), Bool.false_eq_true, if_false]

/-- With the last repeat the output is frozen: counted and raised. -/
theorem dspFrameEnd_freeze (ha : (s.dsp d.val).active = true) (hv : (s.dsp d.val).line = s.r (Reg.DSP_V_ACTIVE d.val))
    (h : repeatsFrame s d.val = true) (hn : s.r (Reg.DSP_FREEZE_N d.val) ≤ (s.dsp d.val).repeats + 1) :
    exec (.dspFrameEnd d) s = .next (raise Src.DSP_FREEZE (.display d.val) ((endOutput s d.val 0).bump (Reg.DSP_FREEZES d.val))) := by
  rw [exec_dspFrameEnd ha hv]
  simp only [h, Bool.true_and, if_true, decide_eq_true hn]

/-! ## Frame starts and links -/

theorem dsp_startOutput (s : State) (d : Nat) : ((startOutput d s).dsp d).active = true ∧ ((startOutput d s).dsp d).line = 0
    ∧ ((startOutput d s).dsp d).planes = (List.range 4).map fun k => samplePlane s (4 * d + k) := by
  unfold startOutput
  dsimp only
  generalize forEach _ _ s = u
  have h (y : Disp) : (freeOutBufs (u.setDsp d y)).dsp d = y := dsp_setDsp_self u d y
  rw [h]
  exact ⟨rfl, rfl, rfl⟩

theorem dspLinkLoss_effect (h : displayUp s d.val = true) :
    ∃ t, exec (.dspLinkLoss d) s = .next (raise Src.DSP_LINK_LOSS (.display d.val) t)
      ∧ t.r (Reg.DSP_LINK_STATE d.val) = 1 ∧ t.r (Reg.DSP_LINK_LOSSES d.val) = s.oneMore (Reg.DSP_LINK_LOSSES d.val)
      ∧ (t.dsp d.val).active = false :=
  ⟨_, congrArg Host.Outcome.next (if_pos h), (State.r_setR_of_ne _ (by grind) _).trans (State.r_setR_self _ _ _),
    (State.r_setR_self _ _ _).trans (oneMore_setR (by grind) _), (congrArg Disp.active (dsp_setDsp_self _ d.val _) :)⟩

theorem displayUp_setR_linkState (hon : s.on (Reg.DSP_ENABLE d.val) = true) :
    displayUp (s.setR (Reg.DSP_LINK_STATE d.val) 2) d.val = true := by
  have he : (s.setR (Reg.DSP_LINK_STATE d.val) 2).on (Reg.DSP_ENABLE d.val) = true := by
    rwa [State.on, State.r_setR_of_ne _ (by grind)]
  rw [displayUp, he, State.r_setR_self]
  rfl

end

/-- Settles O58: each event is written with its own condition; what the compositor reads changes no display, so a fetch changes its
port's line store alone. -/
theorem displaysScanComposedLines : Obligations.DisplaysScanComposedLines := by
  intro d s x
  refine ⟨fun hu ha ho => ⟨congrArg Host.Outcome.next (if_pos ?_), dsp_startOutput s d.val⟩, fun h => congrArg Host.Outcome.next (if_neg ?_),
    dspLineFetch_effect, fun h => congrArg Host.Outcome.next (if_neg ?_),
    fun ha hv => ⟨fun l hl => dspLineScan_composed ha hv hl, fun hl => dspLineScan_underrun ha hv hl⟩,
    fun h => congrArg Host.Outcome.next (if_neg ?_), ?_, ?_, fun h => congrArg Host.Outcome.next (if_neg ?_), dspLinkLoss_effect,
    fun h => congrArg Host.Outcome.next (if_neg (ne_true_of_eq_false h)), fun hon hl => ?_, fun h => congrArg Host.Outcome.next (if_neg ?_)⟩
  · change x.active = false at ha
    exact ⟨hu, by simp [x] at ha; simp [ha], by simp [ho]⟩
  · rintro ⟨hu, ha, ho⟩
    obtain h | h | h := h <;> simp_all [x]
  · rintro ⟨ha, hn, hl⟩
    obtain h | h | h := h
    · exact ne_true_of_eq_false h ha
    · exact absurd hn (Nat.not_lt.2 h)
    · exact absurd hl (Nat.not_le.2 h)
  · rintro ⟨ha, hv⟩
    exact h.elim (fun h => ne_true_of_eq_false h ha) fun h => absurd hv (Nat.not_lt.2 h)
  · intro ha hv sig h
    have hr : repeatsFrame s d.val = false := by
      unfold repeatsFrame
      obtain h | h | h := h
      · rw [decide_eq_false h, Bool.and_false, Bool.false_and]
      · rw [h, Bool.and_false]
      · rw [h, Bool.false_and, Bool.false_and]
    have hd := dsp_endOutput s d.val 0
    exact ⟨_, dspFrameEnd_fresh ha hv hr, r_endOutput_SIGNATURE _ _ _, r_endOutput_FRAMES _ _ _, (congrArg Disp.active hd :),
      (congrArg Disp.repeats hd :), rfl⟩
  · intro ha hv hany hsh hsig
    have hr : repeatsFrame s d.val = true := by
      unfold repeatsFrame
      rw [hany, hsh, decide_eq_true hsig]
      rfl
    refine ⟨fun hn => ⟨_, dspFrameEnd_repeat ha hv hr hn, (congrArg Disp.repeats (dsp_endOutput _ _ _) :), r_endOutput_FREEZES _ _ _⟩,
      fun hn => ⟨_, dspFrameEnd_freeze ha hv hr hn,
        congrArg Disp.repeats ((dsp_bump _ _ _).trans (dsp_endOutput s d.val 0)), ?_⟩⟩
    refine (State.r_setR_self _ _ _).trans ?_
    rw [State.oneMore, r_endOutput_FREEZES, ← State.oneMore]
  · exact fun ⟨ha, _⟩ => ne_true_of_eq_false h ha
  · exact ⟨_, congrArg Host.Outcome.next (if_pos ⟨hon, hl⟩), Becomes.setR s _ 2, displayUp_setR_linkState hon⟩
  · exact fun ⟨_, hl⟩ => h hl

end Sys2Proof.Machine
end

section
/-! In-field test (R398 to R402). A slot start copies the group's patterns into segment 63, and a pattern that ends inside a word
reads that word: a wrong bit in it is a fault of its own, whose reaction may drain the chip in the same step. -/

namespace Sys2Proof.Machine

open Sys2Proof

/-- Unit 0 withdrawn and due, with one pattern of one byte to copy; the word that the byte falls into has one wrong bit, its fault has
reaction 4, and the last fault reset was less than 600 s ago. -/
def wrongPatternWord : State :=
  { ({} : State).setR (Reg.REACTION (Src.SCRATCH_CORR - 1)) 4 with
    units := [(0, { status := .withdrawn })], ift := { due := [0] }, sram := [(63 * 65536 / 8, 1)], aon := { lastFaultReset := some 100 }
    sys := { phase := .ready, errLow := false, depotEn := true, testPkg := { image := [7], patterns := [⟨1, 0, 0, 1, 0, 1, 7, 0⟩] } } }

theorem wrongPatternWord_begins : wrongPatternWord.drained = false ∧ working wrongPatternWord = true
    ∧ (groupOf wrongPatternWord 0).any (slicePending wrongPatternWord) = false
    ∧ (groupOf wrongPatternWord 0).any (fun v => wrongPatternWord.ift.due.contains v) = true
    ∧ ∀ v ∈ groupOf wrongPatternWord 0, (wrongPatternWord.unit v).status = .withdrawn := by decide +kernel

/-- Its slot start: the wrong bit is raised, and the reset that came before makes the reaction a drain, which ends every slot. -/
theorem wrongPatternWord_drains : (beginSlot (groupOf wrongPatternWord 0) wrongPatternWord).drained = true
    ∧ (beginSlot (groupOf wrongPatternWord 0) wrongPatternWord).ift.slots = [] := by decide +kernel

theorem exec_iftSlotStart {u : UnitRef} {s : State} (hd : s.drained = false) (hw : working s = true)
    (hs : (groupOf s u.id).any (slicePending s) = false) (hdue : (groupOf s u.id).any (fun v => s.ift.due.contains v) = true)
    (hst : ∀ v ∈ groupOf s u.id, (s.unit v).status = .withdrawn) :
    exec (.iftSlotStart u) s = .next (beginSlot (groupOf s u.id) s) := by
  have hall : (groupOf s u.id).all (fun v => decide ((s.unit v).status = .withdrawn)) = true :=
    List.all_eq_true.2 fun v hv => decide_eq_true (hst v hv)
  simp only [exec, execIftSlotStart, hd, hw, hs, hdue, hall, Bool.not_true, Bool.false_eq_true, or_self, if_false]

/-- What O48 says of the slots after a slot start. -/
theorem slots_beginSlot_of_obligation (h : Obligations.UnitsAndPipesAreTested) {u : UnitRef} {s : State} (hd : s.drained = false)
    (hw : working s = true) (hs : (groupOf s u.id).any (slicePending s) = false)
    (hdue : (groupOf s u.id).any (fun v => s.ift.due.contains v) = true)
    (hst : ∀ v ∈ groupOf s u.id, (s.unit v).status = .withdrawn) :
    (beginSlot (groupOf s u.id) s).ift.slots = s.ift.slots ++ [⟨groupOf s u.id, s.sys.testPkg.patterns⟩] := by
  obtain ⟨-, -, hstart, -⟩ := h.1 u 0 [] [] [] s hd hw
  obtain ⟨t, hexec, -, hslots⟩ := hstart hs hdue hst
  rw [exec_iftSlotStart hd hw hs hdue hst] at hexec
  rwa [Host.Outcome.next.inj hexec]

/-- Refutes O48: a slot start whose pattern copy meets a wrong word can drain the chip, and then no slot is listed. -/
theorem not_unitsAndPipesAreTested : ¬ Obligations.UnitsAndPipesAreTested := by
  intro h
  obtain ⟨hdrained, hworking, hslice, hdue, hwithdrawn⟩ := wrongPatternWord_begins
  have hslots := slots_beginSlot_of_obligation h (u := .ox 0) hdrained hworking hslice hdue hwithdrawn
  exact List.append_ne_nil_of_right_ne_nil _ (List.cons_ne_nil _ _) (hslots.symm.trans wrongPatternWord_drains.2)

end Sys2Proof.Machine
end

section
/-! TILE_FETCH (R117, R129, R130, R132, R375): the sequencer hands out the indices of the older open slot. -/

namespace Sys2Proof.Machine

open Sys2Proof

/-! ## One update of several units -/

theorem nodup_eraseDups {α : Type} [BEq α] [LawfulBEq α] (l : List α) : l.eraseDups.Nodup := by
  induction h : l.length using Nat.strong_induction_on generalizing l with
  | _ n ih =>
    cases l with
    | nil => exact List.nodup_nil
    | cons a l =>
      rw [List.eraseDups_cons]
      have hlen : (l.filter fun b => !b == a).length < n := h ▸ Nat.lt_succ_of_le (List.length_filter_le _ _)
      refine List.nodup_cons.2 ⟨?_, ih _ hlen _ rfl⟩
      simp [List.mem_eraseDups]

/-- Each unit of a list changes by itself. -/
def modUnits (us : List Nat) (f : Nat → UnitState → UnitState) (s : State) : State := forEach us (fun u s => s.setUnit u (f u (s.unit u))) s

theorem modUnits_rest (us : List Nat) (f : Nat → UnitState → UnitState) (s : State) : { modUnits us f s with units := s.units } = s := by
  refine forEach_induct (P := fun t : State => { t with units := s.units } = s) (fun u t ht => ?_) rfl
  exact ht

theorem unit_modUnits_of_not_mem {us : List Nat} {w : Nat} (hw : w ∉ us) (f : Nat → UnitState → UnitState) (s : State) :
    (modUnits us f s).unit w = s.unit w := by
  induction us generalizing s with
  | nil => rfl
  | cons u us ih =>
    obtain ⟨hne, hrest⟩ := not_or.1 (mt List.mem_cons.2 hw)
    exact (ih hrest _).trans (State.unit_setUnit_of_ne _ _ hne)

theorem unit_modUnits_of_mem {us : List Nat} (hus : us.Nodup) {w : Nat} (hw : w ∈ us) (f : Nat → UnitState → UnitState) (s : State) :
    (modUnits us f s).unit w = f w (s.unit w) := by
  induction us generalizing s with
  | nil => cases hw
  | cons u us ih =>
    obtain ⟨hu, hus⟩ := List.nodup_cons.1 hus
    change (modUnits us f (s.setUnit u (f u (s.unit u)))).unit w = _
    by_cases h : w = u
    · subst h
      rw [unit_modUnits_of_not_mem hu, State.unit_setUnit_self]
    · rw [ih hus ((List.mem_cons.1 hw).resolve_left h), State.unit_setUnit_of_ne _ _ h]

/-! ## A station's frame -/

theorem slot_modSlot_self (g : Nat) (f : GraphSlot → GraphSlot) (s : State) : (modSlot g f s).slot g = f (s.slot g) :=
  State.slot_setSlot_self _ _ _

theorem slot_modFrame_of_ne {g k : Nat} (h : k ≠ g) (st f : Nat) (x : StFrame → StFrame) (s : State) :
    (modFrame g st f x s).slot k = s.slot k := State.slot_setSlot_of_ne _ _ h

/-- A change of a frame that leaves its place alone shows in that frame. -/
theorem stFrame?_modFrame {g st f : Nat} {s : State} {x : StFrame} (hx : stFrame? s g st f = some x) {h : StFrame → StFrame}
    (hh : ∀ y, (h y).isFor st f = y.isFor st f) : stFrame? (modFrame g st f h s) g st f = some (h x) := by
  have hfor : x.isFor st f = true := by simpa using List.find?_some hx
  have hmap : (fun y : StFrame => (if y.isFor st f then h y else y).isFor st f) = fun y => y.isFor st f := by
    funext y
    split
    · exact hh y
    · rfl
  have hslot : ((modFrame g st f h s).slot g).frames = (s.slot g).frames.map fun y => if y.isFor st f then h y else y :=
    congrArg GraphSlot.frames (slot_modSlot_self g _ s)
  rw [stFrame?, hslot, List.find?_map]
  change Option.map _ ((s.slot g).frames.find? fun y => (if y.isFor st f then h y else y).isFor st f) = _
  rw [hmap]
  change Option.map _ (stFrame? s g st f) = _
  rw [hx]
  exact congrArg some (if_pos hfor)

theorem skipTiles_none {s : State} {g : Nat} {p : Package} {st : Station} {x : StFrame} (h : skipCount s g p st x = 0) :
    skipTiles g p st x s = s := if_pos h

/-! ## Headers -/

theorem readHeader_unplaced {g : Fin 64} {st f : Nat} {s : State} (h : ∀ y, stFrame? s g.val st f = some y → y.base = 0) (cls : Nat) :
    readHeader g st f cls s = (none, s) := by
  unfold readHeader
  split
  · rfl
  next y hy => rw [if_pos (h y hy)]

/-- Inputs without a place in memory have no header to read. -/
theorem inputHeaders_unplaced {g : Fin 64} {p : Package} {st : Station} {f : Nat} {s : State} {l : List Nat}
    (h : ∀ n ∈ l, ∀ q y, p.producer? st n = some q → stFrame? s g.val q.number f = some y → y.base = 0) :
    inputHeaders g p st f l s = (none, s) := by
  induction l with
  | nil => rfl
  | cons n l ih =>
    have hrest := ih fun m hm => h m (List.mem_cons_of_mem _ hm)
    rw [inputHeaders.eq_def]
    dsimp only
    split
    · exact hrest
    next q hq =>
      rw [readHeader_unplaced (fun y hy => h n List.mem_cons_self q y hq hy)]
      exact hrest

/-! ## Handing out -/

section
variable {g : Fin 64} {p : Package} {st : Station} {us : List Nat} {x : StFrame} {l : List StFrame} {s : State}

theorem exec_tileFetch {u : UnitRef} {station : Nat} (h : Fetches s u g station p st) :
    exec (.tileFetch u g station) s = .next (serveFetch g p st (fetchGroup st u.id) (openSlots s g.val station) s) := by
  have hroom : (fetchGroup st u.id).all (canFetch s st) = true := List.all_eq_true.2 h.room
  have hlevel : (fetchGroup st u.id).all (pairLevel s st) = true := List.all_eq_true.2 h.level
  simp only [exec, execTileFetch, h.pkg, h.here, h.active, h.running, h.uses, hroom, hlevel, Bool.not_false, and_self, if_true]

theorem serveFetch_stall {who : Ident} (h : (inputHeaders g p st x.frame [0, 1, 2, 3] s).1 = some who) :
    serveFetch g p st us (x :: l) s
      = serveFetch g p st us l (headerStall g.val st.number x.frame who (inputHeaders g p st x.frame [0, 1, 2, 3] s).2) := by
  rw [serveFetch]
  simp only [h]

theorem serveFetch_ready (h : (inputHeaders g p st x.frame [0, 1, 2, 3] s).1 = none) {v : State}
    (hv : (inputHeaders g p st x.frame [0, 1, 2, 3] s).2 = v) (hx : stFrame? v g.val st.number x.frame = some x)
    (hskip : skipCount v g.val p st x = 0) (hlim : x.next < x.limit) (hready : tileReady v g.val p st x.frame x.next = true) :
    serveFetch g p st us (x :: l) s = handOut g p st x us v := by
  rw [serveFetch]
  simp only [h, hv, skipTiles_none hskip, hx, if_neg (Nat.not_le.2 hlim), hready, if_true]

/-- The indices that one fetch hands out. -/
def handedOut (st : Station) (x : StFrame) : List Nat := (List.range (min (fetchCount st) (x.limit - x.next))).map fun k => x.next + k

theorem length_handedOut (st : Station) (x : StFrame) : (handedOut st x).length = min (fetchCount st) (x.limit - x.next) := by
  rw [handedOut, List.length_map, List.length_range]

theorem handOut_eq : handOut g p st x us s = modUnits us (fun _ y => { y with
      log := y.log ++ (handedOut st x).map (logEntry g p st x.frame (handedOut st x)) })
    (modFrame g.val st.number x.frame (fun y => { y with
      next := y.next + (handedOut st x).length, issued := y.issued ++ handedOut st x }) s) := rfl

theorem handOut_effect (hus : us.Nodup) (hx : stFrame? s g.val st.number x.frame = some x) :
    (∀ w ∈ us, ((handOut g p st x us s).unit w).log
        = (s.unit w).log ++ (handedOut st x).map (logEntry g p st x.frame (handedOut st x)))
      ∧ (∀ w, w ∉ us → (handOut g p st x us s).unit w = s.unit w)
      ∧ stFrame? (handOut g p st x us s) g.val st.number x.frame
        = some { x with next := x.next + min (fetchCount st) (x.limit - x.next), issued := x.issued ++ handedOut st x }
      ∧ (∀ k, k ≠ g.val → (handOut g p st x us s).slot k = s.slot k)
      ∧ { handOut g p st x us s with slots := s.slots, units := s.units } = s := by
  have hframe := stFrame?_modFrame hx (h := fun y => { y with
    next := y.next + (handedOut st x).length, issued := y.issued ++ handedOut st x }) (fun _ => rfl)
  have hother (k : Nat) (hk : k ≠ g.val) := slot_modFrame_of_ne hk st.number x.frame (fun y => { y with
    next := y.next + (handedOut st x).length, issued := y.issued ++ handedOut st x }) s
  have hunits (w : Nat) : (modFrame g.val st.number x.frame (fun y => { y with
    next := y.next + (handedOut st x).length, issued := y.issued ++ handedOut st x }) s).unit w = s.unit w := rfl
  have hback : { modFrame g.val st.number x.frame (fun y => { y with
    next := y.next + (handedOut st x).length, issued := y.issued ++ handedOut st x }) s with slots := s.slots } = s := rfl
  rw [handOut_eq]
  generalize modFrame g.val st.number x.frame _ s = t at *
  have hrest := modUnits_rest us (fun _ y => { y with
      log := y.log ++ (handedOut st x).map (logEntry g p st x.frame (handedOut st x)) }) t
  have hslots := (congrArg State.slots hrest :)
  refine ⟨fun w hw => ?_, fun w hw => ?_, ?_, fun k hk => ?_, ?_⟩
  · rw [unit_modUnits_of_mem hus hw, hunits]
  · rw [unit_modUnits_of_not_mem hw, hunits]
  · rw [stFrame?, State.slot, hslots, ← length_handedOut]
    exact hframe
  · rw [State.slot, hslots]
    exact hother k hk
  · exact (congrArg (fun v : State => ({ v with slots := s.slots, units := s.units } : State)) hrest :).trans
      ((congrArg (fun v : State => ({ v with units := s.units } : State)) hback :).trans rfl)

end

/-- Settles O27: a fetch serves the first open slot; its headers read and its next tile ready, that slot hands out. -/
theorem tileFetchHandsOutReadyTiles : Obligations.TileFetchHandsOutReadyTiles := by
  intro u g station s p st hf
  refine ⟨exec_tileFetch hf, fun x l hslots => ?_⟩
  have hexec := exec_tileFetch hf
  rw [hslots] at hexec
  refine ⟨fun h => inputHeaders_unplaced fun n hn => h n ?_, fun who hwho hl => ?_, fun hnone hx hskip hlim hready => ?_⟩
  · have hall : ∀ n ∈ [0, 1, 2, 3], n < 4 := by decide
    exact hall n hn
  · subst hl
    rw [hexec, serveFetch_stall hwho]
    rfl
  · obtain ⟨hlog, hunits, hframe, hother, hrest⟩ := handOut_effect (p := p) (nodup_eraseDups (stationGroup st u.id)) hx
    exact ⟨_, hexec.trans (congrArg _ (serveFetch_ready hnone rfl hx hskip hlim hready)), ⟨hlog, hunits, hframe⟩, hother, hrest⟩

end Sys2Proof.Machine
end

section
/-! What the Mules bring (R117, R121, R155, R160, R177, R179, R564): headers, check words and operand buffers. -/

namespace Sys2Proof.Machine

open Sys2Proof

theorem regionOf_id (u : UnitRef) : regionOf u.id = u.region := by
  unfold regionOf UnitRef.id UnitRef.region
  cases u <;> grind

/-! ## Operand buffers -/

/-- Operand buffers alone changed, and only those of units `us`. -/
structure BuffersFilled (us : List Nat) (s t : State) : Prop where
  log : ∀ w, (t.unit w).log = (s.unit w).log
  others : ∀ w, w ∉ us → t.unit w = s.unit w
  rest : { t with units := s.units } = s

theorem BuffersFilled.refl (us : List Nat) (s : State) : BuffersFilled us s s := ⟨fun _ => rfl, fun _ _ => rfl, rfl⟩

theorem BuffersFilled.trans {us : List Nat} {s t v : State} (h : BuffersFilled us s t) (h' : BuffersFilled us t v) : BuffersFilled us s v :=
  ⟨fun w => (h'.log w).trans (h.log w), fun w hw => (h'.others w hw).trans (h.others w hw),
    (congrArg (fun x : State => ({ x with units := s.units } : State)) h'.rest :).trans h.rest⟩

theorem bufOf_ref (s : State) (u : Nat) (t : TileRef) : (bufOf s u t).ref = t := by
  unfold bufOf
  cases h : (s.unit u).opBuf.find? fun o => decide (o.ref = t) with
  | none => rfl
  | some o => simpa using List.find?_some h

/-- One unit's buffer of a tile replaced. -/
def putBuf (t : TileRef) (f : OpBuf → OpBuf) (u : Nat) (s : State) : State :=
  s.setUnit u { s.unit u with opBuf := ((s.unit u).opBuf.filter fun o => !decide (o.ref = t)) ++ [f (bufOf s u t)] }

theorem buffersFilled_putBuf {us : List Nat} {u : Nat} (hu : u ∈ us) (t : TileRef) (f : OpBuf → OpBuf) (s : State) :
    BuffersFilled us s (putBuf t f u s) := by
  refine ⟨fun w => ?_, fun w hw => State.unit_setUnit_of_ne _ _ fun h => hw (h ▸ hu), rfl⟩
  by_cases h : w = u
  · subst h
    exact (congrArg UnitState.log (State.unit_setUnit_self s w _) :)
  · exact congrArg UnitState.log (State.unit_setUnit_of_ne _ _ h)

/-- Whether unit `w` has a buffer of tile `t`, with a property. -/
def HasBuf (t : TileRef) (P : OpBuf → Prop) (w : Nat) (s : State) : Prop :=
  ∃ o, (s.unit w).opBuf.find? (fun o => decide (o.ref = t)) = some o ∧ P o

theorem HasBuf.exists {t : TileRef} {P : OpBuf → Prop} {w : Nat} {s : State} (h : HasBuf t P w s) :
    ∃ o ∈ (s.unit w).opBuf, o.ref = t ∧ P o := by
  obtain ⟨o, ho, hP⟩ := h
  exact ⟨o, List.mem_of_find?_eq_some ho, by simpa using List.find?_some ho, hP⟩

theorem HasBuf.bufOf {t : TileRef} {P : OpBuf → Prop} {w : Nat} {s : State} (h : HasBuf t P w s) : P (bufOf s w t) := by
  obtain ⟨o, ho, hP⟩ := h
  rwa [Machine.bufOf, ho]

theorem hasBuf_putBuf_self {P : OpBuf → Prop} {f : OpBuf → OpBuf} (hf : ∀ o, (f o).ref = o.ref) {u : Nat} {t : TileRef} {s : State}
    (hP : P (f (bufOf s u t))) : HasBuf t P u (putBuf t f u s) := by
  have hlast : decide ((f (bufOf s u t)).ref = t) = true := decide_eq_true ((hf _).trans (bufOf_ref _ _ _))
  refine ⟨f (bufOf s u t), ?_, hP⟩
  rw [putBuf, State.unit_setUnit_self]
  have hnone : (List.filter (fun o => !decide (o.ref = t)) (s.unit u).opBuf).find? (fun o => decide (o.ref = t)) = none := by
    rw [List.find?_eq_none]
    intro o ho
    simpa using (List.mem_filter.1 ho).2
  rw [List.find?_append, hnone, List.find?_singleton, hlast]
  rfl

theorem hasBuf_putBuf_of_ne {P : OpBuf → Prop} {u w : Nat} (h : w ≠ u) {t : TileRef} {f : OpBuf → OpBuf} {s : State} :
    HasBuf t P w (putBuf t f u s) ↔ HasBuf t P w s := by
  rw [HasBuf, putBuf, State.unit_setUnit_of_ne _ _ h, HasBuf]

theorem modBuf_eq (us : List Nat) (t : TileRef) (f : OpBuf → OpBuf) (s : State) : modBuf us t f s = forEach us (putBuf t f) s := rfl

theorem buffersFilled_modBuf {us vs : List Nat} (h : ∀ u ∈ us, u ∈ vs) (t : TileRef) (f : OpBuf → OpBuf) (s : State) :
    BuffersFilled vs s (modBuf us t f s) := by
  induction us generalizing s with
  | nil => exact .refl _ _
  | cons u us ih =>
    exact (buffersFilled_putBuf (h u List.mem_cons_self) t f s).trans (ih (fun w hw => h w (List.mem_cons_of_mem _ hw)) _)

/-- What an update of a tile's buffers makes true of any buffer is true of the buffer of each of the units. -/
theorem hasBuf_modBuf {P : OpBuf → Prop} {t : TileRef} {f : OpBuf → OpBuf} (hf : ∀ o, (f o).ref = o.ref) (hP : ∀ o, P (f o)) {us : List Nat}
    {w : Nat} (hw : w ∈ us) (s : State) : HasBuf t P w (modBuf us t f s) := by
  induction us using List.reverseRecOn with
  | nil => cases hw
  | append_singleton us u ih =>
    rw [modBuf_eq, forEach_append]
    change HasBuf t P w (putBuf t f u (modBuf us t f s))
    by_cases h : w = u
    · subst h
      exact hasBuf_putBuf_self hf (hP _)
    · refine (hasBuf_putBuf_of_ne h).2 (ih ((List.mem_append.1 hw).resolve_right ?_))
      simpa using h

/-- Updates of single buffers of units `us`, each of which keeps a property of the buffer, keep it of every unit. -/
theorem forEach_putBuf {P : OpBuf → Prop} {t : TileRef} {f : Nat → State → OpBuf → OpBuf} (hf : ∀ v s o, (f v s o).ref = o.ref)
    (hP : ∀ v s o, P o → P (f v s o)) {us vs : List Nat} (hus : ∀ u ∈ us, u ∈ vs) (s : State) :
    BuffersFilled vs s (forEach us (fun v s => putBuf t (f v s) v s) s)
      ∧ ∀ w, HasBuf t P w s → HasBuf t P w (forEach us (fun v s => putBuf t (f v s) v s) s) := by
  induction us generalizing s with
  | nil => exact ⟨.refl _ _, fun _ h => h⟩
  | cons u us ih =>
    obtain ⟨hfill, hkeep⟩ := ih (fun w hw => hus w (List.mem_cons_of_mem _ hw)) (putBuf t (f u s) u s)
    refine ⟨(buffersFilled_putBuf (hus u List.mem_cons_self) _ _ _).trans hfill, fun w hw => hkeep w ?_⟩
    by_cases h : w = u
    · subst h
      exact hasBuf_putBuf_self (hf w s) (hP w s _ hw.bufOf)
    · exact (hasBuf_putBuf_of_ne h).2 hw

/-! ## EXPAND_TILE -/

/-- The units that one expanded tile reaches. -/
def expandUnits (st : Station) (u : Nat) : List Nat := if u < 32 then castActs st u else [u]

/-- Whether a Mule may expand a tile for a unit now. -/
structure Expands (s : State) (m : Fin 16) (u : UnitRef) (t : TileRef) (p : Package) (st q z : Station) (r : ExpandRec) : Prop where
  pkg : (s.slot t.g.val).pkg = some p
  here : stationOf s t.g.val t.station = some st
  kind : expansionOf p st = some (q, r, z)
  serves : muleServes s m u.region = true
  reuse : st.tiling.reuse ≠ 3
  room : ∀ v ∈ expandUnits st u.id, bufferRoom s v st t = true
  absent : actsPresent s u.id p st t = false

/-- The positions of a tile's share. -/
def expandPositions (s : State) (p : Package) (st : Station) (t : TileRef) (u : Nat) : List (Option (Nat × Nat)) :=
  (List.range (sharePositions p st t u)).map (positionOf s p st t u)

/-- The bytes of an expanded tile that its check word covers. -/
def shareBytes (st : Station) (pos : List (Option (Nat × Nat))) (rows : List (List Nat × List Nat)) : Bytes :=
  checkBytes (fmtOr st.fmtIn) ((rows.take (pos.filter Option.isSome).length).flatMap Prod.fst)
    ((rows.take (pos.filter Option.isSome).length).flatMap Prod.snd)

section
variable {m : Fin 16} {u : UnitRef} {t : TileRef} {flips : List (Nat × Byte)} {s s1 s2 : State} {p : Package} {st q z : Station}
  {r : ExpandRec} {rows : List (List Nat × List Nat)}

theorem Expands.guard (h : Expands s m u t p st q z r) : ¬ (!muleServes s m u.region ∨ st.tiling.reuse = 3
    ∨ !((expandUnits st u.id).all fun v => bufferRoom s v st t) ∨ actsPresent s u.id p st t) := by
  have hroom : (expandUnits st u.id).all (fun v => bufferRoom s v st t) = true := List.all_eq_true.2 h.room
  simp [h.serves, h.reuse, hroom, h.absent]

theorem expandTile_headerFault (h : Expands s m u t p st q z r) {w : Ident}
    (hr : readHeaders t.g t.frame [q.number, z.number] s = (some w, s1)) :
    exec (.expandTile m u t flips) s = .next (operandFault u.id t w s1) := by
  simp only [exec, execExpandTile, h.pkg, h.here, h.kind]
  refine congrArg Host.Outcome.next ((if_neg h.guard).trans ?_)
  rw [hr]

theorem expandTile_headerHit (h : Expands s m u t p st q z r) (hr : readHeaders t.g t.frame [q.number, z.number] s = (none, s1))
    (hh : headerHit flips = true) :
    exec (.expandTile m u t flips) s = .next (operandFault u.id t (.tensor t.g.val q.number t.frame) s1) := by
  simp only [exec, execExpandTile, h.pkg, h.here, h.kind]
  refine congrArg Host.Outcome.next ((if_neg h.guard).trans ?_)
  rw [hr]
  simp only [hh, if_true]

theorem expandTile_wrong (h : Expands s m u t p st q z r) (hr : readHeaders t.g t.frame [q.number, z.number] s = (none, s1))
    (hh : headerHit flips = false)
    (hrows : expandRows t.g p q r z t.frame u.region (expandShare st r t).1 (expandShare st r t).2 (expandPositions s1 p st t u.id) s1
      = (.ok rows, s2))
    (hcrc : crc32c (flipFrom flips 0 (shareBytes st (expandPositions s1 p st t u.id) rows))
      ≠ crc32c (shareBytes st (expandPositions s1 p st t u.id) rows)) :
    exec (.expandTile m u t flips) s = .next (operandFault u.id t (.tile { t with station := q.number }) s2) := by
  simp only [exec, execExpandTile, h.pkg, h.here, h.kind]
  refine congrArg Host.Outcome.next ((if_neg h.guard).trans ?_)
  rw [hr]
  simp only [hh, Bool.false_eq_true, if_false]
  rw [← expandPositions, hrows]
  exact if_pos hcrc

theorem expandTile_good (h : Expands s m u t p st q z r) (hr : readHeaders t.g t.frame [q.number, z.number] s = (none, s1))
    (hrows : expandRows t.g p q r z t.frame u.region (expandShare st r t).1 (expandShare st r t).2 (expandPositions s1 p st t u.id) s1
      = (.ok rows, s2)) :
    exec (.expandTile m u t []) s = .next (modBuf (expandUnits st u.id) t (fun o => { o with
      expanded := true, acts := layoutActs st ((expandShare st r t).2 - (expandShare st r t).1) rows }) s2) := by
  have hh : headerHit [] = false := rfl
  simp only [exec, execExpandTile, h.pkg, h.here, h.kind]
  refine congrArg Host.Outcome.next ((if_neg h.guard).trans ?_)
  rw [hr]
  simp only [hh, Bool.false_eq_true, if_false]
  rw [← expandPositions, hrows]
  simp only [flipFrom, if_true, ne_eq, not_true_eq_false, if_false, List.take_append_drop]
  rfl

/-- Every unit of the share has the expanded tile, and nothing else changes. -/
theorem expandTile_effect (h : Expands s m u t p st q z r) (hr : readHeaders t.g t.frame [q.number, z.number] s = (none, s1))
    (hrows : expandRows t.g p q r z t.frame u.region (expandShare st r t).1 (expandShare st r t).2 (expandPositions s1 p st t u.id) s1
      = (.ok rows, s2)) : ∃ v, exec (.expandTile m u t []) s = .next v
      ∧ (∀ w ∈ expandUnits st u.id, ∃ o ∈ (v.unit w).opBuf, o.ref = t ∧ o.expanded = true
        ∧ o.acts = layoutActs st ((expandShare st r t).2 - (expandShare st r t).1) rows)
      ∧ (∀ w, (v.unit w).log = (s2.unit w).log) ∧ (∀ w, w ∉ expandUnits st u.id → v.unit w = s2.unit w)
      ∧ { v with units := s2.units } = s2 := by
  refine ⟨_, expandTile_good h hr hrows, fun w hw => (hasBuf_modBuf ?_ ?_ hw s2).exists, ?_⟩
  · exact fun _ => rfl
  · exact fun _ => ⟨rfl, rfl⟩
  · obtain ⟨hlog, hothers, hrest⟩ := buffersFilled_modBuf (fun _ hu => hu) t (fun o : OpBuf => { o with
      expanded := true, acts := layoutActs st ((expandShare st r t).2 - (expandShare st r t).1) rows }) s2
    exact ⟨hlog, hothers, hrest⟩

end

/-! ## VERIFICATION_TILE -/

section
variable {m : Fin 16} {t : TileRef} {flips : List (Nat × Byte)} {s s1 : State} {p : Package} {st q : Station} {r : ExpandRec} {x0 : StFrame}

/-- Whether a Mule may verify the frame of a station now, its producer's header read and found good. -/
structure Verifies (s : State) (m : Fin 16) (t : TileRef) (p : Package) (st q : Station) (r : ExpandRec) (x0 : StFrame) (s1 : State) :
    Prop where
  pkg : (s.slot t.g.val).pkg = some p
  here : stationOf s t.g.val t.station = some st
  kind : st.params = .expand r
  source : p.producer? st 0 = some q
  frame : stFrame? s t.g.val t.station t.frame = some x0
  serves : muleServes s m (p.regionOf st) = true
  slotOpen : x0.slotOpen = true
  abandoned : x0.abandoned = false
  stalled : x0.stalled = false
  header : readHeader t.g q.number t.frame 3 s = (none, s1)

theorem Verifies.guard (h : Verifies s m t p st q r x0 s1) :
    muleServes s m (p.regionOf st) = true ∧ x0.slotOpen = true ∧ (!x0.abandoned) = true ∧ (!x0.stalled) = true := by
  simp [h.serves, h.slotOpen, h.abandoned, h.stalled]

theorem verificationTile_headerHit (h : Verifies s m t p st q r x0 s1) (hh : headerHit flips = true) :
    exec (.verificationTile m t flips) s
      = .next (headerStall t.g.val t.station t.frame (.tensor t.g.val q.number t.frame) s1) := by
  simp only [exec, execVerificationTile, h.pkg, h.here, h.kind, h.source, h.frame]
  rw [if_pos h.guard, h.header]
  simp only [hh, if_true]

theorem verificationTile_reads (h : Verifies s m t p st q r x0 s1) (hh : headerHit flips = false)
    (hskip : skipCount s1 t.g.val p st x0 = 0) {x : StFrame} (hx : stFrame? s1 t.g.val t.station t.frame = some x)
    (hnext : x.next = t.index) (hlim : t.index < x.limit) (hready : tileReady s1 t.g.val p st t.frame t.index = true)
    (hopen : queuesOpen s1 t.g.val p st = true) : exec (.verificationTile m t flips) s = .next (
      let j := (nth (0, 0) (p.verTiles st r) t.index).2
      verified p st q t j (readWhole t.g p q t.frame j (m.val / 4) flips s1).1 (readWhole t.g p q t.frame j (m.val / 4) flips s1).2) := by
  simp only [exec, execVerificationTile, h.pkg, h.here, h.kind, h.source, h.frame]
  rw [if_pos h.guard, h.header]
  simp only [hh, Bool.false_eq_true, if_false, skipTiles_none hskip, hx, hnext, if_neg (Nat.not_le.2 hlim), ne_eq, not_true_eq_false,
    hready, hopen, Bool.not_true, or_self]

theorem verified_good {j : Nat} {x : TileRead} {o e : Nat × Nat × Nat} {c k : List Nat} (hx : x = .good o e c k) {d : Desc}
    (hd : ((stFrame? s t.g.val q.number t.frame).bind fun y => y.descs.find? fun d => decide (d.index = j)) = some d) :
    verified p st q t j x s = resumeProducers t.g.val p st (finishStation t.g.val p st t.frame
      (modFrame t.g.val t.station t.frame (fun y => { y with
        next := y.next + 1, done := addNat t.index y.done
        descs := y.descs ++ [{ d with index := t.index, kind := 0, replay := false, last := false, shape := 0xFF }] }) s)) := by
  rw [verified.eq_def, hx]
  dsimp only
  rw [hd]

theorem verified_wrong {j : Nat} {x : TileRead} (hx : x = .wrong) :
    verified p st q t j x s = transferCheckFault t (.tile { t with station := q.number, index := j })
      (modFrame t.g.val t.station t.frame (fun y => { y with next := y.next + 1, issued := y.issued ++ [t.index] }) s) := by
  rw [verified.eq_def, hx]

end

/-! ## MULE_TRANSFER -/

section
variable {m : Fin 16} {u : UnitRef} {t : TileRef} {flips : List (Nat × Byte)} {s s1 : State} {p : Package} {st q : Station}
  (hp : (s.slot t.g.val).pkg = some p) (hst : stationOf s t.g.val t.station = some st)

section
include hp hst

theorem exec_muleFetch {n : Fin 4} {j : Nat} (h : muleServes s m u.region = true) :
    exec (.muleTransfer m t (.fetch u n j) flips) s = .next (fetchSource u.id t n j flips p st s) := by
  simp only [exec, execMuleTransfer, hp, hst, h, if_true]

theorem exec_muleWeights (h : muleServes s m u.region = true) :
    exec (.muleTransfer m t (.weights u) flips) s = .next (fetchWeights u.id t p st s) := by
  simp only [exec, execMuleTransfer, hp, hst, h, if_true]

theorem exec_muleResident (h : muleServes s m u.region = true) :
    exec (.muleTransfer m t (.resident u) flips) s = .next (fetchResident u.id t flips p st s) := by
  simp only [exec, execMuleTransfer, hp, hst, h, if_true]

theorem exec_muleCopy (h : muleServes s m (m.val / 4) = true) :
    exec (.muleTransfer m t .copy flips) s = .next (copyTile m t flips p st s) := by
  simp only [exec, execMuleTransfer, hp, hst, h, if_true]

end

/-! ### Source tiles -/

/-- Whether a Mule may bring source tile `j` of input `n` to a unit now, its producer's header read and found good. -/
structure BringsSource (s : State) (u : Nat) (t : TileRef) (n : Fin 4) (j : Nat) (p : Package) (st q : Station) (s1 : State) : Prop where
  source : p.producer? st n.val = some q
  kind : q.kind ≠ 2
  reuse : st.tiling.reuse ≠ 3
  room : ∀ v ∈ castSource s p st u, bufferRoom s v st t = true
  wanted : (wantedTiles s t.g.val p st t.frame t.index).contains (n.val, j) = true
  absent : (bufOf s u t).got.contains (n.val, j) = false
  header : readHeader t.g q.number t.frame 3 s = (none, s1)

variable {n : Fin 4} {j : Nat}

theorem BringsSource.guard {u : Nat} (h : BringsSource s u t n j p st q s1) : ¬ (q.kind = 2 ∨ st.tiling.reuse = 3
    ∨ !((castSource s p st u).all fun v => bufferRoom s v st t)
    ∨ !(wantedTiles s t.g.val p st t.frame t.index).contains (n.val, j) ∨ (bufOf s u t).got.contains (n.val, j)) := by
  have hroom : (castSource s p st u).all (fun v => bufferRoom s v st t) = true := List.all_eq_true.2 h.room
  rw [h.wanted, h.absent, hroom]
  simp [h.kind, h.reuse]

theorem fetchSource_wrong {u : Nat} (h : BringsSource s u t n j p st q s1) (hh : headerHit flips = false) {s2 : State}
    (hy : readWhole t.g p q t.frame j (regionOf u) flips s1 = (.wrong, s2)) :
    fetchSource u t n j flips p st s = operandFault u t (.tile { t with station := q.number, index := j }) s2 := by
  simp only [fetchSource, h.source]
  rw [if_neg h.guard, h.header]
  simp only [hh, Bool.false_eq_true, if_false, hy]

/-- A source tile joined to a buffer. -/
def withSource (x : SrcTile) (b : OpBuf) : OpBuf := { b with got := b.got ++ [(x.input, x.index)], srcs := b.srcs ++ [x] }

/-- The unexpanded activations of a tile assembled anew in a buffer. -/
def assembled (p : Package) (st : Station) (r : MatmulRec) (t : TileRef) (u : Nat) (s : State) (b : OpBuf) : OpBuf :=
  { b with acts := assembleActs s p st r t u b }

/-- A good source tile in the buffers of a station's units. -/
def sourceBrought (us : List Nat) (u : Nat) (t : TileRef) (p : Package) (st : Station) (x : SrcTile) (s : State) : State :=
  match st.params with
  | .matmul r =>
    if u < 32 then forEach us (fun v s => putBuf t (assembled p st r t v s) v s) (modBuf us t (withSource x) s) else modBuf us t (withSource x) s
  | _ => modBuf us t (withSource x) s

theorem fetchSource_good {u : Nat} (h : BringsSource s u t n j p st q s1) (hh : headerHit flips = false) {s2 : State}
    {o e : Nat × Nat × Nat} {c k : List Nat} (hy : readWhole t.g p q t.frame j (regionOf u) flips s1 = (.good o e c k, s2)) :
    fetchSource u t n j flips p st s = sourceBrought (castSource s p st u) u t p st ⟨n.val, j, o, e, c, k⟩ s2 := by
  simp only [fetchSource, h.source]
  rw [if_neg h.guard, h.header]
  simp only [hh, Bool.false_eq_true, if_false, hy]
  rfl

theorem sourceBrought_effect (us : List Nat) (u : Nat) (t : TileRef) (p : Package) (st : Station) (x : SrcTile) (s : State) :
    BuffersFilled us s (sourceBrought us u t p st x s)
      ∧ ∀ w ∈ us, HasBuf t (fun b => (x.input, x.index) ∈ b.got ∧ x ∈ b.srcs) w (sourceBrought us u t p st x s) := by
  have hfill := buffersFilled_modBuf (fun _ hu => hu : ∀ w ∈ us, w ∈ us) t (withSource x) s
  have hbuf : ∀ w ∈ us, HasBuf t (fun b => (x.input, x.index) ∈ b.got ∧ x ∈ b.srcs) w (modBuf us t (withSource x) s) := fun w hw =>
    hasBuf_modBuf (P := fun b => (x.input, x.index) ∈ b.got ∧ x ∈ b.srcs) (f := withSource x) (fun _ => rfl)
      (fun _ => ⟨List.mem_append_right _ (List.mem_singleton_self _), List.mem_append_right _ (List.mem_singleton_self _)⟩) hw s
  unfold sourceBrought
  split
  next r _ =>
    split
    · obtain ⟨hfill', hkeep⟩ := forEach_putBuf (P := fun b => (x.input, x.index) ∈ b.got ∧ x ∈ b.srcs) (t := t)
        (f := fun v s => assembled p st r t v s) (fun _ _ _ => rfl) (fun _ _ _ h => h) (fun _ hu => hu : ∀ w ∈ us, w ∈ us)
        (modBuf us t (withSource x) s)
      exact ⟨hfill.trans hfill', fun w hw => hkeep w (hbuf w hw)⟩
    · exact ⟨hfill, hbuf⟩
  · exact ⟨hfill, hbuf⟩

/-! ### Weights -/

/-- The units that one transfer of weights reaches. -/
def weightUnits (st : Station) (u : Nat) : List Nat := if u < 32 then castWeights st u else [u]

theorem fetchWeights_good {u : Nat} {r : MatmulRec} (hr : st.params = .matmul r) (hreuse : st.tiling.reuse ≠ 2)
    (hchain : st.shape = 4 → u % 8 = 0) (hroom : ∀ v ∈ weightUnits st u, bufferRoom s v st t = true) (hw : (bufOf s u t).weights = none)
    {a b c : Bytes} {s2 s3 : State} (h1 : readConstants t.g (regionOf u) (nth [] (weightRanges p st r u t) 0) s = (.data a, s1))
    (h2 : readConstants t.g (regionOf u) (nth [] (weightRanges p st r u t) 1) s1 = (.data b, s2))
    (h3 : readConstants t.g (regionOf u) (nth [] (weightRanges p st r u t) 2) s2 = (.data c, s3)) :
    fetchWeights u t p st s = modBuf (weightUnits st u) t (fun o => { o with weights := some (a, b, c) }) s3 := by
  have hall : (weightUnits st u).all (fun v => bufferRoom s v st t) = true := List.all_eq_true.2 hroom
  have hguard : ¬ (st.tiling.reuse = 2 ∨ (st.shape = 4 ∧ u % 8 ≠ 0) ∨ !((weightUnits st u).all fun v => bufferRoom s v st t)
      ∨ (bufOf s u t).weights.isSome) := by
    rw [hall, hw]
    simpa [hreuse] using hchain
  simp only [fetchWeights, hr]
  rw [← weightUnits, if_neg hguard, h1]
  simp only [h2, h3]

/-! ### Resident activations -/

theorem fetchResident_good {u : Nat} (hq : p.producer? st 0 = some q) (hreuse : st.tiling.reuse = 3) (hres : (s.unit u).resetting = false)
    (habs : (s.unit u).resident.contains (t.g, t.station, t.frame) = false) (hlog : ∃ e ∈ (s.unit u).log, e.ref = t)
    (hbusy : ∀ e ∈ (s.unit u).log, e.ref.g = t.g → e.ref.station = t.station → e.ref.frame % 2 = t.frame % 2 → e.ref.frame = t.frame)
    {y : StFrame} (hy : stFrame? s t.g.val q.number t.frame = some y) (hlast : y.lastSent = true) (hh : headerHit flips = false)
    (hhead : readHeaders t.g t.frame (q.number :: ((expansionOf p st).map fun y => y.2.2.number).toList) s = (none, s1))
    {rows : List (List Nat × List Nat)} {s2 : State} (hrows : frameOperand u t flips p st q s1 = (.ok rows, s2)) :
    fetchResident u t flips p st s = (
      let w := writeRowsOf (frameRows p st u t.frame) (residentBytes p st rows) s2
      w.setUnit u { w.unit u with resident := ((w.unit u).resident.filter fun k =>
        !(decide (k.1 = t.g) && decide (k.2.1 = t.station) && decide (k.2.2 % 2 = t.frame % 2))) ++ [(t.g, t.station, t.frame)] }) := by
  have hheld : ((s.unit u).log.any fun e => decide (e.ref = t)) = true := by simpa using hlog
  have hfree : ((s.unit u).log.any fun e => decide (e.ref.g = t.g) && decide (e.ref.station = t.station)
      && decide (e.ref.frame % 2 = t.frame % 2) && decide (e.ref.frame ≠ t.frame)) = false := by
    rw [List.any_eq_false]
    intro e he
    simp only [Bool.and_eq_true, decide_eq_true_eq, not_and, not_not]
    exact fun ⟨⟨hg, hs⟩, hf⟩ => hbusy e he hg hs hf
  simp only [fetchResident, hq]
  rw [if_neg (by rw [hres, habs, hfree, hheld, hy]; simp [hreuse, hlast]), hhead]
  simp only [hh, Bool.false_eq_true, if_false, hrows]

/-! ### Copies in memory -/

theorem copyTile_headerHit (h : readHeader t.g st.number t.frame 3 s = (none, s1)) (hh : headerHit flips = true) :
    copyTile m t flips p st s = transferCheckFault t (.tensor t.g.val st.number t.frame) s1 := by
  rw [copyTile, h]
  simp only [hh, if_true]

theorem copyTile_wrong (h : readHeader t.g st.number t.frame 3 s = (none, s1)) (hh : headerHit flips = false) {s2 : State}
    (hy : readWhole t.g p st t.frame t.index (m.val / 4) flips s1 = (.wrong, s2)) :
    copyTile m t flips p st s = transferCheckFault t (.tile t) s2 := by
  rw [copyTile, h]
  simp only [hh, Bool.false_eq_true, if_false, hy]

theorem copyTile_notWrong (h : readHeader t.g st.number t.frame 3 s = (none, s1)) (hh : headerHit flips = false)
    (hy : (readWhole t.g p st t.frame t.index (m.val / 4) flips s1).1 ≠ .wrong) :
    copyTile m t flips p st s = (readWhole t.g p st t.frame t.index (m.val / 4) flips s1).2 := by
  rw [copyTile, h]
  simp only [hh, Bool.false_eq_true, if_false]

end

/-- Settles O29: each transfer is decided by its header, then by the check word of what it read; what is brought goes into the operand
buffers of the units that share it. -/
theorem mulesCheckWhatTheyMove : Obligations.MulesCheckWhatTheyMove := by
  intro m u t flips s p st hp hst
  refine ⟨?_, ?_, ?_, ?_, ?_, ?_, ?_⟩
  · intro q z r s1 s2 rows us c pos hkind hserves hreuse hroom habs hread hrows k b
    have hexp : Expands s m u t p st q z r := ⟨hp, hst, hkind, hserves, hreuse, hroom, habs⟩
    refine ⟨expandTile_headerHit hexp hread, fun hh hcrc => expandTile_wrong hexp hread hh hrows hcrc, ?_⟩
    rintro rfl
    exact expandTile_effect hexp hread hrows
  · intro q z r w s1 hkind hserves hreuse hroom habs hread
    exact expandTile_headerFault ⟨hp, hst, hkind, hserves, hreuse, hroom, habs⟩ hread
  · intro r q x0 x s1 hkind hq hx0 hserves hopen habandoned hstalled hread
    have hver : Verifies s m t p st q r x0 s1 := ⟨hp, hst, hkind, hq, hx0, hserves, hopen, habandoned, hstalled, hread⟩
    refine ⟨verificationTile_headerHit hver, fun hh hskip hx hnext hlim hready hqueues => ?_⟩
    intro j y
    rw [verificationTile_reads hver hh hskip hx hnext hlim hready hqueues]
    refine ⟨fun o e c k d hgood hd => congrArg Host.Outcome.next ?_, fun hwrong => congrArg Host.Outcome.next ?_⟩
    · exact verified_good hgood hd
    · exact verified_wrong hwrong
  · intro q n j s1 us hserves hq hkind hreuse hroom hwanted habs hread hh y
    have hbring : BringsSource s u.id t n j p st q s1 := ⟨hq, hkind, hreuse, hroom, hwanted, habs, hread⟩
    rw [exec_muleFetch hp hst hserves]
    refine ⟨fun o e c k hgood => ⟨_, congrArg Host.Outcome.next (fetchSource_good hbring hh (s2 := y.2) (o := o) (e := e) (c := c) (k := k) ?_), ?_⟩,
      fun hwrong => congrArg Host.Outcome.next (fetchSource_wrong hbring hh ?_)⟩
    · rw [regionOf_id]
      exact Prod.ext hgood rfl
    · obtain ⟨⟨hlog, hothers, hrest⟩, hbuf⟩ := sourceBrought_effect us u.id t p st ⟨n.val, j, o, e, c, k⟩ y.2
      exact ⟨fun w hw => (hbuf w hw).exists, hlog, hothers, hrest⟩
    · rw [regionOf_id]
      exact Prod.ext hwrong rfl
  · intro r a b c s1 s2 s3 us l hserves hr hreuse hchain hroom hw h1 h2 h3
    rw [exec_muleWeights hp hst hserves]
    refine ⟨_, congrArg Host.Outcome.next (fetchWeights_good hr hreuse hchain hroom hw (by rwa [regionOf_id]) (by rwa [regionOf_id])
      (by rwa [regionOf_id])), fun w hw => (hasBuf_modBuf ?_ ?_ hw s3).exists, ?_⟩
    · exact fun _ => rfl
    · exact fun _ => rfl
    · obtain ⟨hlog, hothers, hrest⟩ := buffersFilled_modBuf (fun _ hu => hu : ∀ v ∈ weightUnits st u.id, v ∈ weightUnits st u.id) t
        (fun o : OpBuf => { o with weights := some (a, b, c) }) s3
      exact ⟨hlog, hothers, hrest⟩
  · intro q y rows s1 s2 x w hserves hq hreuse hres habs hlog hbusy hy hlast hh hhead hrows
    refine ⟨_, (exec_muleResident hp hst hserves).trans (congrArg Host.Outcome.next
      (fetchResident_good hq hreuse hres habs hlog hbusy hy hlast hh hhead hrows)), ?_, fun k hk => State.unit_setUnit_of_ne _ _ hk, rfl⟩
    rw [State.unit_setUnit_self]
    exact List.mem_append_right _ (List.mem_singleton_self _)
  · intro s1 hserves hread y
    rw [exec_muleCopy hp hst hserves]
    exact ⟨fun hh => congrArg Host.Outcome.next (copyTile_headerHit hread hh),
      fun hh hwrong => congrArg Host.Outcome.next (copyTile_wrong hread hh (Prod.ext hwrong rfl)),
      fun hh hgood => congrArg Host.Outcome.next (copyTile_notWrong hread hh hgood)⟩

end Sys2Proof.Machine
end

section
/-! The datapath of a block (R53 to R75), its drain port (R55) and the lanes of a vector block (R100, R371). -/

namespace Sys2Proof.Machine

open Sys2Proof

theorem nth_map_range {α : Type} (d : α) (f : Nat → α) {n i : Nat} (h : i < n) : nth d ((List.range n).map f) i = f i := by
  simp [nth, h]

theorem nth_map {α β : Type} (d : α) (f : α → β) (l : List α) {i : Nat} (h : i < l.length) (e : β) : nth e (l.map f) i = f (nth d l i) := by
  simp [nth, h]

/-! ## The signature of a beat -/

/-- One more beat counted by a unit, its log kept; nothing else but its own registers changed. -/
structure BeatCounted (u : Nat) (s t : State) : Prop where
  beat : (t.unit u).beat = (s.unit u).beat + 1
  log : (t.unit u).log = (s.unit u).log
  others : ∀ v, v ≠ u → t.unit v = s.unit v
  rest : { t with units := s.units } = s

theorem beatCounted_setUnit {u : Nat} {s : State} {x : UnitState} (hb : x.beat = (s.unit u).beat + 1) (hl : x.log = (s.unit u).log) :
    BeatCounted u s (s.setUnit u x) :=
  ⟨by rw [State.unit_setUnit_self, hb], by rw [State.unit_setUnit_self, hl], fun _ hv => State.unit_setUnit_of_ne _ _ hv, rfl⟩

theorem BeatCounted.of_setUnit {u : Nat} {s t : State} {x : UnitState} (h : BeatCounted u (s.setUnit u x) t)
    (hb : x.beat = (s.unit u).beat) (hl : x.log = (s.unit u).log) : BeatCounted u s t where
  beat := by rw [h.beat, State.unit_setUnit_self, hb]
  log := by rw [h.log, State.unit_setUnit_self, hl]
  others v hv := (h.others v hv).trans (State.unit_setUnit_of_ne _ _ hv)
  rest := (congrArg (fun y : State => ({ y with units := s.units } : State)) h.rest :)

theorem beatCounted_foldBeat (u : Nat) (w : BitVec 64) (s : State) : BeatCounted u s (foldBeat u w s) := by
  have hport := fun (x : UnitState) (hx : x.beat = (s.unit u).beat + 1) (hl : x.log = (s.unit u).log) =>
    BeatCounted.of_setUnit (s := s) (x := { s.unit u with port := (s.unit u).port.filter fun p => !decide (p.1 ≤ (s.unit u).beat) })
      (beatCounted_setUnit (x := x) (by rw [State.unit_setUnit_self]; exact hx) (by rw [State.unit_setUnit_self]; exact hl)) rfl rfl
  unfold foldBeat
  dsimp only
  split
  · unfold closeWindow
    exact hport _ rfl (by rw [State.unit_setUnit_self])
  · exact hport _ rfl (by rw [State.unit_setUnit_self])

/-! ## The rows of a block -/

section
variable {base : Nat} {f : Nat → State → State} {h : Nat → RowRegs → RowRegs}

theorem row_forEach_of_not_mem (hf : ∀ k s r, (f k s).row r = if r = base + k then h k (s.row r) else s.row r) {ks : List Nat} {r : Nat}
    (hr : ∀ k ∈ ks, r ≠ base + k) (s : State) : (forEach ks f s).row r = s.row r := by
  induction ks generalizing s with
  | nil => rfl
  | cons k ks ih =>
    rw [forEach_cons, ih (fun j hj => hr j (List.mem_cons_of_mem _ hj)), hf, if_neg (hr k List.mem_cons_self)]

/-- Steps that each change one row of their own. -/
theorem row_forEach_of_mem (hf : ∀ k s r, (f k s).row r = if r = base + k then h k (s.row r) else s.row r) {ks : List Nat} (hks : ks.Nodup)
    {k : Nat} (hk : k ∈ ks) (s : State) : (forEach ks f s).row (base + k) = h k (s.row (base + k)) := by
  induction ks generalizing s with
  | nil => cases hk
  | cons j ks ih =>
    obtain ⟨hj, hks⟩ := List.nodup_cons.1 hks
    rw [forEach_cons]
    by_cases hkj : k = j
    · subst hkj
      rw [row_forEach_of_not_mem hf (fun i hi => by have := ne_of_mem_of_not_mem hi hj; omega), hf, if_pos rfl]
    · rw [ih hks ((List.mem_cons.1 hk).resolve_left hkj), hf, if_neg (by omega)]

end

/-- What the rows of a chain do in a beat, row after row. -/
def putRows (base : Nat) (part : Nat → RowBeat) (ks : List Nat) (s : State) : State :=
  forEach ks (fun k s => rowWrite (base + k) (part k) s) s

section
variable {base : Nat} {part : Nat → RowBeat} {ks : List Nat} {s : State}

theorem row_rowWrite (row : Nat) (x : RowBeat) (s : State) (r : Nat) : (rowWrite row x s).row r = if r = row then x.regs else s.row r := by
  have hset : (s.setRow row x.regs).row r = if r = row then x.regs else s.row r := by
    split
    next e => rw [e, State.row_setRow_self]
    next e => exact State.row_setRow_of_ne _ _ e
  unfold rowWrite
  dsimp only
  split
  · exact hset
  · exact hset

theorem accE_rowWrite_self {row : Nat} {x : RowBeat} {i : Nat} {e : AccEntry} (h : x.entry = some (i, e)) (s : State) :
    (rowWrite row x s).accE (accKey row i) = e := by
  simp only [rowWrite, h]
  exact State.accE_setAccE_self _ _ _

theorem accE_rowWrite_of_ne {row : Nat} {x : RowBeat} {key : Nat} (h : ∀ i e, x.entry = some (i, e) → key ≠ accKey row i) (s : State) :
    (rowWrite row x s).accE key = s.accE key := by
  unfold rowWrite
  dsimp only
  split
  next e he => exact (State.accE_setAccE_of_ne _ _ (h e.1 e.2 he)).trans rfl
  · rfl

theorem rowWrite_rest (row : Nat) (x : RowBeat) (s : State) : { rowWrite row x s with rows := s.rows, acc := s.acc } = s := by
  unfold rowWrite
  dsimp only
  split <;> rfl

theorem putRows_rest : { putRows base part ks s with rows := s.rows, acc := s.acc } = s := by
  refine forEach_induct (P := fun t : State => { t with rows := s.rows, acc := s.acc } = s) (fun k t ht => ?_) rfl
  exact (congrArg (fun v : State => ({ v with rows := s.rows, acc := s.acc } : State)) (rowWrite_rest (base + k) (part k) t) :).trans ht

theorem row_putRows_of_mem (hks : ks.Nodup) {k : Nat} (hk : k ∈ ks) : (putRows base part ks s).row (base + k) = (part k).regs :=
  row_forEach_of_mem (h := fun k _ => (part k).regs) (fun k s r => row_rowWrite (base + k) (part k) s r) hks hk s

theorem row_putRows_of_not_mem {r : Nat} (hr : ∀ k ∈ ks, r ≠ base + k) : (putRows base part ks s).row r = s.row r :=
  row_forEach_of_not_mem (h := fun k _ => (part k).regs) (fun k s r => row_rowWrite (base + k) (part k) s r) hr s

theorem accE_putRows_of_ne {key : Nat} (h : ∀ k ∈ ks, ∀ i e, (part k).entry = some (i, e) → key ≠ accKey (base + k) i) :
    (putRows base part ks s).accE key = s.accE key := by
  induction ks generalizing s with
  | nil => rfl
  | cons k ks ih =>
    exact (ih fun j hj => h j (List.mem_cons_of_mem _ hj)).trans (accE_rowWrite_of_ne (h k List.mem_cons_self) s)

theorem accE_putRows_of_mem (hsmall : ∀ k ∈ ks, ∀ i e, (part k).entry = some (i, e) → i < 32) (hks : ks.Nodup) {k : Nat} (hk : k ∈ ks)
    {i : Nat} {e : AccEntry} (he : (part k).entry = some (i, e)) : (putRows base part ks s).accE (accKey (base + k) i) = e := by
  have hi := hsmall k hk i e he
  induction ks generalizing s with
  | nil => cases hk
  | cons j ks ih =>
    obtain ⟨hj, hks⟩ := List.nodup_cons.1 hks
    have hrest : ∀ k ∈ ks, ∀ i e, (part k).entry = some (i, e) → i < 32 := fun k hk => hsmall k (List.mem_cons_of_mem _ hk)
    change (putRows base part ks (rowWrite (base + j) (part j) s)).accE _ = e
    by_cases hkj : k = j
    · subst hkj
      rw [accE_putRows_of_ne, accE_rowWrite_self he]
      intro n hn i' e' he'
      have hne := ne_of_mem_of_not_mem hn hj
      have hi' := hrest n hn i' e' he'
      simp only [accKey]
      omega
    · exact ih hrest hks ((List.mem_cons.1 hk).resolve_left hkj)

end

/-! ## The load wave (R66) -/

/-- A row's stationary registers with the operand of a load token. -/
def latchRow (x : RowRegs) : RowRegs :=
  match x.tok with
  | some y => if y.kind = .load then { x with stat := y.data, statScale := y.scales } else x
  | none => x

/-- Row `k` of a chain latches its operand. -/
def latchOne (base k : Nat) (s : State) : State :=
  match (s.row (base + k)).tok with
  | some y => if y.kind = .load then s.setRow (base + k) { s.row (base + k) with stat := y.data, statScale := y.scales } else s
  | none => s

theorem latchLoads_eq (base n : Nat) (t : Option StagTok) (s : State) : latchLoads base n t s
    = if (t.map fun x => decide (x.kind = .load) && x.last) = some true then forEach (List.range n) (latchOne base) s else s := rfl

theorem row_latchOne (base k : Nat) (s : State) (r : Nat) :
    (latchOne base k s).row r = if r = base + k then latchRow (s.row r) else s.row r := by
  unfold latchOne
  by_cases h : r = base + k
  · subst h
    rw [if_pos rfl, latchRow]
    cases ht : (s.row (base + k)).tok with
    | none => rfl
    | some y =>
      dsimp only
      split
      · rw [State.row_setRow_self, ht]
      · rfl
  · rw [if_neg h]
    split
    · split
      · exact State.row_setRow_of_ne _ _ h
      · rfl
    · rfl

theorem latchOne_rest (base k : Nat) (s : State) : { latchOne base k s with rows := s.rows } = s := by
  unfold latchOne
  split
  · split <;> rfl
  · rfl

theorem latchRow_tok (x : RowRegs) : (latchRow x).tok = x.tok := by
  unfold latchRow
  split
  · split <;> rfl
  · rfl

theorem latchRow_cells (x : RowRegs) : (latchRow x).cells = x.cells := by
  unfold latchRow
  split
  · split <;> rfl
  · rfl

section
variable (base n : Nat) (t : Option StagTok) (s : State)

theorem latchLoads_rest : { latchLoads base n t s with rows := s.rows } = s := by
  rw [latchLoads_eq]
  split
  · refine forEach_induct (P := fun v : State => { v with rows := s.rows } = s) (fun k v hv => ?_) rfl
    exact (congrArg (fun w : State => ({ w with rows := s.rows } : State)) (latchOne_rest base k v) :).trans hv
  · rfl

variable {base n t s}

theorem row_latchLoads_outside {r : Nat} (h : r < base ∨ base + n ≤ r) : (latchLoads base n t s).row r = s.row r := by
  rw [latchLoads_eq]
  split
  · exact row_forEach_of_not_mem (h := fun _ => latchRow) (row_latchOne base) (fun k hk => by have := List.mem_range.1 hk; omega) s
  · rfl

theorem row_latchLoads_wave (ht : (t.map fun x => decide (x.kind = .load) && x.last) = some true) {k : Nat} (hk : k < n) :
    (latchLoads base n t s).row (base + k) = latchRow (s.row (base + k)) := by
  rw [latchLoads_eq, if_pos ht]
  exact row_forEach_of_mem (h := fun _ => latchRow) (row_latchOne base) List.nodup_range (List.mem_range.2 hk) s

theorem row_latchLoads {k : Nat} (hk : k < n) : ((latchLoads base n t s).row (base + k)).tok = (s.row (base + k)).tok
    ∧ ((latchLoads base n t s).row (base + k)).cells = (s.row (base + k)).cells := by
  by_cases ht : (t.map fun x => decide (x.kind = .load) && x.last) = some true
  · rw [row_latchLoads_wave ht hk]
    exact ⟨latchRow_tok _, latchRow_cells _⟩
  · rw [latchLoads_eq, if_neg ht]
    exact ⟨rfl, rfl⟩

end

/-! ## What a token does in a row -/

section
variable {s : State} {base k : Nat} {y : StagTok}

/-- A load token stays in the stagger register alone. -/
theorem tok_rowBeat_load (h : y.kind = .load) : (rowBeat s base k (some y) []).regs.tok = some y := by
  obtain ⟨kind, ref, step, last, fmt, data, scales, acts, chunk, live⟩ := y
  cases h
  rfl

/-- The cells of a row for a token that opens or continues entry `i`. -/
def tokenCells (s : State) (row k i : Nat) (y : StagTok) : List (BitVec 32 × Nat × Bool) :=
  rowCells y (if (s.accE (accKey row i)).state = .free then none else some (s.accE (accKey row i)).cells)
    (latchesFor (s.row row) y (maskBits s row y.ref) (broadcast (s.row row) y k []).1 k []) (broadcast (s.row row) y k []).2.1 k []

theorem entry_rowBeat (h : y.kind ≠ .load) {i : Nat} (hi : entryFor s (base + k) y.ref = some i) :
    (rowBeat s base k (some y) []).entry = some (i, {
      state := if y.last then .closed else .accumulating, owner := some y.ref, float := !y.fmt.isInt
      cells := (tokenCells s (base + k) k i y).map fun c => (c.1, c.2.1)
      closedAt := (s.unit ((base + k) / 16)).beat, masked := maskBits s (base + k) y.ref }) := by
  obtain ⟨kind, ref, step, last, fmt, data, scales, acts, chunk, live⟩ := y
  cases kind with
  | load => exact absurd rfl h
  | initial =>
    simp only [rowBeat]
    rw [hi]
    rfl
  | weights =>
    simp only [rowBeat]
    rw [hi]
    rfl

theorem length_tokenCells (s : State) (row k i : Nat) (y : StagTok) : (tokenCells s row k i y).length = 64 := by
  rw [tokenCells, rowCells, List.length_map, List.length_range]

theorem bytes_protect (b : Bytes) : Prot.bytes (protect b) = b := by simp [Prot.bytes, protect, Function.comp_def]

/-- The cell that a row's entry gets. -/
theorem nth_tokenCells (s : State) (row k i : Nat) (y : StagTok) {c : Nat} (hc : c < 64) :
    nth (0#32, 0) ((tokenCells s row k i y).map fun c => (c.1, c.2.1)) c
      = ((nth (0#32, 0, true) (tokenCells s row k i y) c).1, (nth (0#32, 0, true) (tokenCells s row k i y) c).2.1) :=
  nth_map _ _ _ (by rw [length_tokenCells]; exact hc) _

end

/-! ## One beat of one block -/

theorem entryFor_lt {s : State} {row : Nat} {t : TileRef} {i : Nat} (h : entryFor s row t = some i) : i < 32 := by
  unfold entryFor at h
  split at h
  next j hj =>
    cases h
    exact List.mem_range.1 (List.mem_of_find?_eq_some hj)
  · exact List.mem_range.1 (List.mem_of_find?_eq_some h)

theorem entry_rowBeat_lt {s : State} {base k : Nat} {t : Option StagTok} {flips : List BeatFlip} {i : Nat} {e : AccEntry}
    (h : (rowBeat s base k t flips).entry = some (i, e)) : i < 32 := by
  unfold rowBeat at h
  dsimp only at h
  split at h
  · cases h
  · split at h
    · cases h
    · cases h
    next j hj _ =>
      cases h
      exact entryFor_lt hj

theorem cellFaults_nil (b : Nat) (s : State) : cellFaults b [] s = s := by simp [cellFaults]

theorem zipIdx_map_eq {α β : Type} (d : α) (f : α × Nat → β) (l : List α) :
    l.zipIdx.map f = (List.range l.length).map fun k => f (nth d l k, k) := by
  refine List.ext_getElem (by simp) fun i h1 h2 => ?_
  have hi : i < l.length := by simpa using h1
  simp [nth, hi]

section
variable {b : Nat} {toks : List (Option StagTok)} {flips : List BeatFlip} {s : State}

/-- What the rows of a block do in a beat. -/
def beatRows (s : State) (base : Nat) (toks : List (Option StagTok)) (flips : List BeatFlip) : List (Nat × RowBeat) :=
  toks.zipIdx.map fun x => (x.2, rowBeat s base x.2 x.1 flips)

theorem beatRows_eq {base : Nat} (hlen : toks.length = 16) :
    beatRows s base toks flips = (List.range 16).map fun k => (k, rowBeat s base k (nth none toks k) flips) := by
  rw [beatRows, zipIdx_map_eq none, hlen]

theorem putRows_beatRows {base : Nat} (hlen : toks.length = 16) : forEach (beatRows s base toks flips) (fun x s => rowWrite (base + x.1) x.2 s) s
    = putRows base (fun k => rowBeat s base k (nth none toks k) flips) (List.range 16) s := by
  rw [beatRows_eq hlen]
  exact List.foldl_map ..

/-- A beat of one block: its rows written, a load wave latched, the beat folded, faults raised. -/
theorem chainBeat_singleton : chainBeat [b] toks flips s = (
    let outs := beatRows s (16 * b) toks flips
    let mine := outs.filter fun x => (16 * b + x.1) / 16 = b
    let s1 := latchLoads (16 * b) toks.length (toks.headD none) (forEach outs (fun x s => rowWrite (16 * b + x.1) x.2 s) s)
    cellFaults b ((((([(b, dueChecks s b)].find? fun d => d.1 = b).map Prod.snd).getD []))
        ++ mine.flatMap fun x => x.2.faults.map fun w => (Src.OPERAND_PARITY, w))
      (foldBeat b (xorAll (mine.map fun x => x.2.word)) (s1.setUnit b { s1.unit b with
        checks := ((s1.unit b).checks.filter fun c => !decide (c.1 ≤ (s1.unit b).beat))
          ++ mine.flatMap fun x => x.2.checks.map fun c => ((s1.unit b).beat + 2, (16 * b + x.1) % 16, c) }))) := rfl

/-- The state between the rows of a beat and its signature. -/
def rowsBeaten (b : Nat) (toks : List (Option StagTok)) (flips : List BeatFlip) (s : State) : State :=
  latchLoads (16 * b) 16 (toks.headD none) (putRows (16 * b) (fun k => rowBeat s (16 * b) k (nth none toks k) flips) (List.range 16) s)

/-- A beat without a fault. -/
theorem chainBeat_good (hlen : toks.length = 16) (hdue : dueChecks s b = [])
    (hfaults : ∀ k, k < 16 → (rowBeat s (16 * b) k (nth none toks k) flips).faults = []) :
    ∃ w l, chainBeat [b] toks flips s
      = foldBeat b w ((rowsBeaten b toks flips s).setUnit b { (rowsBeaten b toks flips s).unit b with checks := l }) := by
  have hparity : ((beatRows s (16 * b) toks flips).filter fun x => (16 * b + x.1) / 16 = b).flatMap
      (fun x => x.2.faults.map fun w => (Src.OPERAND_PARITY, w)) = [] := by
    rw [List.flatMap_eq_nil_iff]
    intro x hx
    have hmem := (List.mem_filter.1 hx).1
    rw [beatRows_eq hlen] at hmem
    obtain ⟨k, hk, rfl⟩ := List.mem_map.1 hmem
    rw [hfaults k (List.mem_range.1 hk)]
    rfl
  have hlist : ((([(b, dueChecks s b)].find? fun d => d.1 = b).map Prod.snd).getD []) = [] := by
    rw [List.find?_singleton, decide_eq_true rfl, hdue]
    rfl
  have hbeat := chainBeat_singleton (b := b) (toks := toks) (flips := flips) (s := s)
  dsimp only at hbeat
  rw [hparity, hlist, List.append_nil, cellFaults_nil, putRows_beatRows hlen, hlen] at hbeat
  exact ⟨_, _, hbeat⟩

theorem rowsBeaten_rest : { rowsBeaten b toks flips s with rows := s.rows, acc := s.acc } = s :=
  (congrArg (fun v : State => ({ v with rows := s.rows, acc := s.acc } : State)) (latchLoads_rest (16 * b) 16 (toks.headD none)
    (putRows (16 * b) (fun k => rowBeat s (16 * b) k (nth none toks k) flips) (List.range 16) s)) :).trans putRows_rest

theorem rowsBeaten_unit (v : Nat) : (rowsBeaten b toks flips s).unit v = s.unit v := by
  have h := (congrArg State.units (rowsBeaten_rest (b := b) (toks := toks) (flips := flips) (s := s)) :)
  simp only [State.unit]
  rw [← h]

theorem rowsBeaten_acc (key : Nat) : (rowsBeaten b toks flips s).accE key
    = (putRows (16 * b) (fun k => rowBeat s (16 * b) k (nth none toks k) flips) (List.range 16) s).accE key := by
  have h := (congrArg State.acc (latchLoads_rest (16 * b) 16 (toks.headD none)
    (putRows (16 * b) (fun k => rowBeat s (16 * b) k (nth none toks k) flips) (List.range 16) s)) :)
  simp only [State.accE]
  rw [← h]
  rfl

theorem row_rowsBeaten {k : Nat} (hk : k < 16) :
    ((rowsBeaten b toks flips s).row (16 * b + k)).tok = (rowBeat s (16 * b) k (nth none toks k) flips).regs.tok
      ∧ ((rowsBeaten b toks flips s).row (16 * b + k)).cells = (rowBeat s (16 * b) k (nth none toks k) flips).regs.cells := by
  have hrow := row_latchLoads (base := 16 * b) (t := toks.headD none)
    (s := putRows (16 * b) (fun k => rowBeat s (16 * b) k (nth none toks k) flips) (List.range 16) s) hk
  rw [row_putRows_of_mem List.nodup_range (List.mem_range.2 hk)] at hrow
  exact hrow

theorem row_rowsBeaten_outside {r : Nat} (h : r < 16 * b ∨ 16 * b + 16 ≤ r) : (rowsBeaten b toks flips s).row r = s.row r :=
  (row_latchLoads_outside h).trans (row_putRows_of_not_mem fun k hk => by have := List.mem_range.1 hk; omega)

/-- The last load token of a wave latches every row's operand. -/
theorem row_rowsBeaten_wave {z y : StagTok} (hhead : toks.head? = some (some z)) (hz : z.kind = .load) (hlast : z.last = true) {k : Nat}
    (hk : k < 16) (hy : nth none toks k = some y) (hkind : y.kind = .load) :
    ((rowsBeaten b toks [] s).row (16 * b + k)).stat = y.data ∧ ((rowsBeaten b toks [] s).row (16 * b + k)).statScale = y.scales := by
  have hd : toks.headD none = some z := by rw [List.headD_eq_head?_getD, hhead]; rfl
  have hwave : (((toks.headD none).map fun x => decide (x.kind = .load) && x.last)) = some true := by
    rw [hd, Option.map_some, hz, hlast]
    rfl
  rw [rowsBeaten, row_latchLoads_wave hwave hk, row_putRows_of_mem List.nodup_range (List.mem_range.2 hk), hy, latchRow,
    tok_rowBeat_load hkind]
  dsimp only
  rw [if_pos hkind]
  exact ⟨rfl, rfl⟩

/-- What a beat without a fault does to a block. -/
theorem chainBeat_effect (hlen : toks.length = 16) (hdue : dueChecks s b = [])
    (hfaults : ∀ k, k < 16 → (rowBeat s (16 * b) k (nth none toks k) flips).faults = []) :
    (∀ r, (chainBeat [b] toks flips s).row r = (rowsBeaten b toks flips s).row r)
      ∧ (∀ key, (chainBeat [b] toks flips s).accE key = (rowsBeaten b toks flips s).accE key)
      ∧ (∀ v, v ≠ b → (chainBeat [b] toks flips s).unit v = s.unit v)
      ∧ ((chainBeat [b] toks flips s).unit b).beat = (s.unit b).beat + 1 ∧ ((chainBeat [b] toks flips s).unit b).log = (s.unit b).log
      ∧ { chainBeat [b] toks flips s with rows := s.rows, acc := s.acc, units := s.units } = s := by
  obtain ⟨w, l, h⟩ := chainBeat_good hlen hdue hfaults
  have hunit (v : Nat) := rowsBeaten_unit (b := b) (toks := toks) (flips := flips) (s := s) v
  have hback := rowsBeaten_rest (b := b) (toks := toks) (flips := flips) (s := s)
  rw [h]
  generalize rowsBeaten b toks flips s = u at *
  have hfold := (beatCounted_foldBeat b w (u.setUnit b { u.unit b with checks := l })).of_setUnit rfl rfl
  have hrows := (congrArg State.rows hfold.rest :)
  have hacc := (congrArg State.acc hfold.rest :)
  refine ⟨fun r => ?_, fun key => ?_, fun v hv => (hfold.others v hv).trans (hunit v),
    by rw [hfold.beat, hunit], by rw [hfold.log, hunit], ?_⟩
  · simp only [State.row]
    rw [← hrows]
  · simp only [State.accE]
    rw [← hacc]
  · exact (congrArg (fun v : State => ({ v with rows := s.rows, acc := s.acc, units := s.units } : State)) hfold.rest :).trans
      ((congrArg (fun v : State => ({ v with units := s.units } : State)) hback :).trans rfl)

end

/-! ## The value of a cell (R53, R57, R58) -/

theorem leVal_replicate_zero (n : Nat) : leVal (List.replicate n 0#8) = 0 := by
  induction n with
  | zero => rfl
  | succ n ih =>
    rw [List.replicate_succ, leVal, ih]
    rfl

/-- A latch that holds zero is an operand of zero, whatever elements are live. -/
theorem liveWord_zero {b : Bytes} (h : leVal b = 0) (f : Fmt) (live : Nat) : liveWord f live b = 0#64 := by
  unfold liveWord
  rw [h]
  refine congrArg (BitVec.ofNat 64) (foldl_keeps (P := fun a => a = 0) (fun a i ha => ?_) _ rfl)
  simp [ha]

theorem intProducts_zero (f : Fmt) : (intProducts f 0#64 0#64).sum = 0 := by
  have hzero (w : Nat) : signed w 0 = 0 := by simp [signed]
  simp [intProducts, latchElem, hzero]

section
variable {s : State} {row k i c : Nat} {y : StagTok}

/-- The latches of cell `c` of a row for a token. -/
def cellLatch (s : State) (row k : Nat) (y : StagTok) (c : Nat) : CellRegs :=
  let m := nth false (maskBits s row y.ref) c
  let n := if y.kind = .initial then 4 else chunkBytes y.fmt
  let bc := (broadcast (s.row row) y k []).1
  { weight := protect (if m then List.replicate n 0#8 else slice y.data.bytes (c * n) n)
    bcast := if y.kind = .initial then (nth {} (s.row row).cells c).bcast else protect (if m then List.replicate bc.length 0#8 else bc)
    mask := m }

theorem nth_tokenCells_eq (hc : c < 64) : nth (0#32, 0, true) (tokenCells s row k i y) c
    = cellWrite y ((if (s.accE (accKey row i)).state = .free then none else some (s.accE (accKey row i)).cells).map fun o => nth (0#32, 0) o c)
        (cellLatch s row k y c) (nth 127 (y.scales.bytes.map BitVec.toNat) c) (broadcast (s.row row) y k []).2.1 0#32 := by
  have hlatch : nth {} (latchesFor (s.row row) y (maskBits s row y.ref) (broadcast (s.row row) y k []).1 k []) c = cellLatch s row k y c := by
    rw [latchesFor]
    exact nth_map_range _ _ hc
  rw [tokenCells, rowCells, nth_map_range _ _ hc, hlatch]
  rfl

theorem value_tokenCells_initial (hk : y.kind = .initial) (hc : c < 64) :
    (nth (0#32, 0, true) (tokenCells s row k i y) c).1 = BitVec.ofNat 32 (leVal
      (if nth false (maskBits s row y.ref) c then List.replicate 4 0#8 else slice y.data.bytes (c * 4) 4)) := by
  rw [nth_tokenCells_eq hc, cellWrite, if_pos hk]
  simp only [cellLatch, hk, if_true, bytes_protect]

/-- A masked cell multiplies zero by zero. -/
theorem value_tokenCells_masked (hk : y.kind = .weights) (hf : y.fmt.isInt = true) (ho : (s.accE (accKey row i)).state ≠ .free) (hc : c < 64)
    (hm : nth false (maskBits s row y.ref) c = true) :
    (nth (0#32, 0, true) (tokenCells s row k i y) c).1 = (nth (0#32, 0) (s.accE (accKey row i)).cells c).1 := by
  have hne : ¬ (Token.weights = Token.initial) := by decide
  rw [nth_tokenCells_eq hc, cellWrite, if_neg (by rw [hk]; exact hne), if_neg ho]
  simp only [cellLatch, hk, hm, hne, if_true, if_false, bytes_protect, liveWord_zero (leVal_replicate_zero _), cellAccumulate, hf,
    intAccumulate_value, intProducts_zero]
  simp

end

/-! ## ACCUMULATE -/

/-- The beat of a chain that may run one, its multicast sources released. -/
def beatWith (b : Nat) (us : List Nat) (flips : List BeatFlip) (s : State) : State :=
  match unfed? s b with
  | none => if unfinished s us && canAdvance s us none then advance us none flips s else s
  | some e => match runOf s e with
    | none => s
    | some r =>
      if !operandsIn s b r e then s
      else if r.count = 0 then zeroTile us r e s
      else match nextToken s b r e with
        | none => s
        | some tok =>
          if canAdvance s us (some tok) then advance us (some tok) flips (tokenTaken b r e (decide (tok.kind = .weights)) s) else s

section
variable {b : Fin 32} {flips : List BeatFlip} {s : State} {e0 : LogEntry} {st : Station} {rest : List Nat}

theorem exec_accumulate_slice (hst : (s.unit b.val).status = .slice) (hw : working s = true) (hd : s.drained = false)
    (hr : (s.unit b.val).resetting = false) : exec (.accumulate b flips) s = .next (sliceBeat b.val flips s) := by
  simp only [exec, execAccumulate, hst, hw, hd, hr, Bool.not_false, and_self, if_true]

theorem exec_accumulate_of_ne (hst : (s.unit b.val).status ≠ .slice) :
    exec (.accumulate b flips) s = .next (accumulateBeat b.val flips s) := by
  simp only [exec, execAccumulate, hst, false_and, if_false]

theorem accumulateBeat_empty (h : (s.unit b.val).log = []) : accumulateBeat b.val flips s = s := by
  rw [accumulateBeat, h]
  rfl

variable (hhead : (s.unit b.val).log.head? = some e0) (hst : stationOf s e0.ref.g.val e0.ref.station = some st)
  (hchain : chainOf st b.val = b.val :: rest)
include hhead hst hchain

theorem accumulateBeat_barred (hm : mayBeat s (b.val :: rest) = false) : accumulateBeat b.val flips s = s := by
  have hbind : ((s.unit b.val).log.head?.bind fun e => stationOf s e.ref.g.val e.ref.station) = some st := by rw [hhead]; exact hst
  rw [accumulateBeat, hbind]
  simp only [hchain, hm, Bool.not_false, or_true, if_true]

theorem accumulateBeat_runs (hm : mayBeat s (b.val :: rest) = true) :
    accumulateBeat b.val flips s = beatWith b.val (b.val :: rest) flips (releaseActs b.val (releaseWeights b.val s)) := by
  have hbind : ((s.unit b.val).log.head?.bind fun e => stationOf s e.ref.g.val e.ref.station) = some st := by rw [hhead]; exact hst
  rw [accumulateBeat, hbind]
  simp only [hchain, hm, List.headD_cons, ne_eq, not_true_eq_false, Bool.not_true, Bool.false_eq_true, or_self, if_false]
  rfl

end

section
variable {b : Nat} {us : List Nat} {flips : List BeatFlip} {s : State} {e : LogEntry} {r : Run} {tok : StagTok}

theorem beatWith_none (h : unfed? s b = none) :
    beatWith b us flips s = if unfinished s us && canAdvance s us none then advance us none flips s else s := by
  simp only [beatWith, h]

variable (h : unfed? s b = some e) (hr : runOf s e = some r)
include h hr

theorem beatWith_unfetched (ho : operandsIn s b r e = false) : beatWith b us flips s = s := by
  simp only [beatWith, h, hr, ho, Bool.not_false, if_true]

theorem beatWith_zero (ho : operandsIn s b r e = true) (hc : r.count = 0) : beatWith b us flips s = zeroTile us r e s := by
  simp only [beatWith, h, hr, ho, Bool.not_true, Bool.false_eq_true, if_false, hc, if_true]

variable (ho : operandsIn s b r e = true) (hc : r.count ≠ 0)
include ho hc

theorem beatWith_starved (ht : nextToken s b r e = none) : beatWith b us flips s = s := by
  simp only [beatWith, h, hr, ho, Bool.not_true, Bool.false_eq_true, if_false, hc, ht]

theorem beatWith_token (ht : nextToken s b r e = some tok) : beatWith b us flips s = if canAdvance s us (some tok) then
    advance us (some tok) flips (tokenTaken b r e (decide (tok.kind = .weights)) s) else s := by
  simp only [beatWith, h, hr, ho, Bool.not_true, Bool.false_eq_true, if_false, hc, ht]

end

/-! ## The drain port -/

section
variable {b row entry i due : Nat} {s : State}

theorem drainQuarter_idle (h : rowDue s (16 * b + row) = none) : drainQuarter b row entry s = s := by
  simp only [drainQuarter, h]

theorem drainQuarter_waits (h : rowDue s (16 * b + row) = some (i, due))
    (hw : i ≠ entry ∨ (due > (s.unit b).beat ∧ awaitsEntry s b = false)) : drainQuarter b row entry s = s := by
  simp only [drainQuarter, h]
  refine if_pos ?_
  obtain hw | ⟨hlt, hwait⟩ := hw
  · exact .inl hw
  · refine .inr (.inr (.inr ?_))
    rw [decide_eq_false (Nat.not_le.2 hlt), hwait]
    rfl

variable (h : rowDue s (16 * b + row) = some (entry, due)) (hw : due ≤ (s.unit b).beat ∨ awaitsEntry s b = true)
  (hr : (s.unit b).resetting = false) (hd : s.drained = false)
include h hw hr hd

theorem drainQuarter_failing (hbad : ((s.unit b).checks.filter fun c => decide (c.2.1 = row)) ≠ []) :
    drainQuarter b row entry s = cellFaults b (((s.unit b).checks.filter fun c => decide (c.2.1 = row)).map fun c =>
        (Src.CELL_RESIDUE, Ident.cell b c.2.1 c.2.2))
      (s.setUnit b { s.unit b with checks := (s.unit b).checks.filter fun c => !decide (c.2.1 = row) }) := by
  have hready : (decide (due ≤ (s.unit b).beat) || awaitsEntry s b) = true := by simpa using hw
  simp only [drainQuarter, h, hr, hd, hready, ne_eq, not_true_eq_false, Bool.not_true, Bool.false_eq_true, or_self, if_false]
  split
  next e => rw [e]
  next e => exact absurd e hbad

/-- A quarter on the drain port: its values, and the beat of the row's next one. -/
def quarterOut (s : State) (b row entry due : Nat) : UnitState :=
  let e := s.accE (accKey (16 * b + row) entry)
  let w := xorAll (((e.cells.drop (16 * e.quarter)).take 16).map value34) ^^^ BitVec.ofNat 64 entry
  { s.unit b with port := (s.unit b).port ++ [(due, placeRow row w)], portNext := sset dflt0 (s.unit b).portNext row (due + 1) }

theorem drainQuarter_quarter (hgood : ((s.unit b).checks.filter fun c => decide (c.2.1 = row)) = []) : drainQuarter b row entry s = (
    let k := accKey (16 * b + row) entry
    let e := s.accE k
    let s1 := s.setUnit b (quarterOut s b row entry due)
    if e.quarter < 3 then s1.setAccE k { e with state := .draining, quarter := e.quarter + 1 }
    else closeEarly b ((s1.setAccE k {}).setUnit b { (s1.setAccE k {}).unit b with
      outBuf := ((s1.setAccE k {}).unit b).outBuf ++ outRow s b row due e })) := by
  have hready : (decide (due ≤ (s.unit b).beat) || awaitsEntry s b) = true := by simpa using hw
  simp only [drainQuarter, h, hr, hd, hready, ne_eq, not_true_eq_false, Bool.not_true, Bool.false_eq_true, or_self, if_false, hgood, quarterOut]

end

/-- Only unit `u` changed, its output buffer kept. -/
structure OutputKept (u : Nat) (s t : State) : Prop where
  outBuf : (t.unit u).outBuf = (s.unit u).outBuf
  others : ∀ v, v ≠ u → t.unit v = s.unit v
  rest : { t with units := s.units } = s

theorem outputKept_setUnit {u : Nat} {s : State} {x : UnitState} (h : x.outBuf = (s.unit u).outBuf) : OutputKept u s (s.setUnit u x) :=
  ⟨by rw [State.unit_setUnit_self, h], fun _ hv => State.unit_setUnit_of_ne _ _ hv, rfl⟩

theorem OutputKept.trans {u : Nat} {s t v : State} (h : OutputKept u s t) (h' : OutputKept u t v) : OutputKept u s v :=
  ⟨h'.outBuf.trans h.outBuf, fun w hw => (h'.others w hw).trans (h.others w hw),
    (congrArg (fun x : State => ({ x with units := s.units } : State)) h'.rest :).trans h.rest⟩

theorem OutputKept.acc {u : Nat} {s t : State} (h : OutputKept u s t) (k : Nat) : t.accE k = s.accE k := by
  have hacc := (congrArg State.acc h.rest :)
  simp only [State.accE]
  rw [← hacc]

theorem outputKept_closeEarly (u : Nat) (s : State) : OutputKept u s (closeEarly u s) := by
  unfold closeEarly closeWindow
  dsimp only
  split
  · refine (outputKept_setUnit (x := { s.unit u with port := [] }) rfl).trans (outputKept_setUnit ?_)
    rfl
  · exact ⟨rfl, fun _ _ => rfl, rfl⟩

/-- A quarter leaves; with the last one the row is in the output buffer and the entry is free. -/
theorem drainQuarter_effect {b row entry due : Nat} {s : State} (h : rowDue s (16 * b + row) = some (entry, due))
    (hw : due ≤ (s.unit b).beat ∨ awaitsEntry s b = true) (hr : (s.unit b).resetting = false) (hd : s.drained = false)
    (hgood : ((s.unit b).checks.filter fun c => decide (c.2.1 = row)) = []) :
    let k := accKey (16 * b + row) entry
    let e := s.accE k
    let t := drainQuarter b row entry s
    (∀ j, j ≠ k → t.accE j = s.accE j)
      ∧ (e.quarter < 3 → t.accE k = { e with state := .draining, quarter := e.quarter + 1 } ∧ (t.unit b).outBuf = (s.unit b).outBuf)
      ∧ (3 ≤ e.quarter → t.accE k = {} ∧ (t.unit b).outBuf = (s.unit b).outBuf ++ outRow s b row due e)
      ∧ (∀ v, v ≠ b → t.unit v = s.unit v) ∧ { t with acc := s.acc, units := s.units } = s := by
  intro k e t
  have ht : t = _ := drainQuarter_quarter h hw hr hd hgood
  have hport : (quarterOut s b row entry due).outBuf = (s.unit b).outBuf := rfl
  generalize quarterOut s b row entry due = x at ht hport
  dsimp only at ht
  change t = if e.quarter < 3 then (s.setUnit b x).setAccE k { e with state := .draining, quarter := e.quarter + 1 } else
    closeEarly b (((s.setUnit b x).setAccE k {}).setUnit b { ((s.setUnit b x).setAccE k {}).unit b with
      outBuf := (((s.setUnit b x).setAccE k {}).unit b).outBuf ++ outRow s b row due e }) at ht
  have hself (y : AccEntry) : (((s.setUnit b x).setAccE k y).unit b).outBuf = (s.unit b).outBuf :=
    (congrArg UnitState.outBuf (State.unit_setUnit_self s b x) :).trans hport
  have hothers (y : AccEntry) (v : Nat) (hv : v ≠ b) : ((s.setUnit b x).setAccE k y).unit v = s.unit v :=
    State.unit_setUnit_of_ne s x hv
  have hacc (y : AccEntry) (j : Nat) (hj : j ≠ k) : ((s.setUnit b x).setAccE k y).accE j = s.accE j := State.accE_setAccE_of_ne _ _ hj
  have hrest (y : AccEntry) : { (s.setUnit b x).setAccE k y with acc := s.acc, units := s.units } = s := rfl
  by_cases hq : e.quarter < 3
  · rw [if_pos hq] at ht
    rw [ht]
    exact ⟨fun j hj => hacc _ j hj, fun _ => ⟨State.accE_setAccE_self _ _ _, hself _⟩, fun hge => absurd hq (Nat.not_lt.2 hge),
      fun v hv => hothers _ v hv, hrest _⟩
  · rw [if_neg hq] at ht
    have hfree : ((s.setUnit b x).setAccE k {}).accE k = {} := State.accE_setAccE_self _ _ _
    have hself' := hself {}
    have hothers' := hothers {}
    have hacc' := hacc {}
    have hrest' := hrest {}
    generalize (s.setUnit b x).setAccE k {} = u at *
    have hclose := outputKept_closeEarly b (u.setUnit b { u.unit b with outBuf := (u.unit b).outBuf ++ outRow s b row due e })
    rw [← ht] at hclose
    refine ⟨fun j hj => (hclose.acc j).trans (hacc' j hj), fun hlt => absurd hlt hq, fun _ => ⟨(hclose.acc k).trans hfree, ?_⟩,
      fun v hv => (hclose.others v hv).trans ((State.unit_setUnit_of_ne _ _ hv).trans (hothers' v hv)), ?_⟩
    · rw [hclose.outBuf, State.unit_setUnit_self, ← hself']
    · exact (congrArg (fun v : State => ({ v with acc := s.acc, units := s.units } : State)) hclose.rest :).trans hrest'

/-! ## Vector lanes -/

/-- Whether a vector block can take a beat. -/
def LanesReady (s : State) (u : Nat) : Prop :=
  working s = true ∧ (s.unit u).resetting = false ∧ (s.unit u).status = .inService ∧ s.drained = false ∧ mayAccept s u = true

/-- The lanes of a block after an operation. -/
def lanesAfter (s : State) (v : Nat) (op : VOp) (int : Bool) (fmt : Fmt) (a b c : LaneSrc) : List (BitVec 32) × List (BitVec 32) :=
  laneResults op int fmt (fromInput a) (laneOperand s v a) (laneOperand s v b) (laneOperand s v c)

section
variable {v : Fin 8} {op : VOp} {int : Bool} {fmt : Fmt} {a b c : LaneSrc} {flips : List (Nat × BitVec 32)} {s : State}

theorem exec_vectorLane_idle (h : ¬ LanesReady s (32 + v.val)) : exec (.vectorLaneOperation v op int fmt a b c flips) s = .next s := by
  refine congrArg Host.Outcome.next (if_pos ?_)
  by_contra hn
  simp only [not_or] at hn
  obtain ⟨hw, hr, hs, hd, hm⟩ := hn
  exact h ⟨by simpa using hw, by simpa using hr, by simpa using hs, by simpa using hd, by simpa using hm⟩

theorem exec_vectorLane (h : LanesReady s (32 + v.val)) : exec (.vectorLaneOperation v op int fmt a b c flips) s = .next (
    let x := lanesAfter s v.val op int fmt a b c
    foldBeat (32 + v.val) (laneWord (flipLanes flips x.1)) (s.setLaneV v.val (flipLanes flips x.1 ++ x.2))) := by
  obtain ⟨hw, hr, hs, hd, hm⟩ := h
  refine congrArg Host.Outcome.next (if_neg ?_)
  simp [hw, hr, hs, hd, hm]

/-- A lane that no defect touches. -/
theorem nth_flipLanes {l : List (BitVec 32)} {i : Nat} (hi : i < l.length) (h : ∀ f ∈ flips, f.1 ≠ i) (m : List (BitVec 32)) :
    nth 0#32 (flipLanes flips l ++ m) i = nth 0#32 l i := by
  have hkeep : ∀ x, flips.foldl (fun (v : BitVec 32) (p : Nat × BitVec 32) => if p.1 = i then v ^^^ p.2 else v) x = x := by
    induction flips with
    | nil => exact fun _ => rfl
    | cons f flips ih =>
      intro x
      rw [List.foldl_cons, if_neg (h f List.mem_cons_self)]
      exact ih (fun g hg => h g (List.mem_cons_of_mem _ hg)) x
  have hlen : i < (flipLanes flips l).length := by simpa [flipLanes] using hi
  rw [nth, List.getElem?_append_left hlen]
  simp [nth, flipLanes, hi, hkeep]

theorem nth_flipLanes_map {n i : Nat} (hi : i < n) (h : ∀ f ∈ flips, f.1 ≠ i) (f : Nat → BitVec 32) (m : List (BitVec 32)) :
    nth 0#32 (flipLanes flips ((List.range n).map f) ++ m) i = f i :=
  (nth_flipLanes (by rwa [List.length_map, List.length_range]) h m).trans (nth_map_range _ _ hi)

/-- What lane `i` computes. -/
def laneValue (s : State) (v : Nat) (op : VOp) (int : Bool) (a b c : LaneSrc) (i : Nat) : BitVec 32 :=
  if int then intLane op (nth 0#32 (laneOperand s v a) i) (nth 0#32 (laneOperand s v b) i) (nth 0#32 (laneOperand s v c) i)
  else fpLane op (nth 0#32 (laneOperand s v a) i) (nth 0#32 (laneOperand s v b) i) (nth 0#32 (laneOperand s v c) i)

theorem lanesAfter_eq (hl : op ≠ .load) (hs : op ≠ .store) :
    lanesAfter s v.val op int fmt a b c = ((List.range 512).map (laneValue s v.val op int a b c), []) := by
  unfold lanesAfter laneResults
  dsimp only
  split
  · exact absurd rfl hl
  · exact absurd rfl hs
  · rfl

theorem vectorLane_effect (h : LanesReady s (32 + v.val)) :
    ∃ t, exec (.vectorLaneOperation v op int fmt a b c flips) s = .next t
      ∧ t.laneV v.val = flipLanes flips (lanesAfter s v.val op int fmt a b c).1 ++ (lanesAfter s v.val op int fmt a b c).2
      ∧ (∀ w, w ≠ v.val → t.laneV w = s.laneV w) ∧ (∀ w, w ≠ 32 + v.val → t.unit w = s.unit w)
      ∧ (t.unit (32 + v.val)).beat = (s.unit (32 + v.val)).beat + 1 ∧ { t with lanes := s.lanes, units := s.units } = s := by
  refine ⟨_, exec_vectorLane h, ?_⟩
  dsimp only
  generalize lanesAfter s v.val op int fmt a b c = x
  have hbeat := beatCounted_foldBeat (32 + v.val) (laneWord (flipLanes flips x.1)) (s.setLaneV v.val (flipLanes flips x.1 ++ x.2))
  generalize foldBeat (32 + v.val) (laneWord (flipLanes flips x.1)) (s.setLaneV v.val (flipLanes flips x.1 ++ x.2)) = t at *
  have hlanes := (congrArg State.lanes hbeat.rest :)
  have hlane (w : Nat) : t.laneV w = (s.setLaneV v.val (flipLanes flips x.1 ++ x.2)).laneV w := by
    simp only [State.laneV]
    rw [← hlanes]
  exact ⟨(hlane _).trans (State.laneV_setLaneV_self _ _ _), fun w hw => (hlane w).trans (State.laneV_setLaneV_of_ne _ _ hw),
    fun w hw => hbeat.others w hw, hbeat.beat, (congrArg (fun y : State => ({ y with lanes := s.lanes, units := s.units } : State)) hbeat.rest :)⟩

end

/-- Settles O30: a beat by the row that each token reaches, a drain by the quarter that leaves, a lane operation lane by lane. -/
theorem cellsAndLanesCompute : Obligations.CellsAndLanesCompute := by
  refine ⟨fun b flips s => ⟨exec_accumulate_slice, ?_, ?_⟩, fun b toks flips s hlen => ?_, fun base k i y s hk hi => ?_, fun b row entry s => ?_,
    fun v op int fmt a b c flips s => ?_⟩
  · exact fun hst hlog => (exec_accumulate_of_ne hst).trans (congrArg _ (accumulateBeat_empty hlog))
  · intro e0 st rest hst hhead hstation hchain us
    rw [exec_accumulate_of_ne hst]
    refine ⟨fun hm => congrArg _ (accumulateBeat_barred hhead hstation hchain hm), fun hm => ?_⟩
    rw [accumulateBeat_runs hhead hstation hchain hm]
    refine ⟨fun h => congrArg _ (beatWith_none h), fun e r h hr => ⟨fun ho => congrArg _ (beatWith_unfetched h hr ho),
      fun ho hc => congrArg _ (beatWith_zero h hr ho hc), fun ho hc ht => congrArg _ (beatWith_starved h hr ho hc ht),
      fun tok ho hc ht => ⟨fun hadv => congrArg _ ((beatWith_token h hr ho hc ht).trans (if_neg (ne_true_of_eq_false hadv))),
        fun hadv => congrArg _ ((beatWith_token h hr ho hc ht).trans (if_pos hadv))⟩⟩⟩
  · intro base part t hdue hfaults
    obtain ⟨hrows, hacc, hunits, hbeat, hlog, hrest⟩ := chainBeat_effect hlen hdue hfaults
    have hentry (key : Nat) : t.accE key = (putRows base part (List.range 16) s).accE key := (hacc key).trans (rowsBeaten_acc key)
    refine ⟨fun k hk => ?_, fun k i e hk he => ?_, fun key hkey => ?_, fun row hr => ?_, hunits, hbeat, hlog, hrest, ?_⟩
    · rw [hrows]
      exact row_rowsBeaten hk
    · rw [hentry]
      exact accE_putRows_of_mem (fun _ _ _ _ h => entry_rowBeat_lt h) List.nodup_range (List.mem_range.2 hk) he
    · rw [hentry]
      exact accE_putRows_of_ne fun k hk i e => hkey k i e (List.mem_range.1 hk)
    · rw [hrows]
      exact row_rowsBeaten_outside hr
    · rintro k y z hk rfl hhead hz hlast hy hkind
      rw [hrows]
      exact row_rowsBeaten_wave hhead hz hlast hk hy hkind
  · intro old
    refine ⟨_, entry_rowBeat hk hi, rfl, rfl, ?_, rfl, rfl, rfl, fun c hc hkind hm => ?_, fun c hc hm => ⟨fun hkind => ?_,
      fun hkind hint hfree => ?_⟩⟩
    · rw [List.length_map, length_tokenCells]
    · rw [nth_tokenCells _ _ _ _ _ hc, value_tokenCells_initial hkind hc, if_neg (ne_true_of_eq_false hm), Nat.mul_comm]
    · rw [nth_tokenCells _ _ _ _ _ hc, value_tokenCells_initial hkind hc, if_pos hm, leVal_replicate_zero]
    · rw [nth_tokenCells _ _ _ _ _ hc]
      exact value_tokenCells_masked hkind hint hfree hc hm
  · intro k e bad
    refine ⟨fun h => congrArg _ (drainQuarter_idle h), fun i due h => ⟨fun hw => congrArg _ (drainQuarter_waits h hw), ?_⟩⟩
    rintro rfl hw hr hd
    exact ⟨fun hbad => congrArg _ (drainQuarter_failing h hw hr hd hbad), fun hgood => ⟨_, rfl, drainQuarter_effect h hw hr hd hgood⟩⟩
  · intro u ready arg
    refine ⟨exec_vectorLane_idle, fun h => ?_⟩
    obtain ⟨t, hexec, hlanes, hothers, hunits, hbeat, hrest⟩ := vectorLane_effect (v := v) (op := op) (int := int) (fmt := fmt) (a := a) (b := b)
      (c := c) (flips := flips) h
    refine ⟨t, hexec, hlanes, fun i hi hl hs hflips => ?_, hothers, hunits, hbeat, hrest⟩
    rw [hlanes, lanesAfter_eq hl hs, nth_flipLanes_map hi hflips]
    rfl

end Sys2Proof.Machine
end
